-- ==== Sys2Proof/Word.lean ====
section
/-! DEFINITION. The word types of the P9 and their plainest arithmetic (00 R2, 07 R123). -/

namespace Sys2Proof

abbrev Byte := BitVec 8
/-- One lane of a vector register, or one scalar register (07 R123). -/
abbrev Word := BitVec 32
abbrev DWord := BitVec 64
/-- One bit a lane of a group (07 R118). -/
abbrev Mask := BitVec 128

/-- The number of lanes of a group (07 R118). -/
def lanes : Nat := 128

end Sys2Proof
end

