-- ==== Sys2Proof/Machine/Map.lean ====
section
/-! DEFINITION. Sparse maps over a Nat key, masks of lanes, vectors of lanes and bytes: the plain data that State is
made of. A map lists no default value and keeps its keys strictly rising, so equal maps are equal data. -/

namespace Sys2Proof

/-- A sparse map: what an unlisted key reads as is given at each read and write. -/
structure FMap (V : Type) where
  cells : List (Nat × V) := []
  deriving DecidableEq, Repr

namespace FMap
variable {V : Type}

def find (d : V) : List (Nat × V) → Nat → V
  | [], _ => d
  | (a, v) :: t, k => if k < a then d else if k = a then v else find d t k

/-- The value at `k`. -/
def get (d : V) (m : FMap V) (k : Nat) : V := find d m.cells k

def insert [DecidableEq V] (d : V) : List (Nat × V) → Nat → V → List (Nat × V)
  | [], k, v => if v = d then [] else [(k, v)]
  | (a, w) :: t, k, v =>
    if k < a then (if v = d then (a, w) :: t else (k, v) :: (a, w) :: t)
    else if k = a then (if v = d then t.filter (fun c => k < c.1) else (k, v) :: t)
    else (a, w) :: insert d t k v

/-- The map with `v` at `k`; writing the default removes the entry. -/
def set [DecidableEq V] (d : V) (m : FMap V) (k : Nat) (v : V) : FMap V := ⟨insert d m.cells k v⟩

/-- Every entry whose key lies in [lo, lo + n) removed. -/
def clear (m : FMap V) (lo n : Nat) : FMap V := ⟨m.cells.filter (fun c => !(lo ≤ c.1 && c.1 < lo + n))⟩

/-- Entries whose key lies in [lo, lo + n). -/
def range (m : FMap V) (lo n : Nat) : List (Nat × V) := m.cells.filter (fun c => lo ≤ c.1 && c.1 < lo + n)

/-- The keys whose values satisfy `f`, in rising order. -/
def keys (m : FMap V) (f : V → Bool) : List Nat := (m.cells.filter (fun c => f c.2)).map (·.1)

/-- Every listed value changed by `f`. -/
def mapV [DecidableEq V] (d : V) (f : V → V) (m : FMap V) : FMap V :=
  ⟨(m.cells.map (fun c => (c.1, f c.2))).filter (fun c => c.2 ≠ d)⟩

/-- Insertion into a list kept in rising order of `key`; equals keep their order. -/
def insertBy {α : Type} (key : α → Nat) (x : α) : List α → List α
  | [] => [x]
  | y :: t => if key x < key y then x :: y :: t else y :: insertBy key x t
def sortBy {α : Type} (key : α → Nat) (l : List α) : List α := l.foldl (fun a x => insertBy key x a) []

/-- The cells whose keys satisfy `f`. -/
def only (m : FMap V) (f : Nat → Bool) : FMap V := ⟨m.cells.filter (fun c => f c.1)⟩
/-- The cells that satisfy `f` give way to those of another map. -/
def replace [DecidableEq V] (d : V) (m : FMap V) (f : Nat → Bool) (n : FMap V) : FMap V :=
  n.cells.foldl (fun m c => m.set d c.1 c.2) (m.only (fun k => !f k))

/-- Keys strictly rise above `lo`, and no entry holds the default. -/
def sorted [DecidableEq V] (d : V) : List (Nat × V) → Nat → Bool
  | [], _ => true
  | (a, v) :: t, lo => lo ≤ a && v ≠ d && sorted d t (a + 1)

/-- The canonical form. -/
def wf [DecidableEq V] (d : V) (m : FMap V) : Bool := sorted d m.cells 0

/-- Writes `f 0 … f (n - 1)` at consecutive keys from `k`. -/
def setMany [DecidableEq V] (d : V) (m : FMap V) (k : Nat) : List V → FMap V
  | [] => m
  | v :: t => setMany d (m.set d k v) (k + 1) t

def getMany (d : V) (m : FMap V) (k n : Nat) : List V := (List.range n).map (fun j => m.get d (k + j))

end FMap

/-- Bytes by address; an unlisted address reads as 0 (log 5). -/
abbrev Memory := FMap Byte

/-- The canonical form of memory: addresses strictly rise, and no entry holds what an unlisted address reads as. -/
def Memory.wf (m : Memory) : Bool := FMap.wf 0 m

/-! Masks: bit l stands for lane l (07 R119). -/

def Mask.has (m : Mask) (l : Nat) : Bool := m.getLsbD l
def Mask.full : Mask := BitVec.allOnes 128
def Mask.one (l : Nat) : Mask := BitVec.ofNat 128 (2 ^ l)

/-- The mask of the first n lanes that satisfy f. -/
def Mask.upTo (f : Nat → Bool) : Nat → Mask
  | 0 => 0
  | n + 1 => if f n then Mask.upTo f n ||| Mask.one n else Mask.upTo f n
def Mask.of (f : Nat → Bool) : Mask := Mask.upTo f 128

/-- The lanes of a mask, in rising order. -/
def Mask.list (m : Mask) : List Nat := (List.range 128).filter m.has
/-- The lowest lane; 128 for an empty mask. -/
def Mask.low (m : Mask) : Nat := m.list.headD 128
def Mask.count (m : Mask) : Nat := m.list.length
def Mask.diff (a b : Mask) : Mask := a &&& ~~~b

/-! A vector register: one word a lane; a lane past the end of the list reads 0. -/

structure Lanes where
  words : List Word := []
  deriving DecidableEq, Repr

def Lanes.get (v : Lanes) (l : Nat) : Word := v.words.getD l 0
def Lanes.make (f : Nat → Word) : Lanes := ⟨(List.range 128).map f⟩
/-- The lanes of `m` take the values of `f`; the others keep theirs. -/
def Lanes.merge (v : Lanes) (m : Mask) (f : Nat → Word) : Lanes :=
  Lanes.make (fun l => if m.has l then f l else v.get l)

/-! Bytes, little-endian (00 R2). -/

/-- The Nat that bytes hold, the first byte lowest. -/
def natOfBytes : List Byte → Nat
  | [] => 0
  | b :: t => b.toNat + 256 * natOfBytes t

/-- The n low bytes of v, lowest first. -/
def bytesOfNat : Nat → Nat → List Byte
  | 0, _ => []
  | n + 1, v => BitVec.ofNat 8 v :: bytesOfNat n (v / 256)

/-- A map of the nonzero bytes of a list, the first at key `k`. -/
def FMap.ofBytes (k : Nat) (l : List Byte) : FMap Byte :=
  ⟨((List.range l.length).map (fun j => (k + j, l.getD j 0))).filter (fun c => c.2 != 0)⟩

/-- Bits hi:lo of v. -/
def bits (v hi lo : Nat) : Nat := v / 2 ^ lo % 2 ^ (hi + 1 - lo)

/-- v with bits hi:lo replaced by x. -/
def setBits (v hi lo x : Nat) : Nat :=
  v / 2 ^ (hi + 1) * 2 ^ (hi + 1) + x % 2 ^ (hi + 1 - lo) * 2 ^ lo + v % 2 ^ lo

/-- A list without its repeats, the first of each kept. -/
def uniq {α : Type} [BEq α] : List α → List α
  | [] => []
  | x :: t => x :: (uniq t).filter (fun y => !(y == x))

def align (a n : Nat) : Nat := a / n * n

end Sys2Proof
end

