-- ==== Sys2Proof/Machine/Ecdsa.lean ====
section
/-! DEFINITION. ECDSA on the curve P-256, which signs firmware images and attestation reports (00 R1, 04 R67, R68). The
spec gives only the name; FIPS 186 and SEC 2 define the curve and the scheme (log 12). -/

namespace Sys2Proof.P256
open Sys2Proof

/-- The field's prime, and the order of the base point. -/
def prime : Nat := 2 ^ 256 - 2 ^ 224 + 2 ^ 192 + 2 ^ 96 - 1
def order : Nat := 0xffffffff00000000ffffffffffffffffbce6faada7179e84f3b9cac2fc632551
/-- The curve is y² = x³ − 3x + b. -/
def b : Nat := 0x5ac635d8aa3a93e7b3ebbd55769886bc651d06b0cc53b0f63bce3c3e27d2604b

/-- A difference modulo m. -/
def sub (m x y : Nat) : Nat := (x + (m - y % m)) % m

/-- A power modulo m, over the low n bits of the exponent. -/
def pow (m x e : Nat) : Nat → Nat
  | 0 => 1 % m
  | n + 1 =>
    let y := pow m x (e / 2) n
    if e % 2 = 1 then y * y % m * x % m else y * y % m

/-- The inverse modulo a prime (Fermat). -/
def inv (m x : Nat) : Nat := pow m (x % m) (m - 2) 256

/-- A point (X, Y, Z) stands for (X/Z², Y/Z³), and for infinity where Z is 0. -/
structure Point where
  x : Nat
  y : Nat
  z : Nat
  deriving DecidableEq, Repr

def infinity : Point := ⟨1, 1, 0⟩
def base : Point :=
  ⟨0x6b17d1f2e12c4247f8bce6e563a440f277037d812deb33a0f4a13945d898c296,
   0x4fe342e2fe1a7f9b8ee7eb4a7c0f9e162bce33576b315ececbb6406837bf51f5, 1⟩

def double (p : Point) : Point :=
  let y2 := p.y * p.y % prime
  let z2 := p.z * p.z % prime
  let s := 4 * p.x * y2 % prime
  let m := 3 * (sub prime p.x z2 * (p.x + z2)) % prime
  let x := sub prime (m * m) (2 * s)
  ⟨x, sub prime (m * sub prime s x) (8 * y2 * y2), 2 * p.y * p.z % prime⟩

def add (p q : Point) : Point :=
  if p.z = 0 then q
  else if q.z = 0 then p
  else
    let pz2 := p.z * p.z % prime
    let qz2 := q.z * q.z % prime
    let u := p.x * qz2 % prime
    let v := p.y * qz2 % prime * q.z % prime
    let h := sub prime (q.x * pz2) u
    let r := sub prime (q.y * pz2 % prime * p.z) v
    if h = 0 then (if r = 0 then double p else infinity)
    else
      let h2 := h * h % prime
      let h3 := h2 * h % prime
      let x := sub prime (r * r) (h3 + 2 * u * h2)
      ⟨x, sub prime (r * sub prime (u * h2) x) (v * h3), h * p.z % prime * q.z % prime⟩

/-- A multiple of a point, over the low n bits of k. -/
def mul (p : Point) (k : Nat) : Nat → Point
  | 0 => infinity
  | n + 1 =>
    let q := double (mul p (k / 2) n)
    if k % 2 = 1 then add q p else q

/-- The point's x coordinate. -/
def Point.affineX (p : Point) : Nat := p.x * inv prime (p.z * p.z) % prime

def onCurve (x y : Nat) : Bool :=
  x < prime && y < prime && y * y % prime == sub prime (x * x % prime * x + b) (3 * x)

/-- The signature (r, then s) verifies over the hash z under the public key (x, then y), each as one number. -/
def verify (key z sig : Nat) : Bool :=
  let x := key / 2 ^ 256
  let y := key % 2 ^ 256
  let r := sig / 2 ^ 256
  let s := sig % 2 ^ 256
  let w := inv order s
  let p := add (mul base (z * w % order) 256) (mul ⟨x, y, 1⟩ (r * w % order) 256)
  onCurve x y && 0 < r && r < order && 0 < s && s < order && p.z != 0 && p.affineX % order == r

/-- The signature over the hash z by the private key d, with the secret number k. -/
def sign (d k z : Nat) : Nat :=
  let r := (mul base k 256).affineX % order
  r * 2 ^ 256 + inv order k * (z + r * d) % order

end Sys2Proof.P256
end

