-- ==== Sys2Proof/Config.lean ====
section
/-! DEFINITION. What an implementation fixes and the values the spec leaves free. A free value has no body, so
nothing can be proved from what it is (log 10). -/

namespace Sys2Proof.Config

/-- Bytes of node memory that nothing has written (log 8). -/
opaque nodeByte : Nat → Nat → Byte
/-- Values that the spec does not state, drawn with the counter `State.free` (log 10). -/
opaque freeWord : Nat → Word
opaque freeByte : Nat → Byte
opaque freeNat : Nat → Nat
/-- Entries of a node's multicast table after a reset of the node (02 R40). -/
opaque freeNode : Nat → Nat → Nat
/-- A configuration register, by its offset and the word last written to it (04 R59; log 96). -/
opaque configWord : Nat → Option Word → Word
/-- The device's private key, with which it signs attestation reports (04 R68; log 12). -/
opaque deviceKey : Nat
/-- The device's serial number, and the digest of its die-init configuration (04 R68; log 12). -/
opaque serial : Nat
opaque dieInit : Nat

/-- Of access n to a channel: whether it activates a bank that has another row open, and the clocks for which it waits
for a bank in refresh (01 R18; log 78). -/
opaque rowConflict : Nat → Nat → Bool
opaque refreshStall : Nat → Nat → Nat

/-- Of tagged request n: the clocks that it spends in queue k, and bits 2:0 of its FLAGS (11 R221; log 84). -/
opaque requestClocks : Nat → Nat → Nat
opaque requestFlags : Nat → Nat

end Sys2Proof.Config
end

