-- ==== Sys2Proof/Syntax.lean ====
section
/-! DEFINITION. The syntax of the P9: one constructor of `Instr` for each row of the table of operations.
The instructions carry every bit of their words (13 R227 to R234); the events carry what the outside or the
hardware names when the event happens (95). -/

namespace Sys2Proof

/-- The LA format (13 R228). -/
structure LA where
  s : Bool := false
  hold : BitVec 2 := 0
  guard : BitVec 3 := 7
  d : BitVec 6 := 0
  a : BitVec 6 := 0
  b : BitVec 6 := 0
  deriving DecidableEq, Repr

/-- The LB format (13 R229); bit 28 is kept because R240 checks it. -/
structure LB where
  s : Bool := false
  u : Bool := false
  z : Bool := false
  guard : BitVec 3 := 7
  off : BitVec 18 := 0
  deriving DecidableEq, Repr

/-- The LX arithmetic form (13 R230). -/
structure LXA where
  c : BitVec 6 := 0
  rnd : BitVec 2 := 0
  ty : BitVec 4 := 0
  na : Bool := false
  nb : Bool := false
  nc : Bool := false
  abs : Bool := false
  sat : Bool := false
  pd : BitVec 3 := 0
  imm : BitVec 12 := 0
  deriving DecidableEq, Repr

/-- The LX memory form (13 R231), which is also the GX memory form (R234). -/
structure LXM where
  space : BitVec 3 := 0
  width : BitVec 3 := 0
  fe : BitVec 2 := 0
  aop : BitVec 4 := 0
  sgn : Bool := false
  rp : BitVec 3 := 0
  off : BitVec 16 := 0
  deriving DecidableEq, Repr

/-- The LX branch form (13 R232). -/
structure LXB where
  a : BitVec 6 := 0
  rsv : BitVec 14 := 0
  n : BitVec 12 := 0
  deriving DecidableEq, Repr

/-- The GA format (13 R233): `x` is imm7 when `i`, else register b in its low six bits. -/
structure GA where
  s : Bool := false
  guard : BitVec 3 := 7
  d : BitVec 6 := 0
  a : BitVec 6 := 0
  i : Bool := false
  x : BitVec 7 := 0
  deriving DecidableEq, Repr

/-- The GX control form (13 R234). -/
structure GXC where
  sub : BitVec 5 := 0
  pred : BitVec 3 := 0
  queue : BitVec 4 := 0
  ty : BitVec 4 := 0
  imm : BitVec 16 := 0
  deriving DecidableEq, Repr

/-- The GX call form (13 R234). -/
structure GXCall where
  para : BitVec 6 := 0
  parb : BitVec 6 := 0
  parc : BitVec 6 := 0
  pard : BitVec 6 := 0
  npar : BitVec 2 := 0
  slot : BitVec 6 := 0
  deriving DecidableEq, Repr

/-- The GX engine form (13 R234). -/
structure GXE where
  eq : BitVec 3 := 0
  bsel : BitVec 2 := 0
  gform : BitVec 2 := 0
  smode : BitVec 3 := 0
  typea : BitVec 4 := 0
  typeb : BitVec 4 := 0
  acc : BitVec 2 := 0
  form : BitVec 4 := 0
  rsv : BitVec 8 := 0
  deriving DecidableEq, Repr

/-- A Dwetex flit as the receiver sees it (02 R36); `tagOk` says whether its tag verifies. -/
structure Flit where
  seq : Nat
  xmit : Nat
  kg : Nat
  ty : Byte
  ackseq : Nat
  payload : List Byte
  tagOk : Bool
  deriving DecidableEq, Repr

/-- A multicast store as it reaches this package (02 R35): the die, scratch offset and bytes that the node
replicated; `op` is the engine operation of this package that issued it, if it is one of ours. -/
structure McPacket where
  die : Nat
  off : Nat
  bytes : List Byte
  op : Option Nat
  deriving DecidableEq, Repr

/-- A register delivery that a group of another package sent (07 R145). -/
structure RegDelivery where
  sender : Nat
  target : Nat
  reg : Nat
  data : List Word
  deriving DecidableEq, Repr

/-- A UET packet as the receiver sees it (03 R52). `kind` 0 send, 1 RMA write, 2 RMA read request, 3 RMA read answer,
4 a refusal with its status to the sender, 5 and 6 the sender's notice that a send or an RMA write failed after the
packets before `off`, 7 no data, in place of a packet of a message that has failed. `psn` counts from the PDC's first
packet; `ord` is how many messages with this tag the peer sent to this package before (R49). `pdc` numbers
the sending context; it rises with each that the peer opens. `authOk` and `supported` say whether it authenticates under
`key`, that of `epoch` (R56), and uses only supported features. -/
structure Packet where
  peer : Nat
  mode : Nat
  psn : Nat
  msg : Nat
  ord : Nat
  kind : Nat
  off : Nat
  len : Nat
  tag : Nat
  rkey : Nat
  roff : Nat
  rctr : Option Nat
  bytes : List Byte
  authOk : Bool
  supported : Bool
  status : Nat
  pdc : Nat
  epoch : Nat
  key : Nat
  deriving DecidableEq, Repr

/-- The operations of the P9, one constructor for each row of the table. -/
inductive Instr where
  /-- NOP (R268). -/
  | nop (w : LA)
  /-- MOV (R268). -/
  | mov (w : LA)
  /-- MOVI (R268). -/
  | movi (w : LA) (lit : Word)
  /-- SEL (R275). -/
  | sel (w : LA) (x : LXA)
  /-- IADD (R269). -/
  | iadd (w : LA) (x : LXA)
  /-- ISUB (R269). -/
  | isub (w : LA) (x : LXA)
  /-- IMUL (R269). -/
  | imul (w : LA) (x : LXA)
  /-- IMULH (R269). -/
  | imulh (w : LA) (x : LXA)
  /-- IMAD (R269). -/
  | imad (w : LA) (x : LXA)
  /-- IMIN (R269). -/
  | imin (w : LA) (x : LXA)
  /-- IMAX (R269). -/
  | imax (w : LA) (x : LXA)
  /-- IABS (R269). -/
  | iabs (w : LA) (x : LXA)
  /-- INEG (R269). -/
  | ineg (w : LA) (x : LXA)
  /-- LEA (R270). -/
  | lea (w : LA) (x : LXA)
  /-- ISET (R271). -/
  | iset (w : LA) (x : LXA)
  /-- AND (R272). -/
  | andL (w : LA) (x : LXA)
  /-- OR (R272). -/
  | orL (w : LA) (x : LXA)
  /-- XOR (R272). -/
  | xorL (w : LA) (x : LXA)
  /-- ANDN (R272). -/
  | andnL (w : LA) (x : LXA)
  /-- NOT (R272). -/
  | notL (w : LA) (x : LXA)
  /-- SHL (R272). -/
  | shl (w : LA) (x : LXA)
  /-- SHR (R272). -/
  | shr (w : LA) (x : LXA)
  /-- SAR (R272). -/
  | sar (w : LA) (x : LXA)
  /-- ROTL (R272). -/
  | rotl (w : LA) (x : LXA)
  /-- POPC (R272). -/
  | popc (w : LA) (x : LXA)
  /-- CLZ (R272). -/
  | clz (w : LA) (x : LXA)
  /-- BREV (R272). -/
  | brev (w : LA) (x : LXA)
  /-- BFE (R273). -/
  | bfe (w : LA) (x : LXA)
  /-- BFI (R273). -/
  | bfi (w : LA) (x : LXA)
  /-- PRMT (R274). -/
  | prmt (w : LA) (x : LXA)
  /-- PSET (R276). -/
  | pset (w : LA) (x : LXA)
  /-- FADD (R277). -/
  | fadd (w : LA) (x : LXA)
  /-- FSUB (R277). -/
  | fsub (w : LA) (x : LXA)
  /-- FMUL (R277). -/
  | fmul (w : LA) (x : LXA)
  /-- FFMA (R277). -/
  | ffma (w : LA) (x : LXA)
  /-- FMIN (R278). -/
  | fmin (w : LA) (x : LXA)
  /-- FMAX (R278). -/
  | fmax (w : LA) (x : LXA)
  /-- FSET (R267). -/
  | fset (w : LA) (x : LXA)
  /-- FCLASS (R279). -/
  | fclass (w : LA) (x : LXA)
  /-- FRCP (R277). -/
  | frcp (w : LA) (x : LXA)
  /-- FSQRT (R277). -/
  | fsqrt (w : LA) (x : LXA)
  /-- FRSQ (R277). -/
  | frsq (w : LA) (x : LXA)
  /-- FEX2 (R277). -/
  | fex2 (w : LA) (x : LXA)
  /-- FLG2 (R277). -/
  | flg2 (w : LA) (x : LXA)
  /-- DADD (R280). -/
  | dadd (w : LA) (x : LXA)
  /-- DMUL (R280). -/
  | dmul (w : LA) (x : LXA)
  /-- DFMA (R280). -/
  | dfma (w : LA) (x : LXA)
  /-- DMIN (R280). -/
  | dmin (w : LA) (x : LXA)
  /-- DMAX (R280). -/
  | dmax (w : LA) (x : LXA)
  /-- DSET (R280). -/
  | dset (w : LA) (x : LXA)
  /-- DRCP (R280). -/
  | drcp (w : LA) (x : LXA)
  /-- DSQRT (R280). -/
  | dsqrt (w : LA) (x : LXA)
  /-- HADD2 (R281). -/
  | hadd2 (w : LA) (x : LXA)
  /-- HMUL2 (R281). -/
  | hmul2 (w : LA) (x : LXA)
  /-- HFMA2 (R281). -/
  | hfma2 (w : LA) (x : LXA)
  /-- HMIN2 (R281). -/
  | hmin2 (w : LA) (x : LXA)
  /-- HMAX2 (R281). -/
  | hmax2 (w : LA) (x : LXA)
  /-- CVT (R282). -/
  | cvt (w : LA) (x : LXA)
  /-- QNT (R283). -/
  | qnt (w : LA) (x : LXA)
  /-- DQNT (R284). -/
  | dqnt (w : LA) (x : LXA)
  /-- SCLE (R285). -/
  | scle (w : LA) (x : LXA)
  /-- PACK (R286). -/
  | pack (w : LA) (x : LXA)
  /-- UNPK (R287). -/
  | unpk (w : LA) (x : LXA)
  /-- SHFL (R301). -/
  | shfl (w : LA) (x : LXA)
  /-- VOTE (R302). -/
  | vote (w : LA) (x : LXA)
  /-- REDUX (R303). -/
  | redux (w : LA) (x : LXA)
  /-- SCAN (R303). -/
  | scan (w : LA) (x : LXA)
  /-- MATCH (R304). -/
  | matchL (w : LA) (x : LXA)
  /-- FENCE_W (R306). -/
  | fenceW (w : LA)
  /-- FENCE_TM (R306). -/
  | fenceTm (w : LA)
  /-- FENCE_GL (R306). -/
  | fenceGl (w : LA)
  /-- MOVS (R305). -/
  | movs (w : LA)
  /-- RDLANE (R305). -/
  | rdlane (w : LA) (x : LXA)
  /-- LD (R291). -/
  | ld (w : LA) (x : LXM)
  /-- ST (R291). -/
  | st (w : LA) (x : LXM)
  /-- LDR (R293). -/
  | ldr (w : LA) (x : LXM)
  /-- ATOM (R297). -/
  | atom (w : LA) (x : LXM)
  /-- ATOMF (R297). -/
  | atomf (w : LA) (x : LXM)
  /-- CAS (R297). -/
  | cas (w : LA) (x : LXM)
  /-- ATLD (R297). -/
  | atld (w : LA) (x : LXM)
  /-- PREF (R294). -/
  | pref (w : LA) (x : LXM)
  /-- BRA (R307). -/
  | bra (w : LB)
  /-- BRX (R308). -/
  | brx (w : LB) (x : LXB)
  /-- JMPR (R307). -/
  | jmpr (w : LB) (x : LXB)
  /-- CALL (R309). -/
  | call (w : LB) (x : LXB)
  /-- CALLI (R310). -/
  | calli (w : LB) (x : LXB)
  /-- RET (R309). -/
  | ret (w : LB) (x : LXB)
  /-- JSET (R311). -/
  | jset (w : LB)
  /-- JOIN (R121). -/
  | join (w : LB)
  /-- EXIT (R312). -/
  | exit (w : LB)
  /-- BPT (R312). -/
  | bpt (w : LB)
  /-- SMOV (R316). -/
  | smov (w : GA)
  /-- SMOV_IMM (R316). -/
  | smovImm (w : GA)
  /-- SMOVI (R316). -/
  | smovi (w : GA) (lit : Word)
  /-- SADD (R316). -/
  | sadd (w : GA)
  /-- SSUB (R316). -/
  | ssub (w : GA)
  /-- SMUL (R316). -/
  | smul (w : GA)
  /-- SMIN (R316). -/
  | smin (w : GA)
  /-- SMAX (R316). -/
  | smax (w : GA)
  /-- SAND (R316). -/
  | sand (w : GA)
  /-- SOR (R316). -/
  | sor (w : GA)
  /-- SXOR (R316). -/
  | sxor (w : GA)
  /-- SSHL (R316). -/
  | sshl (w : GA)
  /-- SSHR (R316). -/
  | sshr (w : GA)
  /-- SSAR (R316). -/
  | ssar (w : GA)
  /-- SSET (R317). -/
  | sset (w : GA) (x : GXC)
  /-- SSEL (R317). -/
  | ssel (w : GA) (x : GXC)
  /-- SLEA (R317). -/
  | slea (w : GA) (x : GXC)
  /-- SLD (R318). -/
  | sld (w : GA) (x : LXM)
  /-- SST (R318). -/
  | sst (w : GA) (x : LXM)
  /-- SBRA (R319). -/
  | sbra (w : GA) (lit : Word)
  /-- SLOOP (R319). -/
  | sloop (w : GA) (lit : Word)
  /-- SREAD (R320). -/
  | sread (w : GA) (x : GXC)
  /-- SWRITE (R320). -/
  | swrite (w : GA) (x : GXC)
  /-- PHASE (R322). -/
  | phase (w : GA) (x : GXC)
  /-- PHASE_REL (R322). -/
  | phaseRel (w : GA) (x : GXC)
  /-- PHASE_ACQ (R322). -/
  | phaseAcq (w : GA) (x : GXC)
  /-- BAR (R323). -/
  | bar (w : GA) (x : GXC)
  /-- ARRIVE (R324). -/
  | arrive (w : GA) (x : GXC)
  /-- WAITLOW (R326). -/
  | waitlow (w : GA) (x : GXC)
  /-- TRIGGER (R327). -/
  | trigger (w : GA)
  /-- WAITV (R328). -/
  | waitv (w : GA) (x : GXC)
  /-- XACQ (R329). -/
  | xacq (w : GA)
  /-- XREL (R329). -/
  | xrel (w : GA)
  /-- HOLD (R330). -/
  | hold (w : GA) (x : GXC)
  /-- NAME (R331). -/
  | name (w : GA)
  /-- RSTV (R332). -/
  | rstv (w : GA) (x : GXC)
  /-- GANG (R333). -/
  | gang (w : GA) (x : GXC)
  /-- QPUSH (R334). -/
  | qpush (w : GA) (x : GXC)
  /-- QPOP (R335). -/
  | qpop (w : GA) (x : GXC)
  /-- AQLD (R336). -/
  | aqld (w : GA) (x : LXM)
  /-- AQST (R336). -/
  | aqst (w : GA) (x : LXM)
  /-- QSLIP (R337). -/
  | qslip (w : GA)
  /-- MCALL (R340). -/
  | mcall (w : GA) (x : GXCall)
  /-- MCLOAD (R339). -/
  | mcload (w : GA) (lit : Word)
  /-- TRAP (R341). -/
  | trap (w : GA)
  /-- RFT_RETRY (R197). -/
  | rftRetry (w : GA)
  /-- RFT_NEXT (R197). -/
  | rftNext (w : GA)
  /-- RFT_JUMP (R197). -/
  | rftJump (w : GA)
  /-- LAUNCH (R343). -/
  | launch (w : GA) (x : GXC)
  /-- LAUNCH_NB (R343). -/
  | launchNb (w : GA) (x : GXC)
  /-- COPY (R351). -/
  | copy (w : GA) (x : GXE)
  /-- GATHER (R352). -/
  | gather (w : GA) (x : GXE)
  /-- BWAIT (R353). -/
  | bwait (w : GA) (x : GXC)
  /-- QFENCE (R354). -/
  | qfence (w : GA) (x : GXC)
  /-- MMA_R (R357). -/
  | mmaR (w : GA) (x : GXE)
  /-- MMA_T (R358). -/
  | mmaT (w : GA) (x : GXE)
  /-- ACCLD (R360). -/
  | accld (w : GA) (x : GXE)
  /-- ACCST (R360). -/
  | accst (w : GA) (x : GXE)
  /-- ACCZ (R360). -/
  | accz (w : GA) (x : GXE)
  /-- MRES (R361). -/
  | mres (w : GA) (x : GXE)
  /-- FLUSH_NODE (R33). -/
  | flushNode (w : GA) (x : GXE)
  /-- FLUSH_PKG (R362). -/
  | flushPkg (w : GA) (x : GXE)
  /-- NSEND (R46). -/
  | nsend (w : GA) (x : GXE)
  /-- NGET (R46). -/
  | nget (w : GA) (x : GXE)
  /-- NPOST (R382). -/
  | npost (w : GA) (x : GXE)
  /-- NWAIT (R364). -/
  | nwait (w : GA) (x : GXE)
  /-- NCTR_RD (R365). -/
  | nctrRd (w : GA) (x : GXE)
  /-- NCTR_SET (R365). -/
  | nctrSet (w : GA) (x : GXE)
  /-- NCTR_ADD (R365). -/
  | nctrAdd (w : GA) (x : GXE)
  /-- RESHARD (R366). -/
  | reshard (w : GA) (x : GXE)
  /-- RSTAT (R370). -/
  | rstat (w : GA) (x : GXE)
  /-- PGREQ (R184). -/
  | pgreq (w : GA) (x : GXE)
  /-- PGTIER (R185). -/
  | pgtier (w : GA) (x : GXE)
  /-- SHOOT (R188). -/
  | shoot (w : GA) (x : GXE)
  /-- SHOOT_ALL (R188). -/
  | shootAll (w : GA) (x : GXE)
  /-- DIGEST (R372). -/
  | digest (w : GA) (x : GXE)
  /-- LONG_RESULT_WRITE (R127). -/
  | longResultWrite (g k : Nat)
  /-- QUEUE_ENTRY_FILL (R135). -/
  | queueEntryFill (g q : Nat)
  /-- HANDLER_ENTER (R194). -/
  | handlerEnter (part : Nat)
  /-- WALK_START (R177). -/
  | walkStart (die : Nat)
  /-- HOME_ATOMIC (R163). -/
  | homeAtomic (k : Nat)
  /-- SUPERSEDED_NOTICE (R160). -/
  | supersededNotice (core : Nat)
  /-- COMMIT_VISIBLE (R157). -/
  | commitVisible (k : Nat)
  /-- FABRIC_LOAD_REPLY (R32). -/
  | fabricLoadReply (k : Nat)
  /-- MULTICAST_STORE_ARRIVE (R35). -/
  | multicastStoreArrive (m : McPacket)
  /-- DELIVERY_ARRIVE (R143): delivery k of this package, or one that another package sent. -/
  | deliveryArrive (k : Nat) (ext : Option RegDelivery)
  /-- ENGINE_WRITE_PERFORMED (R346). -/
  | engineWritePerformed (k : Nat)
  /-- MMA_COMPLETE (R359). -/
  | mmaComplete (k : Nat)
  /-- MATRIX_RESUME (R203). -/
  | matrixResume (k : Nat)
  /-- RESHARD_UNIT_COMMIT (R368). -/
  | reshardUnitCommit (k u : Nat) (pulled : List Byte) (status : Nat)
  /-- PGTIER_COPY (R185). -/
  | pgtierCopy (k : Nat)
  /-- SHOOT_ACK (R188). -/
  | shootAck (k agent : Nat)
  /-- SLOT_TAKE (R65). -/
  | slotTake (slot : Nat)
  /-- TEAM_DISPATCH (R80). -/
  | teamDispatch (grid die core : Nat)
  /-- MGMT_EVICT (R88). -/
  | mgmtEvict (g : Nat)
  /-- GROUP_RESTORE (R200). -/
  | groupRestore (g die core slot : Nat)
  /-- GROUP_DRAIN_END (R90). -/
  | groupDrainEnd (g : Nat)
  /-- GRID_ABORT (R76). -/
  | gridAbort (grid : Nat)
  /-- ROUND_END (R102). -/
  | roundEnd (grid : Nat)
  /-- HORIZON_RECOMPUTE (R161). -/
  | horizonRecompute
  /-- WAITFOR_BUILD (R216). -/
  | waitforBuild
  /-- POWER_WINDOW_END (R21). -/
  | powerWindowEnd (other : Nat) (energy : List (Nat × Nat))
  /-- OVERTEMP (R20). -/
  | overtemp (die : Nat)
  /-- SCRUB_LINE (R23). -/
  | scrubLine (line : Nat)
  /-- SWEEP_VISIT (R187). -/
  | sweepVisit (die : Nat)
  /-- SAMPLE_TICK (R219). -/
  | sampleTick (die core part : Nat)
  /-- GAUGE_SAMPLE (R222). -/
  | gaugeSample (die gauge value : Nat)
  /-- POWER_ON_RESET (R66). -/
  | powerOnReset
  /-- CONFIG_REQUEST (R59). -/
  | configRequest (write : Bool) (off : Nat) (v : Word)
  /-- HOST_SECURE_ACCESS (R60). -/
  | hostSecureAccess (write : Bool) (off : Nat)
  /-- HOST_SCRATCH_WRITE (R64). -/
  | hostScratchWrite (off : Nat) (bytes : List Byte)
  /-- HOST_SCRATCH_READ (R64). -/
  | hostScratchRead (off n : Nat)
  /-- MBOXBASE_WRITE (R63). -/
  | mboxbaseWrite (v : DWord)
  /-- MBOXERR_CLEAR (R65). -/
  | mboxerrClear (v : DWord)
  /-- ATTEST_GO (R68). -/
  | attestGo (v : DWord)
  /-- ATTEST_DONE (R68). -/
  | attestDone
  /-- REGION_ENTRY_WRITE (R69). -/
  | regionEntryWrite (i : Nat) (lim : Bool) (v : DWord)
  /-- FREEZE_RELEASE (R70). -/
  | freezeRelease (k : Nat)
  /-- FREEZE_BLOCK_RESET (R70). -/
  | freezeBlockReset (k : Nat)
  /-- ASSAY_GO (R71). -/
  | assayGo
  /-- ASSAY_ABORT (R115). -/
  | assayAbort
  /-- ASSAY_RUN_END (R116). -/
  | assayRunEnd
  /-- ASSAY_TOUCHMARK (R117). -/
  | assayTouchmark
  /-- CBUDGET_WRITE (R83). -/
  | cbudgetWrite (core : Nat) (v : DWord)
  /-- PINQ_READ (R182). -/
  | pinqRead (die : Nat)
  /-- PINDONE_WRITE (R183). -/
  | pindoneWrite (die : Nat) (v : DWord)
  /-- COLDQ_READ (R187). -/
  | coldqRead (die : Nat)
  /-- DHALT_WRITE (R208). -/
  | dhaltWrite (v : DWord)
  /-- DRELEASE_WRITE (R208). -/
  | dreleaseWrite (v : DWord)
  /-- SAMPLE_ENABLE (R219). -/
  | sampleEnable (die : Nat) (v : DWord)
  /-- RING_CONFIG_WRITE (R210). -/
  | ringConfigWrite (die ring : Nat) (len : Bool) (v : DWord)
  /-- PSEL_WRITE (R215). -/
  | pselWrite (die : Nat) (v : DWord)
  /-- GAUGE_CONFIG_WRITE (R222). -/
  | gaugeConfigWrite (die gauge : Nat) (v : DWord)
  /-- GAUGE_FREEZE_WRITE (R222). -/
  | gaugeFreezeWrite (die : Nat) (freeze : Bool)
  /-- GAUGE_CLEAR (R222). -/
  | gaugeClear (die : Nat)
  /-- MAP_VALID_SET (R14). -/
  | mapValidSet (m : Nat)
  /-- MAP_VALID_CLEAR (R14). -/
  | mapValidClear (m : Nat)
  /-- MAP_LOCK_SET (R13). -/
  | mapLockSet (m : Nat)
  /-- MAP_ERR_CLEAR (R13). -/
  | mapErrClear (m : Nat)
  /-- MASK_WRITE (R14). -/
  | maskWrite (m k : Nat) (v : DWord)
  /-- COUNTER_CLEAR (R19). -/
  | counterClear
  /-- COUNTER_FREEZE_WRITE (R19). -/
  | counterFreezeWrite (freeze : Bool)
  /-- KEYSWAP (R38). -/
  | keyswap (p : Nat)
  /-- PORT_RETRAIN_CMD (R41). -/
  | portRetrainCmd (p : Nat)
  /-- PORT_ENABLE (R41). -/
  | portEnable (p : Nat) (on : Bool)
  /-- NSTATE_REOPEN (R40). -/
  | nstateReopen (n : Nat)
  /-- FLIT_SEND (R36). -/
  | flitSend (p : Nat) (ty : Byte) (payload : List Byte)
  /-- FLIT_RECEIVE (R37). -/
  | flitReceive (p : Nat) (f : Flit)
  /-- NAK_RECEIVE (R37). -/
  | nakReceive (p seq : Nat)
  /-- LINK_RETRAIN (R37). -/
  | linkRetrain (p : Nat)
  /-- PORT_DOWN (R39). -/
  | portDown (p : Nat)
  /-- NODE_RESET_REPORT (R39). -/
  | nodeResetReport (n : Nat)
  /-- PACKET_FORM (R47). -/
  | packetForm (k : Nat)
  /-- PACKET_RECEIVE (R52). -/
  | packetReceive (p : Packet)
  /-- ACK_RECEIVE (R46). -/
  | ackReceive (pdc psn : Nat)
  /-- SACK_RECEIVE (R52). -/
  | sackReceive (pdc cum : Nat) (bitmap : DWord)
  /-- NOT_READY_RECEIVE (R49). -/
  | notReadyReceive (pdc msg : Nat)
  /-- SACK_TIMER (R52). -/
  | sackTimer (pdc : Nat)
  /-- SACK_PACKET_COUNT (R52). -/
  | sackPacketCount (pdc : Nat)
  /-- RTO_EXPIRY (R52). -/
  | rtoExpiry (pdc : Nat)
  /-- RMA_READ_REQUEST (R55). -/
  | rmaReadRequest (p : Packet)
  /-- ENGINE_KEY_LOAD (R56). -/
  | engineKeyLoad (d : Nat) (key : BitVec 256)
  /-- ENGINE_KEYNEXT_LOAD (R56). -/
  | engineKeynextLoad (d : Nat) (key : BitVec 256)
  /-- KEY_ROLL (R56). -/
  | keyRoll (d : Nat)
  /-- MGMT_PORT_RECEIVE (R58). -/
  | mgmtPortReceive (port kind : Nat) (bytes : List Byte)
  /-- REGISTER_WRITE (R3). -/
  | registerWrite (secure : Bool) (off : Nat) (v : DWord)
  /-- PORT_TRAINING_COMPLETE (R41). -/
  | portTrainingComplete (p : Nat) (ok : Bool)
  /-- DIRTY_LINE_WRITE_BACK (R24). -/
  | dirtyLineWriteBack (line : Nat)
  /-- WALK_COMPLETE (R177). -/
  | walkComplete (k : Nat)
  /-- BOOT_STAGE_CHANGE (R66). -/
  | bootStageChange
  /-- PAGING_DELEGATION (R182). -/
  | pagingDelegation (asid : Nat) (on : Bool)
  /-- DELEGATED_PAGE_IN_SERVICED (R182). -/
  | delegatedPageInServiced (asid page : Nat) (fail : Bool)
  /-- CORE_POWER_GATING (R189). -/
  | corePowerGating (core : Nat) (on : Bool)
  deriving DecidableEq, Repr

end Sys2Proof
end

