-- ==== Sys2Proof/WellFormed.lean ====
section
/-! DEFINITION. Well-formed instructions: checks 5 and 6 of 13 R240, which do not depend on the machine's state.
`Instr.wfCode` is 0 for a well-formed instruction, else the sub-code that R240 gives: 2 for a field that must be
0 and is not, 3 for a value that the opcode does not take. Check 5 comes before check 6. -/

namespace Sys2Proof

/-- The verdict of R240 on a list of fields that must be 0 and a list of conditions on values. -/
def verdict (zero value : List Bool) : Nat :=
  if zero.all id then (if value.all id then 0 else 3) else 2

/-- How an arithmetic opcode uses its source b (15 R263). -/
inductive SrcB where
  | imm      -- register, or imm12 under selector 1
  | reg      -- register only
  | none     -- unary: b, selector and imm12 are 0
  | three    -- three sources: the c field names V(c)
  deriving DecidableEq, Repr

/-- How an opcode uses pd (15 R263). -/
inductive PdUse where
  | none | dest | opt
  deriving DecidableEq, Repr

/-- What one arithmetic opcode accepts (the tables of 15 and 16). -/
structure ArithSpec where
  types : List Nat
  srcb : SrcB
  neg : Bool := false      -- na, and nb where there is a b, and nc where there is a c
  abs : Bool := false
  sat : Bool := false
  rnd : Bool := false
  pd : PdUse := .none
  second : Option (List Nat) := Option.none   -- types of the second code in imm12 bits 3:0
  pairD : Bool := false
  pairA : Bool := false
  pairB : Bool := false
  pairC : Bool := false

def even6 (r : BitVec 6) : Bool := r.toNat % 2 == 0

/-- Checks 5 and 6 of an LX arithmetic word against what its opcode accepts (R230, R263). A conversion's `.sat` is
refused at check 6 (14 R256), any other's at check 5. -/
def ArithSpec.code (p : ArithSpec) (w : LA) (x : LXA) (zero : List Bool := []) (value : List Bool := []) : Nat :=
  let una := p.srcb == .none
  let hasB := !una
  let three := p.srcb == .three
  let sel1 := !three && x.c == 1
  verdict
    (zero ++
     [ (p.neg || !x.na), ((p.neg && hasB) || !x.nb), ((p.neg && three) || !x.nc), (p.abs || !x.abs),
       (p.rnd || x.rnd == 0), (p.pd != .none || x.pd == 0),
       (!una || (w.b == 0 && x.c == 0)),
       (!sel1 || w.b == 0),
       (p.second.isSome || p.sat || !x.sat),
       (match p.second with
        | some _ => x.imm.toNat / 16 == 0
        | Option.none => (!una && !three && x.c != 0) || x.imm == 0) ])
    (value ++
     [ p.types.contains x.ty.toNat, (p.second.isNone || p.sat || !x.sat), (p.pd != .dest || x.pd != 7),
       (match p.srcb with
        | .imm => x.c.toNat ≤ 1
        | .reg => x.c == 0
        | _ => true),
       (match p.second with
        | some l => l.contains (x.imm.toNat % 16)
        | Option.none => true),
       (!p.pairD || even6 w.d), (!p.pairA || even6 w.a), (!p.pairB || sel1 || even6 w.b), (!p.pairC || even6 x.c) ])

/-- Types that CVT accepts (15 R282). -/
def cvtTypes : List Nat := [1, 2, 3, 7, 8, 9, 10, 11, 12, 13, 14, 15]
def intTypes : List Nat := [1, 2, 7, 8]

/-- Where `.sat` acts: an .e5m2 destination, or integer to integer (14 R256). -/
def satOk (dst src : Nat) : Bool := dst == 13 || (intTypes.contains dst && intTypes.contains src)

namespace Spec
def int2 : ArithSpec := { types := [1, 2], srcb := .imm, sat := true }
def int2ns : ArithSpec := { types := [1, 2], srcb := .imm }
def int1 : ArithSpec := { types := [1], srcb := .none, sat := true }
def bits2 : ArithSpec := { types := [0], srcb := .imm }
def bits1 : ArithSpec := { types := [0], srcb := .none }
def bits3 : ArithSpec := { types := [0], srcb := .three }
def f2 : ArithSpec := { types := [3], srcb := .imm, neg := true, abs := true, rnd := true }
def f2nr : ArithSpec := { types := [3], srcb := .imm, neg := true, abs := true }
def f1 : ArithSpec := { types := [3], srcb := .none, neg := true, abs := true, rnd := true }
def f3 : ArithSpec := { types := [3], srcb := .three, neg := true, abs := true, rnd := true }
def d2 : ArithSpec :=
  { types := [11], srcb := .imm, neg := true, abs := true, rnd := true, pairD := true, pairA := true, pairB := true }
def d2nr : ArithSpec := { d2 with rnd := false }
def d1 : ArithSpec :=
  { types := [11], srcb := .none, neg := true, abs := true, rnd := true, pairD := true, pairA := true }
def d3 : ArithSpec := { d2 with srcb := .three, pairC := true }
def h2 : ArithSpec := { types := [9, 10], srcb := .reg, neg := true, abs := true, rnd := true }
def h2nr : ArithSpec := { types := [9, 10], srcb := .reg, neg := true, abs := true }
def h3 : ArithSpec := { types := [9, 10], srcb := .three, neg := true, abs := true, rnd := true }
end Spec

/-- ISET, FSET, DSET: the condition in d bits 3:0 (15 R267). -/
def setCode (p : ArithSpec) (lim : Nat) (w : LA) (x : LXA) : Nat :=
  { p with pd := .dest, pairD := false }.code w x [w.d.toNat / 16 == 0] [w.d.toNat % 16 ≤ lim]

def selCode (w : LA) (x : LXA) : Nat :=
  { Spec.bits3 with pd := .opt }.code w x [x.pd == 7 || x.c == 0]

def psetCode (w : LA) (x : LXA) : Nat :=
  { Spec.bits2 with pd := .dest }.code w x
    [w.d == 0, w.a == 0, w.b == 0, x.imm.toNat / 1024 == 0] [x.c == 1]

def voteCode (w : LA) (x : LXA) : Nat :=
  let mode := x.imm.toNat / 8 % 8
  let pred := mode == 0 || mode == 1 || mode == 4
  { Spec.bits2 with pd := .opt }.code w x
    [w.a == 0, w.b == 0, x.imm.toNat / 256 == 0, mode == 2 || x.imm.toNat / 64 % 4 == 0,
     !pred || w.d == 0, pred || mode > 4 || x.pd == 0]
    [x.c == 1, mode ≤ 4, !pred || x.pd != 7]

/-- REDUX and SCAN (16 R303): op in imm12 bits 2:0, for SCAN the exclusive form in bit 3. -/
def reduxCode (lim : Nat) (w : LA) (x : LXA) : Nat :=
  let op := x.imm.toNat % 8
  { types := [0, 1, 2, 3], srcb := .imm, rnd := op == 0 && x.ty == 3 : ArithSpec }.code w x
    [w.b == 0, x.imm.toNat / lim == 0]
    [x.c == 1, op ≤ 5, if op ≤ 2 then x.ty != 0 else x.ty == 0]

def cvtCode (w : LA) (x : LXA) : Nat :=
  let src := x.imm.toNat % 16
  { types := cvtTypes, srcb := .none, second := some cvtTypes, rnd := true, sat := satOk x.ty.toNat src,
    pairD := x.ty == 11, pairA := src == 11 : ArithSpec }.code w x

def qntCode (w : LA) (x : LXA) : Nat :=
  { types := [12, 13, 14, 7], srcb := .reg, second := some [3, 15], rnd := true, sat := x.ty == 13 : ArithSpec }.code w x

def dqntCode (w : LA) (x : LXA) : Nat :=
  { types := [12, 13, 14, 7, 9, 10], srcb := .reg, second := some [3, 15], rnd := true : ArithSpec }.code w x

def packCode (w : LA) (x : LXA) : Nat :=
  { types := [9, 10, 12, 13, 15, 7, 8, 14], srcb := .reg, second := some [3, 1, 2, 9, 10], rnd := true,
    sat := satOk x.ty.toNat (x.imm.toNat % 16) : ArithSpec }.code w x

def unpkCode (w : LA) (x : LXA) : Nat :=
  { types := cvtTypes, srcb := .reg, second := some [7, 8, 9, 10, 12, 13, 14, 15], rnd := true,
    sat := satOk x.ty.toNat (x.imm.toNat % 16), pairD := x.ty == 11 : ArithSpec }.code w x

/-- The alignment of a data register by width: pairs for b64, quads for b128 (16 R288). -/
def dataOk (width : BitVec 3) (r : BitVec 6) : Bool :=
  match width.toNat with
  | 3 => r.toNat % 2 == 0
  | 4 => r.toNat % 4 == 0
  | _ => true

/-- The common part of the lane memory words (16 R288, R291). -/
def memCode (spaces widths : List Nat) (w : LA) (x : LXM) (zero value : List Bool) : Nat :=
  verdict zero (value ++ [spaces.contains x.space.toNat, widths.contains x.width.toNat, x.space != 0 || even6 w.a])

def feOk (loads : Bool) (space : BitVec 3) (fe : BitVec 2) : Bool :=
  let win := space == 1 || space == 2
  match fe.toNat with
  | 0 => true
  | 3 => !loads && win
  | _ => loads && win

def ldCode (w : LA) (x : LXM) : Nat :=
  memCode [0, 1, 2, 3, 4] [0, 1, 2, 3, 4] w x
    [w.b == 0, x.aop == 0, x.rp == 0, !x.sgn || x.width.toNat < 2] [feOk true x.space x.fe, dataOk x.width w.d]
def stCode (w : LA) (x : LXM) : Nat :=
  memCode [0, 1, 2, 3] [0, 1, 2, 3, 4] w x
    [w.d == 0, x.aop == 0, x.rp == 0, !x.sgn] [feOk false x.space x.fe, dataOk x.width w.b]
def ldrCode (w : LA) (x : LXM) : Nat :=
  memCode [0] [0, 1, 2, 3, 4] w x
    [w.b == 0, x.aop == 0, !x.sgn || x.width.toNat < 2] [x.fe == 0, x.rp != 7, dataOk x.width w.d]
def prefCode (w : LA) (x : LXM) : Nat :=
  memCode [0] [0] w x [w.d == 0, w.b == 0, x.width == 0, x.fe == 0, x.aop == 0, !x.sgn, x.rp == 0] []
/-- ATOM and ATOMF: `ops` is the greatest op code accepted (16 R296). -/
def atomCode (ops : Nat) (w : LA) (x : LXM) : Nat :=
  let ret := x.aop.toNat ≥ 8
  memCode [0, 1, 2] [2, 3] w x [x.rp == 0, !x.sgn, ret || w.d == 0]
    [x.fe == 0, x.aop.toNat % 8 ≤ ops, dataOk x.width w.b, !ret || dataOk x.width w.d]
def casCode (w : LA) (x : LXM) : Nat :=
  memCode [0, 1, 2] [2, 3] w x [x.rp == 0, !x.sgn, x.aop == 0] [x.fe == 0, dataOk x.width w.d, dataOk x.width w.b]
def atldCode (w : LA) (x : LXM) : Nat :=
  memCode [0] [2, 3] w x [x.rp == 0, !x.sgn, x.aop == 0, w.b == 0] [x.fe == 0, dataOk x.width w.d]

/-- BRX, JMPR, CALL, CALLI, RET (13 R232): `offUsed` for BRX and CALL. -/
def lxbCode (brx offUsed : Bool) (w : LB) (x : LXB) : Nat :=
  verdict [!w.z, x.rsv == 0, brx || x.n == 0, offUsed || w.off == 0] [brx || even6 x.a]
def lbCode (uUsed offUsed : Bool) (w : LB) : Nat :=
  verdict [!w.z, uUsed || !w.u, offUsed || w.off == 0] []

/-- Source b of a group instruction: bit 6 is 0 when I = 0 (13 R233). -/
def GA.bOk (w : GA) : Bool := w.i || w.x.toNat < 64
def GA.noB (w : GA) : Bool := !w.i && w.x == 0

def galuCode (w : GA) : Nat := verdict [w.bOk] []

/-- A GX control word whose fields are 0 but for those named. -/
def GXC.zeros (x : GXC) (sub pred queue ty imm : Bool) : List Bool :=
  [sub || x.sub == 0, pred || x.pred == 0, queue || x.queue == 0, ty || x.ty == 0, imm || x.imm == 0]

/-- The special registers that exist, their 64-bit ones and the ones SWRITE takes (17 R321). -/
def specialOk (n : Nat) : Bool := n ≤ 0x16
def specialWide (n : Nat) : Bool := n == 0x0B || n == 0x0D || n == 0x12 || n == 0x13
def specialRW (n : Nat) : Bool := 0x11 ≤ n && n ≤ 0x15

/-- Sub-codes of each trap class, counted from 1 (10 R191). -/
def trapSubs : List Nat := [6, 1, 2, 12, 2, 2, 3, 5, 2, 5, 4, 1, 3, 4]

def trapCode (w : GA) : Nat :=
  verdict [w.a == 0] [w.i, 1 ≤ w.d.toNat && w.d.toNat ≤ (trapSubs.getD w.x.toNat 0)]

def xacqCode (w : GA) : Nat := verdict [w.d == 0, w.a == 0] [w.i, w.x.toNat ≤ 2]
def rftCode (form : Nat) (w : GA) : Nat := verdict [w.d == 0, w.a == 0] [w.i, w.x.toNat == form]

def sldCode (w : GA) (x : LXM) : Nat :=
  verdict [w.noB, x.aop == 0, x.rp == 0, !x.sgn || x.width.toNat < 2]
    [x.space.toNat ≤ 3, x.width.toNat ≤ 3, feOk true x.space x.fe, x.space != 0 || even6 w.a, dataOk x.width w.d]
def sstCode (w : GA) (x : LXM) : Nat :=
  verdict [w.d == 0, !w.i && w.bOk, x.aop == 0, x.rp == 0, !x.sgn]
    [x.space.toNat ≤ 3, x.width.toNat ≤ 3, feOk false x.space x.fe, x.space != 0 || even6 w.a,
     dataOk x.width (BitVec.ofNat 6 w.x.toNat)]
def aqCode (load : Bool) (w : GA) (x : LXM) : Nat :=
  verdict [w.noB, load || w.d == 0, x.aop == 0, x.rp.toNat < 2, !x.sgn || (load && x.width.toNat < 2)]
    [x.space.toNat ≤ 2, x.width.toNat ≤ 2, x.fe == 0, x.space != 0 || even6 w.a, w.d.toNat ≤ 3]

/-- The engine fields that a command uses (18 R345). -/
structure EngSpec where
  form : Nat := 0
  eq : Bool := true
  d : Bool := false
  dPair : Bool := false
  mma : Bool := false
  gform : Bool := false
  acc : Bool := false
  a : Bool := true

def EngSpec.code (p : EngSpec) (w : GA) (x : GXE) (value : List Bool := []) : Nat :=
  verdict
    [w.noB, p.d || w.d == 0, p.a || w.a == 0, x.rsv == 0, p.eq || x.eq == 0, p.mma || x.bsel == 0,
     p.mma || p.gform || x.gform == 0, p.mma || x.smode == 0, p.mma || p.acc || x.typea == 0,
     p.mma || x.typeb == 0, p.mma || p.acc || x.acc == 0]
    (value ++ [x.form.toNat == p.form, w.a.toNat ≤ 56, !p.dPair || even6 w.d, x.gform != 3])

def fp8 (t : Nat) : Bool := t == 12 || t == 13

/-- The rows of types, scale modes and byte selects that MMA accepts (18 R355, 14 R262). -/
def mmaRow (t : Bool) (x : GXE) : Bool :=
  let ta := x.typea.toNat
  let tb := x.typeb.toNat
  let same (l : List Nat) := ta == tb && l.contains ta
  (x.gform == 1 || x.gform == 2) &&
  match x.smode.toNat with
  | 0 => x.bsel == 0 && ((fp8 ta && fp8 tb) || same [9, 10, 7] || (t && same [11] && x.acc.toNat % 2 == 0))
  | 1 => ((fp8 ta && fp8 tb) || same [14, 7]) &&
         (if t then x.bsel == 0 else x.gform == 1 || x.bsel.toNat % 2 == 0)
  | 2 => fp8 ta && fp8 tb && x.bsel == 0
  | _ => false

def accOk (types : List Nat) (x : GXE) : Bool :=
  types.contains x.typea.toNat && (x.typea != 11 || x.acc.toNat % 2 == 0)

def phaseCode (form : Nat) (w : GA) (x : GXC) : Nat :=
  verdict ([w.d == 0, w.a == 0, w.noB] ++ x.zeros true false false false false) [x.sub.toNat == form]

/-- The argument ranges of an event. -/
def rng (ok : List Bool) : Nat := if ok.all id then 0 else 3

/-- 0 for a well-formed operation, else the sub-code of R240's first failing check among 5 and 6. -/
def Instr.wfCode : Instr → Nat
  | .nop w => verdict [w.hold == 0, w.d == 0, w.a == 0, w.b == 0] []
  | .mov w => verdict [] [w.b.toNat ≤ 2, w.b != 1 || w.d.toNat ≤ 15, w.b != 2 || w.a.toNat ≤ 15]
  | .movi w _ => verdict [w.a == 0, w.b == 0] []
  | .sel w x => selCode w x
  | .iadd w x => Spec.int2.code w x
  | .isub w x => Spec.int2.code w x
  | .imul w x => Spec.int2.code w x
  | .imulh w x => Spec.int2ns.code w x
  | .imad w x => { Spec.int2 with srcb := .three }.code w x
  | .imin w x => Spec.int2ns.code w x
  | .imax w x => Spec.int2ns.code w x
  | .iabs w x => Spec.int1.code w x
  | .ineg w x => Spec.int1.code w x
  | .lea w x => { types := [4, 5, 0, 6], srcb := .imm, pairD := true, pairA := true : ArithSpec }.code w x
  | .iset w x => setCode Spec.int2ns 5 w x
  | .andL w x => Spec.bits2.code w x
  | .orL w x => Spec.bits2.code w x
  | .xorL w x => Spec.bits2.code w x
  | .andnL w x => Spec.bits2.code w x
  | .notL w x => Spec.bits1.code w x
  | .shl w x => Spec.bits2.code w x
  | .shr w x => Spec.bits2.code w x
  | .sar w x => Spec.bits2.code w x
  | .rotl w x => Spec.bits2.code w x
  | .popc w x => Spec.bits1.code w x
  | .clz w x => Spec.bits1.code w x
  | .brev w x => Spec.bits1.code w x
  | .bfe w x => Spec.int2ns.code w x
  | .bfi w x => Spec.bits3.code w x
  | .prmt w x => Spec.bits3.code w x
  | .pset w x => psetCode w x
  | .fadd w x => Spec.f2.code w x
  | .fsub w x => Spec.f2.code w x
  | .fmul w x => Spec.f2.code w x
  | .ffma w x => Spec.f3.code w x
  | .fmin w x => Spec.f2nr.code w x
  | .fmax w x => Spec.f2nr.code w x
  | .fset w x => setCode Spec.f2nr 7 w x
  | .fclass w x => { types := [3, 9, 10, 11], srcb := .none, pairA := x.ty == 11 : ArithSpec }.code w x
  | .frcp w x => Spec.f1.code w x
  | .fsqrt w x => Spec.f1.code w x
  | .frsq w x => Spec.f1.code w x
  | .fex2 w x => Spec.f1.code w x
  | .flg2 w x => Spec.f1.code w x
  | .dadd w x => Spec.d2.code w x
  | .dmul w x => Spec.d2.code w x
  | .dfma w x => Spec.d3.code w x
  | .dmin w x => Spec.d2nr.code w x
  | .dmax w x => Spec.d2nr.code w x
  | .dset w x => setCode Spec.d2nr 7 w x
  | .drcp w x => Spec.d1.code w x
  | .dsqrt w x => Spec.d1.code w x
  | .hadd2 w x => Spec.h2.code w x
  | .hmul2 w x => Spec.h2.code w x
  | .hfma2 w x => Spec.h3.code w x
  | .hmin2 w x => Spec.h2nr.code w x
  | .hmax2 w x => Spec.h2nr.code w x
  | .cvt w x => cvtCode w x
  | .qnt w x => qntCode w x
  | .dqnt w x => dqntCode w x
  | .scle w x => { types := [12, 13, 14, 7], srcb := .none : ArithSpec }.code w x
  | .pack w x => packCode w x
  | .unpk w x => unpkCode w x
  | .shfl w x => { Spec.bits2 with pd := .opt }.code w x
  | .vote w x => voteCode w x
  | .redux w x => reduxCode 8 w x
  | .scan w x => reduxCode 16 w x
  | .matchL w x => { Spec.bits1 with pd := .opt }.code w x
  | .fenceW w => verdict [w.d == 0, w.a == 0] [w.b == 0]
  | .fenceTm w => verdict [w.d == 0, w.a == 0] [w.b == 1]
  | .fenceGl w => verdict [w.d == 0, w.a == 0] [w.b == 2]
  | .movs w => verdict [w.b == 0] []
  | .rdlane w x => Spec.bits2.code w x
  | .ld w x => ldCode w x
  | .st w x => stCode w x
  | .ldr w x => ldrCode w x
  | .atom w x => atomCode 6 w x
  | .atomf w x => atomCode 2 w x
  | .cas w x => casCode w x
  | .atld w x => atldCode w x
  | .pref w x => prefCode w x
  | .bra w => lbCode true true w
  | .brx w x => lxbCode true true w x
  | .jmpr w x => lxbCode false false w x
  | .call w x => lxbCode false true w x
  | .calli w x => lxbCode false false w x
  | .ret w x => lxbCode false false w x
  | .jset w => lbCode false true w
  | .join w => lbCode false false w
  | .exit w => lbCode false false w
  | .bpt w => lbCode false false w
  | .smov w => verdict [w.x == 0] [!w.i]
  | .smovImm w => verdict [w.a == 0] [w.i]
  | .smovi w _ => verdict [w.a == 0, w.noB] []
  | .sadd w => galuCode w
  | .ssub w => galuCode w
  | .smul w => galuCode w
  | .smin w => galuCode w
  | .smax w => galuCode w
  | .sand w => galuCode w
  | .sor w => galuCode w
  | .sxor w => galuCode w
  | .sshl w => galuCode w
  | .sshr w => galuCode w
  | .ssar w => galuCode w
  | .sset w x => verdict ([w.d == 0, w.bOk] ++ x.zeros true true false true false)
      [x.sub.toNat ≤ 5, x.pred != 7, x.ty == 1 || x.ty == 2]
  | .ssel w x => verdict ([w.bOk] ++ x.zeros false true false false false) [x.pred != 7]
  | .slea w x => verdict ([w.bOk] ++ x.zeros false false false true false)
      [[0, 4, 5, 6].contains x.ty.toNat, even6 w.d, even6 w.a]
  | .sld w x => sldCode w x
  | .sst w x => sstCode w x
  | .sbra w _ => verdict [w.d == 0, w.a == 0, w.noB] []
  | .sloop w _ => verdict [w.a == 0, w.noB] []
  | .sread w x => verdict ([w.a == 0, w.noB] ++ x.zeros false false false false true)
      [specialOk x.imm.toNat, !specialWide x.imm.toNat || even6 w.d]
  | .swrite w x => verdict ([w.d == 0, w.noB] ++ x.zeros false false false false true)
      [specialRW x.imm.toNat, !specialWide x.imm.toNat || even6 w.a]
  | .phase w x => phaseCode 0 w x
  | .phaseRel w x => phaseCode 1 w x
  | .phaseAcq w x => phaseCode 2 w x
  | .bar w x => verdict ([w.d == 0, w.a == 0, w.noB, x.imm.toNat / 512 == 0] ++ x.zeros false false false false true)
      [x.imm.toNat / 16 % 32 ≤ 16]
  | .arrive w x => verdict ([w.d == 0, w.bOk] ++ x.zeros false true false false false) [even6 w.a]
  | .waitlow w x => verdict ([w.d == 0, w.a == 0, w.bOk] ++ x.zeros false false false false false) []
  | .trigger w => verdict [w.d == 0, w.a == 0, w.noB] []
  | .waitv w x => verdict ([w.d == 0, w.bOk] ++ x.zeros true false false true false)
      [x.sub.toNat ≤ 5, x.ty == 1 || x.ty == 2, even6 w.a]
  | .xacq w => xacqCode w
  | .xrel w => xacqCode w
  | .hold w x => verdict ([w.a == 0, w.noB, x.imm.toNat / 256 == 0] ++ x.zeros false false false false true) []
  | .name w => verdict [w.a == 0, w.noB] []
  | .rstv w x => verdict ([w.noB, x.imm.toNat / 64 == 0] ++ x.zeros false false false false true) []
  | .gang w x => verdict ([w.d == 0, w.noB] ++ x.zeros false false false false false) []
  | .qpush w x => verdict ([w.d == 0, w.noB] ++ x.zeros false false true false false) [x.queue.toNat ≤ 5]
  | .qpop w x => verdict ([w.a == 0, w.noB] ++ x.zeros false true true false false) [x.queue.toNat ≤ 5]
  | .aqld w x => aqCode true w x
  | .aqst w x => aqCode false w x
  | .qslip w => verdict [w.d == 0, w.a == 0, w.bOk] []
  | .mcall w x => verdict [w.d == 0, w.a == 0, w.noB, x.npar.toNat ≥ 1 || x.parb == 0,
      x.npar.toNat ≥ 2 || x.parc == 0, x.npar.toNat ≥ 3 || x.pard == 0] []
  | .mcload w _ => verdict [w.a == 0, w.noB] []
  | .trap w => trapCode w
  | .rftRetry w => rftCode 0 w
  | .rftNext w => rftCode 1 w
  | .rftJump w => rftCode 2 w
  | .launch w x => verdict ([w.noB] ++ x.zeros true false false false false) [x.sub == 0, even6 w.a]
  | .launchNb w x => verdict ([w.noB] ++ x.zeros true true false false false) [x.sub == 1, x.pred != 7, even6 w.a]
  | .copy w x => ({} : EngSpec).code w x
  | .gather w x => ({} : EngSpec).code w x
  | .bwait w x => verdict ([w.d == 0, w.noB] ++ x.zeros false false false false false) []
  | .qfence w x => verdict ([w.d == 0, w.a == 0, w.noB, x.imm.toNat / 256 == 0] ++ x.zeros false false false false true) []
  | .mmaR w x => { mma := true : EngSpec }.code w x [mmaRow false x]
  | .mmaT w x => { form := 1, mma := true : EngSpec }.code w x [mmaRow true x]
  | .accld w x => { form := x.form.toNat, acc := true : EngSpec }.code w x [x.form.toNat ≤ 2, accOk [3, 1, 11] x]
  | .accst w x => { form := x.form.toNat, acc := true : EngSpec }.code w x [x.form.toNat ≤ 2, accOk [3, 1, 11, 10, 9] x]
  | .accz w x => { acc := true, a := false : EngSpec }.code w x [accOk [3, 1, 11] x]
  | .mres w x => { gform := true : EngSpec }.code w x
  | .flushNode w x => { d := true : EngSpec }.code w x
  | .flushPkg w x => { form := 1, d := true : EngSpec }.code w x
  | .nsend w x => ({} : EngSpec).code w x
  | .nget w x => ({} : EngSpec).code w x
  | .npost w x => ({} : EngSpec).code w x
  | .nwait w x => { eq := false, d := true : EngSpec }.code w x
  | .nctrRd w x => { eq := false, d := true, dPair := true : EngSpec }.code w x
  | .nctrSet w x => { form := 1, eq := false : EngSpec }.code w x
  | .nctrAdd w x => { form := 2, eq := false : EngSpec }.code w x
  | .reshard w x => ({} : EngSpec).code w x
  | .rstat w x => { eq := false, d := true, dPair := true : EngSpec }.code w x
  | .pgreq w x => ({} : EngSpec).code w x
  | .pgtier w x => ({} : EngSpec).code w x
  | .shoot w x => ({} : EngSpec).code w x
  | .shootAll w x => { form := 1 : EngSpec }.code w x
  | .digest w x => ({} : EngSpec).code w x
  | .handlerEnter p => rng [p < 32768]
  | .walkStart d => rng [d < 8]
  | .supersededNotice c => rng [c < 2048]
  | .multicastStoreArrive m => rng [m.die < 8, m.off + m.bytes.length ≤ 0x4000000]
  | .slotTake n => rng [n < 256]
  | .teamDispatch _ d c => rng [d < 8, c < 256]
  | .groupRestore _ d c n => rng [d < 8, c < 256, n < 64]
  | .overtemp d => rng [d < 8]
  | .sweepVisit d => rng [d < 8]
  | .sampleTick d c p => rng [d < 8, c < 256, p < 16]
  | .gaugeSample d g _ => rng [d < 8, g < 64]
  | .hostScratchWrite o b => rng [o + b.length ≤ 0x100000]
  | .hostScratchRead o n => rng [o + n ≤ 0x100000]
  | .regionEntryWrite i _ _ => rng [i < 64]
  | .cbudgetWrite c _ => rng [c < 2048]
  | .pinqRead d => rng [d < 8]
  | .pindoneWrite d _ => rng [d < 8]
  | .coldqRead d => rng [d < 8]
  | .sampleEnable d _ => rng [d < 8]
  | .ringConfigWrite d r _ _ => rng [d < 8, r < 4]
  | .pselWrite d _ => rng [d < 8]
  | .gaugeConfigWrite d g _ => rng [d < 8, g < 64]
  | .gaugeFreezeWrite d _ => rng [d < 8]
  | .gaugeClear d => rng [d < 8]
  | .mapValidSet m => rng [m < 8]
  | .mapValidClear m => rng [m < 8]
  | .mapLockSet m => rng [m < 8]
  | .mapErrClear m => rng [m < 8]
  | .maskWrite m k _ => rng [m < 8, k < 14]
  | .keyswap p => rng [p < 16]
  | .portRetrainCmd p => rng [p < 16]
  | .portEnable p _ => rng [p < 16]
  | .nstateReopen n => rng [n < 16]
  | .flitSend p _ b => rng [p < 16, b.length ≤ 224]
  | .flitReceive p _ => rng [p < 16]
  | .nakReceive p _ => rng [p < 16]
  | .linkRetrain p => rng [p < 16]
  | .portDown p => rng [p < 16]
  | .nodeResetReport n => rng [n < 16]
  | .engineKeyLoad d _ => rng [d < 256]
  | .engineKeynextLoad d _ => rng [d < 256]
  | .keyRoll d => rng [d < 256]
  | .mgmtPortReceive p _ _ => rng [p < 2]
  | .registerWrite _ o _ => rng [o < 0x100000, o % 8 == 0]
  | .portTrainingComplete p _ => rng [p < 16]
  | .pagingDelegation a _ => rng [a < 65536]
  | .corePowerGating c _ => rng [c < 2048]
  | .longResultWrite _ _ | .queueEntryFill _ _ | .homeAtomic _ | .commitVisible _ | .fabricLoadReply _
  | .deliveryArrive _ _ | .engineWritePerformed _ | .mmaComplete _ | .matrixResume _ | .reshardUnitCommit _ _ _ _
  | .pgtierCopy _ | .shootAck _ _ | .mgmtEvict _ | .groupDrainEnd _ | .gridAbort _ | .roundEnd _
  | .horizonRecompute | .waitforBuild | .powerWindowEnd _ _ | .scrubLine _ | .powerOnReset
  | .configRequest _ _ _ | .hostSecureAccess _ _ | .mboxbaseWrite _ | .mboxerrClear _ | .attestGo _ | .attestDone
  | .freezeRelease _ | .freezeBlockReset _ | .assayGo | .assayAbort | .assayRunEnd | .assayTouchmark
  | .dhaltWrite _ | .dreleaseWrite _ | .counterClear | .counterFreezeWrite _ | .packetForm _ | .packetReceive _
  | .ackReceive _ _ | .sackReceive _ _ _ | .notReadyReceive _ _ | .sackTimer _ | .sackPacketCount _
  | .rtoExpiry _ | .rmaReadRequest _ | .dirtyLineWriteBack _ | .walkComplete _ | .bootStageChange
  | .delegatedPageInServiced _ _ _ => 0

/-- The instruction passes checks 5 and 6 of R240 (an event: its arguments lie in their ranges). -/
def Instr.WellFormed (i : Instr) : Bool := i.wfCode == 0

end Sys2Proof
end

