-- ==== Sys2Proof/Decode.lean ====
section
/-! DEFINITION. Decoding and encoding (13 R227 to R239). `decodeBytes` is total: it reads an instruction from the
bytes at a PC, or rejects them by name. Checks 5 and 6 of R240 (`Instr.wfCode`) and its checks 2 to 4 are made when
the instruction executes, in the order of R240, because an instruction that fails them traps. `encode` writes the
words back, and every bit of a word is kept by the decoder. -/

namespace Sys2Proof

/-- Why bytes are not an instruction. -/
inductive Reject where
  /-- Fewer bytes than the word, or its extension word, needs. -/
  | truncated
  /-- The opcode is not assigned (R240 check 1). -/
  | unassigned
  /-- The opcode is assigned, but the field that selects its form holds a reserved value (R240 check 6). -/
  | selector (op : Nat)
  deriving DecidableEq, Repr

/-- The field of `n` bits whose lowest bit is bit `lo`. -/
def fld (w lo n : Nat) : BitVec n := BitVec.ofNat n (w / 2 ^ lo)
def bit (w lo : Nat) : Bool := w / 2 ^ lo % 2 == 1

def laOf (w : Nat) : LA :=
  { s := bit w 30, hold := fld w 28 2, guard := fld w 25 3, d := fld w 12 6, a := fld w 6 6, b := fld w 0 6 }
def lbOf (w : Nat) : LB :=
  { s := bit w 30, u := bit w 29, z := bit w 28, guard := fld w 25 3, off := fld w 0 18 }
def lxaOf (e : Nat) : LXA :=
  { c := fld e 26 6, rnd := fld e 24 2, ty := fld e 20 4, na := bit e 19, nb := bit e 18, nc := bit e 17,
    abs := bit e 16, sat := bit e 15, pd := fld e 12 3, imm := fld e 0 12 }
def lxmOf (e : Nat) : LXM :=
  { space := fld e 29 3, width := fld e 26 3, fe := fld e 24 2, aop := fld e 20 4, sgn := bit e 19,
    rp := fld e 16 3, off := fld e 0 16 }
def lxbOf (e : Nat) : LXB := { a := fld e 26 6, rsv := fld e 12 14, n := fld e 0 12 }
def gaOf (w : Nat) : GA :=
  { s := bit w 30, guard := fld w 27 3, d := fld w 14 6, a := fld w 8 6, i := bit w 7, x := fld w 0 7 }
def gxcOf (e : Nat) : GXC :=
  { sub := fld e 27 5, pred := fld e 24 3, queue := fld e 20 4, ty := fld e 16 4, imm := fld e 0 16 }
def gxcallOf (e : Nat) : GXCall :=
  { para := fld e 26 6, parb := fld e 20 6, parc := fld e 14 6, pard := fld e 8 6, npar := fld e 6 2,
    slot := fld e 0 6 }
def gxeOf (e : Nat) : GXE :=
  { eq := fld e 29 3, bsel := fld e 27 2, gform := fld e 25 2, smode := fld e 22 3, typea := fld e 18 4,
    typeb := fld e 14 4, acc := fld e 12 2, form := fld e 8 4, rsv := fld e 0 8 }

/-- Bit 31 selects the set (R227). -/
def isG (w : Nat) : Bool := bit w 31
def opL (w : Nat) : Nat := w / 2 ^ 18 % 128
def opG (w : Nat) : Nat := w / 2 ^ 20 % 128

/-- The L-set (13 R238): the instruction that first word w and extension word e encode. -/
def decodeL (w e : Nat) : Except Reject Instr :=
  match opL w with
  | 0x00 => .ok (.nop (laOf w))
  | 0x01 => .ok (.mov (laOf w))
  | 0x02 => .ok (.movi (laOf w) (BitVec.ofNat 32 e))
  | 0x03 => .ok (.sel (laOf w) (lxaOf e))
  | 0x04 => .ok (.iadd (laOf w) (lxaOf e))
  | 0x05 => .ok (.isub (laOf w) (lxaOf e))
  | 0x06 => .ok (.imul (laOf w) (lxaOf e))
  | 0x07 => .ok (.imulh (laOf w) (lxaOf e))
  | 0x08 => .ok (.imad (laOf w) (lxaOf e))
  | 0x09 => .ok (.imin (laOf w) (lxaOf e))
  | 0x0A => .ok (.imax (laOf w) (lxaOf e))
  | 0x0B => .ok (.iabs (laOf w) (lxaOf e))
  | 0x0C => .ok (.ineg (laOf w) (lxaOf e))
  | 0x0D => .ok (.lea (laOf w) (lxaOf e))
  | 0x0E => .ok (.iset (laOf w) (lxaOf e))
  | 0x10 => .ok (.andL (laOf w) (lxaOf e))
  | 0x11 => .ok (.orL (laOf w) (lxaOf e))
  | 0x12 => .ok (.xorL (laOf w) (lxaOf e))
  | 0x13 => .ok (.andnL (laOf w) (lxaOf e))
  | 0x14 => .ok (.notL (laOf w) (lxaOf e))
  | 0x15 => .ok (.shl (laOf w) (lxaOf e))
  | 0x16 => .ok (.shr (laOf w) (lxaOf e))
  | 0x17 => .ok (.sar (laOf w) (lxaOf e))
  | 0x18 => .ok (.rotl (laOf w) (lxaOf e))
  | 0x19 => .ok (.popc (laOf w) (lxaOf e))
  | 0x1A => .ok (.clz (laOf w) (lxaOf e))
  | 0x1B => .ok (.brev (laOf w) (lxaOf e))
  | 0x1C => .ok (.bfe (laOf w) (lxaOf e))
  | 0x1D => .ok (.bfi (laOf w) (lxaOf e))
  | 0x1E => .ok (.prmt (laOf w) (lxaOf e))
  | 0x1F => .ok (.pset (laOf w) (lxaOf e))
  | 0x20 => .ok (.fadd (laOf w) (lxaOf e))
  | 0x21 => .ok (.fsub (laOf w) (lxaOf e))
  | 0x22 => .ok (.fmul (laOf w) (lxaOf e))
  | 0x23 => .ok (.ffma (laOf w) (lxaOf e))
  | 0x24 => .ok (.fmin (laOf w) (lxaOf e))
  | 0x25 => .ok (.fmax (laOf w) (lxaOf e))
  | 0x26 => .ok (.fset (laOf w) (lxaOf e))
  | 0x27 => .ok (.fclass (laOf w) (lxaOf e))
  | 0x28 => .ok (.frcp (laOf w) (lxaOf e))
  | 0x29 => .ok (.fsqrt (laOf w) (lxaOf e))
  | 0x2A => .ok (.frsq (laOf w) (lxaOf e))
  | 0x2B => .ok (.fex2 (laOf w) (lxaOf e))
  | 0x2C => .ok (.flg2 (laOf w) (lxaOf e))
  | 0x30 => .ok (.dadd (laOf w) (lxaOf e))
  | 0x31 => .ok (.dmul (laOf w) (lxaOf e))
  | 0x32 => .ok (.dfma (laOf w) (lxaOf e))
  | 0x33 => .ok (.dmin (laOf w) (lxaOf e))
  | 0x34 => .ok (.dmax (laOf w) (lxaOf e))
  | 0x35 => .ok (.dset (laOf w) (lxaOf e))
  | 0x36 => .ok (.drcp (laOf w) (lxaOf e))
  | 0x37 => .ok (.dsqrt (laOf w) (lxaOf e))
  | 0x38 => .ok (.hadd2 (laOf w) (lxaOf e))
  | 0x39 => .ok (.hmul2 (laOf w) (lxaOf e))
  | 0x3A => .ok (.hfma2 (laOf w) (lxaOf e))
  | 0x3B => .ok (.hmin2 (laOf w) (lxaOf e))
  | 0x3C => .ok (.hmax2 (laOf w) (lxaOf e))
  | 0x40 => .ok (.cvt (laOf w) (lxaOf e))
  | 0x41 => .ok (.qnt (laOf w) (lxaOf e))
  | 0x42 => .ok (.dqnt (laOf w) (lxaOf e))
  | 0x43 => .ok (.scle (laOf w) (lxaOf e))
  | 0x44 => .ok (.pack (laOf w) (lxaOf e))
  | 0x45 => .ok (.unpk (laOf w) (lxaOf e))
  | 0x48 => .ok (.shfl (laOf w) (lxaOf e))
  | 0x49 => .ok (.vote (laOf w) (lxaOf e))
  | 0x4A => .ok (.redux (laOf w) (lxaOf e))
  | 0x4B => .ok (.scan (laOf w) (lxaOf e))
  | 0x4C => .ok (.matchL (laOf w) (lxaOf e))
  | 0x4D =>
    match (laOf w).b.toNat with
    | 0 => .ok (.fenceW (laOf w))
    | 1 => .ok (.fenceTm (laOf w))
    | 2 => .ok (.fenceGl (laOf w))
    | _ => .error (.selector 0x4D)
  | 0x4E => .ok (.movs (laOf w))
  | 0x4F => .ok (.rdlane (laOf w) (lxaOf e))
  | 0x50 => .ok (.ld (laOf w) (lxmOf e))
  | 0x51 => .ok (.st (laOf w) (lxmOf e))
  | 0x52 => .ok (.ldr (laOf w) (lxmOf e))
  | 0x53 => .ok (.atom (laOf w) (lxmOf e))
  | 0x54 => .ok (.atomf (laOf w) (lxmOf e))
  | 0x55 => .ok (.cas (laOf w) (lxmOf e))
  | 0x56 => .ok (.atld (laOf w) (lxmOf e))
  | 0x57 => .ok (.pref (laOf w) (lxmOf e))
  | 0x60 => .ok (.bra (lbOf w))
  | 0x61 => .ok (.brx (lbOf w) (lxbOf e))
  | 0x62 => .ok (.jmpr (lbOf w) (lxbOf e))
  | 0x63 => .ok (.call (lbOf w) (lxbOf e))
  | 0x64 => .ok (.calli (lbOf w) (lxbOf e))
  | 0x65 => .ok (.ret (lbOf w) (lxbOf e))
  | 0x66 => .ok (.jset (lbOf w))
  | 0x67 => .ok (.join (lbOf w))
  | 0x68 => .ok (.exit (lbOf w))
  | 0x69 => .ok (.bpt (lbOf w))
  | _ => .error .unassigned

/-- The G-set (13 R239): the instruction that first word w and extension word e encode. -/
def decodeG (w e : Nat) : Except Reject Instr :=
  match opG w with
  | 0x00 => if (gaOf w).i then .ok (.smovImm (gaOf w)) else .ok (.smov (gaOf w))
  | 0x01 => .ok (.smovi (gaOf w) (BitVec.ofNat 32 e))
  | 0x02 => .ok (.sadd (gaOf w))
  | 0x03 => .ok (.ssub (gaOf w))
  | 0x04 => .ok (.smul (gaOf w))
  | 0x05 => .ok (.smin (gaOf w))
  | 0x06 => .ok (.smax (gaOf w))
  | 0x07 => .ok (.sand (gaOf w))
  | 0x08 => .ok (.sor (gaOf w))
  | 0x09 => .ok (.sxor (gaOf w))
  | 0x0A => .ok (.sshl (gaOf w))
  | 0x0B => .ok (.sshr (gaOf w))
  | 0x0C => .ok (.ssar (gaOf w))
  | 0x0D => .ok (.sset (gaOf w) (gxcOf e))
  | 0x0E => .ok (.ssel (gaOf w) (gxcOf e))
  | 0x0F => .ok (.slea (gaOf w) (gxcOf e))
  | 0x10 => .ok (.sld (gaOf w) (lxmOf e))
  | 0x11 => .ok (.sst (gaOf w) (lxmOf e))
  | 0x12 => .ok (.sbra (gaOf w) (BitVec.ofNat 32 e))
  | 0x13 => .ok (.sloop (gaOf w) (BitVec.ofNat 32 e))
  | 0x14 => .ok (.sread (gaOf w) (gxcOf e))
  | 0x15 => .ok (.swrite (gaOf w) (gxcOf e))
  | 0x18 =>
    match (gxcOf e).sub.toNat with
    | 0 => .ok (.phase (gaOf w) (gxcOf e))
    | 1 => .ok (.phaseRel (gaOf w) (gxcOf e))
    | 2 => .ok (.phaseAcq (gaOf w) (gxcOf e))
    | _ => .error (.selector 0x18)
  | 0x19 => .ok (.bar (gaOf w) (gxcOf e))
  | 0x1A => .ok (.arrive (gaOf w) (gxcOf e))
  | 0x1B => .ok (.waitlow (gaOf w) (gxcOf e))
  | 0x1C => .ok (.trigger (gaOf w))
  | 0x1D => .ok (.waitv (gaOf w) (gxcOf e))
  | 0x20 => .ok (.xacq (gaOf w))
  | 0x21 => .ok (.xrel (gaOf w))
  | 0x22 => .ok (.hold (gaOf w) (gxcOf e))
  | 0x23 => .ok (.name (gaOf w))
  | 0x24 => .ok (.rstv (gaOf w) (gxcOf e))
  | 0x25 => .ok (.gang (gaOf w) (gxcOf e))
  | 0x28 => .ok (.qpush (gaOf w) (gxcOf e))
  | 0x29 => .ok (.qpop (gaOf w) (gxcOf e))
  | 0x2A => .ok (.aqld (gaOf w) (lxmOf e))
  | 0x2B => .ok (.aqst (gaOf w) (lxmOf e))
  | 0x2C => .ok (.qslip (gaOf w))
  | 0x30 => .ok (.mcall (gaOf w) (gxcallOf e))
  | 0x31 => .ok (.mcload (gaOf w) (BitVec.ofNat 32 e))
  | 0x32 => .ok (.trap (gaOf w))
  | 0x33 =>
    match (gaOf w).x.toNat with
    | 0 => .ok (.rftRetry (gaOf w))
    | 1 => .ok (.rftNext (gaOf w))
    | 2 => .ok (.rftJump (gaOf w))
    | _ => .error (.selector 0x33)
  | 0x34 =>
    match (gxcOf e).sub.toNat with
    | 0 => .ok (.launch (gaOf w) (gxcOf e))
    | 1 => .ok (.launchNb (gaOf w) (gxcOf e))
    | _ => .error (.selector 0x34)
  | 0x38 => .ok (.copy (gaOf w) (gxeOf e))
  | 0x39 => .ok (.gather (gaOf w) (gxeOf e))
  | 0x3A => .ok (.bwait (gaOf w) (gxcOf e))
  | 0x3B => .ok (.qfence (gaOf w) (gxcOf e))
  | 0x40 =>
    match (gxeOf e).form.toNat with
    | 0 => .ok (.mmaR (gaOf w) (gxeOf e))
    | 1 => .ok (.mmaT (gaOf w) (gxeOf e))
    | _ => .error (.selector 0x40)
  | 0x41 => .ok (.accld (gaOf w) (gxeOf e))
  | 0x42 => .ok (.accst (gaOf w) (gxeOf e))
  | 0x43 => .ok (.accz (gaOf w) (gxeOf e))
  | 0x44 => .ok (.mres (gaOf w) (gxeOf e))
  | 0x48 =>
    match (gxeOf e).form.toNat with
    | 0 => .ok (.flushNode (gaOf w) (gxeOf e))
    | 1 => .ok (.flushPkg (gaOf w) (gxeOf e))
    | _ => .error (.selector 0x48)
  | 0x50 => .ok (.nsend (gaOf w) (gxeOf e))
  | 0x51 => .ok (.nget (gaOf w) (gxeOf e))
  | 0x52 => .ok (.npost (gaOf w) (gxeOf e))
  | 0x53 => .ok (.nwait (gaOf w) (gxeOf e))
  | 0x54 =>
    match (gxeOf e).form.toNat with
    | 0 => .ok (.nctrRd (gaOf w) (gxeOf e))
    | 1 => .ok (.nctrSet (gaOf w) (gxeOf e))
    | 2 => .ok (.nctrAdd (gaOf w) (gxeOf e))
    | _ => .error (.selector 0x54)
  | 0x58 => .ok (.reshard (gaOf w) (gxeOf e))
  | 0x59 => .ok (.rstat (gaOf w) (gxeOf e))
  | 0x60 => .ok (.pgreq (gaOf w) (gxeOf e))
  | 0x61 => .ok (.pgtier (gaOf w) (gxeOf e))
  | 0x62 =>
    match (gxeOf e).form.toNat with
    | 0 => .ok (.shoot (gaOf w) (gxeOf e))
    | 1 => .ok (.shootAll (gaOf w) (gxeOf e))
    | _ => .error (.selector 0x62)
  | 0x68 => .ok (.digest (gaOf w) (gxeOf e))
  | _ => .error .unassigned
/-- L-set and G-set opcodes of one word (R238, R239). -/
def shortL : List Nat := [0x00, 0x01, 0x4D, 0x4E, 0x60, 0x66, 0x67, 0x68, 0x69]
def shortG : List Nat :=
  [0x00, 0x02, 0x03, 0x04, 0x05, 0x06, 0x07, 0x08, 0x09, 0x0A, 0x0B, 0x0C, 0x1C, 0x20, 0x21, 0x23, 0x2C, 0x32, 0x33]

/-- The instruction of first word `w` and extension word `e` (ignored by an opcode of one word). -/
def decodeWords (w e : Nat) : Except Reject Instr := if isG w then decodeG w e else decodeL w e

/-- The opcode is assigned. -/
def assigned (w : Nat) : Bool :=
  match decodeWords w 0 with
  | .error .unassigned => false
  | _ => true

/-- Whether the first word has an extension word; a reserved opcode is one word long (R240). -/
def hasExt (w : Nat) : Bool := assigned w && !(if isG w then shortG.contains (opG w) else shortL.contains (opL w))

/-- The guard field of a first word, assigned or not (R240). -/
def guardOf (w : Nat) : BitVec 3 := if isG w then fld w 27 3 else fld w 25 3

/-- A little-endian 32-bit word (00 R2). -/
def wordOfBytes (a b c d : Byte) : Nat := a.toNat + b.toNat * 2 ^ 8 + c.toNat * 2 ^ 16 + d.toNat * 2 ^ 24
def bytesOfWord (w : Nat) : List Byte :=
  [BitVec.ofNat 8 w, BitVec.ofNat 8 (w / 2 ^ 8), BitVec.ofNat 8 (w / 2 ^ 16), BitVec.ofNat 8 (w / 2 ^ 24)]

/-- The instruction at the head of the bytes, and its length in bytes. -/
def decodeBytes : List Byte → Except Reject (Instr × Nat)
  | a :: b :: c :: d :: rest =>
    let w := wordOfBytes a b c d
    if hasExt w then
      match rest with
      | e :: f :: g :: h :: _ => (decodeWords w (wordOfBytes e f g h)).map (·, 8)
      | _ => .error .truncated
    else (decodeWords w 0).map (·, 4)
  | _ => .error .truncated

/-- The instruction whose bits are `w`, the first word lowest; bits at and above `nbits` are 0. -/
def decodeTableWord (nbits w : Nat) : Option Instr :=
  let v := w % 2 ^ nbits
  match decodeBytes (bytesOfWord v ++ bytesOfWord (v / 2 ^ 32)) with
  | .ok (i, _) => some i
  | .error _ => none

/-! The encoder. -/

def laWord (op : Nat) (w : LA) : Nat :=
  w.b.toNat + w.a.toNat * 2 ^ 6 + w.d.toNat * 2 ^ 12 + op * 2 ^ 18 + w.guard.toNat * 2 ^ 25 + w.hold.toNat * 2 ^ 28
    + w.s.toNat * 2 ^ 30
def lbWord (op : Nat) (w : LB) : Nat :=
  w.off.toNat + op * 2 ^ 18 + w.guard.toNat * 2 ^ 25 + w.z.toNat * 2 ^ 28 + w.u.toNat * 2 ^ 29 + w.s.toNat * 2 ^ 30
def lxaWord (x : LXA) : Nat :=
  x.imm.toNat + x.pd.toNat * 2 ^ 12 + x.sat.toNat * 2 ^ 15 + x.abs.toNat * 2 ^ 16 + x.nc.toNat * 2 ^ 17
    + x.nb.toNat * 2 ^ 18 + x.na.toNat * 2 ^ 19 + x.ty.toNat * 2 ^ 20 + x.rnd.toNat * 2 ^ 24 + x.c.toNat * 2 ^ 26
def lxmWord (x : LXM) : Nat :=
  x.off.toNat + x.rp.toNat * 2 ^ 16 + x.sgn.toNat * 2 ^ 19 + x.aop.toNat * 2 ^ 20 + x.fe.toNat * 2 ^ 24
    + x.width.toNat * 2 ^ 26 + x.space.toNat * 2 ^ 29
def lxbWord (x : LXB) : Nat := x.n.toNat + x.rsv.toNat * 2 ^ 12 + x.a.toNat * 2 ^ 26
def gaWord (op : Nat) (w : GA) : Nat :=
  w.x.toNat + w.i.toNat * 2 ^ 7 + w.a.toNat * 2 ^ 8 + w.d.toNat * 2 ^ 14 + op * 2 ^ 20 + w.guard.toNat * 2 ^ 27
    + w.s.toNat * 2 ^ 30 + 2 ^ 31
def gxcWord (x : GXC) : Nat :=
  x.imm.toNat + x.ty.toNat * 2 ^ 16 + x.queue.toNat * 2 ^ 20 + x.pred.toNat * 2 ^ 24 + x.sub.toNat * 2 ^ 27
def gxcallWord (x : GXCall) : Nat :=
  x.slot.toNat + x.npar.toNat * 2 ^ 6 + x.pard.toNat * 2 ^ 8 + x.parc.toNat * 2 ^ 14 + x.parb.toNat * 2 ^ 20
    + x.para.toNat * 2 ^ 26
def gxeWord (x : GXE) : Nat :=
  x.rsv.toNat + x.form.toNat * 2 ^ 8 + x.acc.toNat * 2 ^ 12 + x.typeb.toNat * 2 ^ 14 + x.typea.toNat * 2 ^ 18
    + x.smode.toNat * 2 ^ 22 + x.gform.toNat * 2 ^ 25 + x.bsel.toNat * 2 ^ 27 + x.eq.toNat * 2 ^ 29

/-- The words of an instruction, from the opcode maps of R238 and R239; an event of the table has no words. -/
def encode : Instr → List Nat
  | .nop w => [laWord 0x00 w]
  | .mov w => [laWord 0x01 w]
  | .movi w x => [laWord 0x02 w, BitVec.toNat x]
  | .sel w x => [laWord 0x03 w, lxaWord x]
  | .iadd w x => [laWord 0x04 w, lxaWord x]
  | .isub w x => [laWord 0x05 w, lxaWord x]
  | .imul w x => [laWord 0x06 w, lxaWord x]
  | .imulh w x => [laWord 0x07 w, lxaWord x]
  | .imad w x => [laWord 0x08 w, lxaWord x]
  | .imin w x => [laWord 0x09 w, lxaWord x]
  | .imax w x => [laWord 0x0A w, lxaWord x]
  | .iabs w x => [laWord 0x0B w, lxaWord x]
  | .ineg w x => [laWord 0x0C w, lxaWord x]
  | .lea w x => [laWord 0x0D w, lxaWord x]
  | .iset w x => [laWord 0x0E w, lxaWord x]
  | .andL w x => [laWord 0x10 w, lxaWord x]
  | .orL w x => [laWord 0x11 w, lxaWord x]
  | .xorL w x => [laWord 0x12 w, lxaWord x]
  | .andnL w x => [laWord 0x13 w, lxaWord x]
  | .notL w x => [laWord 0x14 w, lxaWord x]
  | .shl w x => [laWord 0x15 w, lxaWord x]
  | .shr w x => [laWord 0x16 w, lxaWord x]
  | .sar w x => [laWord 0x17 w, lxaWord x]
  | .rotl w x => [laWord 0x18 w, lxaWord x]
  | .popc w x => [laWord 0x19 w, lxaWord x]
  | .clz w x => [laWord 0x1A w, lxaWord x]
  | .brev w x => [laWord 0x1B w, lxaWord x]
  | .bfe w x => [laWord 0x1C w, lxaWord x]
  | .bfi w x => [laWord 0x1D w, lxaWord x]
  | .prmt w x => [laWord 0x1E w, lxaWord x]
  | .pset w x => [laWord 0x1F w, lxaWord x]
  | .fadd w x => [laWord 0x20 w, lxaWord x]
  | .fsub w x => [laWord 0x21 w, lxaWord x]
  | .fmul w x => [laWord 0x22 w, lxaWord x]
  | .ffma w x => [laWord 0x23 w, lxaWord x]
  | .fmin w x => [laWord 0x24 w, lxaWord x]
  | .fmax w x => [laWord 0x25 w, lxaWord x]
  | .fset w x => [laWord 0x26 w, lxaWord x]
  | .fclass w x => [laWord 0x27 w, lxaWord x]
  | .frcp w x => [laWord 0x28 w, lxaWord x]
  | .fsqrt w x => [laWord 0x29 w, lxaWord x]
  | .frsq w x => [laWord 0x2A w, lxaWord x]
  | .fex2 w x => [laWord 0x2B w, lxaWord x]
  | .flg2 w x => [laWord 0x2C w, lxaWord x]
  | .dadd w x => [laWord 0x30 w, lxaWord x]
  | .dmul w x => [laWord 0x31 w, lxaWord x]
  | .dfma w x => [laWord 0x32 w, lxaWord x]
  | .dmin w x => [laWord 0x33 w, lxaWord x]
  | .dmax w x => [laWord 0x34 w, lxaWord x]
  | .dset w x => [laWord 0x35 w, lxaWord x]
  | .drcp w x => [laWord 0x36 w, lxaWord x]
  | .dsqrt w x => [laWord 0x37 w, lxaWord x]
  | .hadd2 w x => [laWord 0x38 w, lxaWord x]
  | .hmul2 w x => [laWord 0x39 w, lxaWord x]
  | .hfma2 w x => [laWord 0x3A w, lxaWord x]
  | .hmin2 w x => [laWord 0x3B w, lxaWord x]
  | .hmax2 w x => [laWord 0x3C w, lxaWord x]
  | .cvt w x => [laWord 0x40 w, lxaWord x]
  | .qnt w x => [laWord 0x41 w, lxaWord x]
  | .dqnt w x => [laWord 0x42 w, lxaWord x]
  | .scle w x => [laWord 0x43 w, lxaWord x]
  | .pack w x => [laWord 0x44 w, lxaWord x]
  | .unpk w x => [laWord 0x45 w, lxaWord x]
  | .shfl w x => [laWord 0x48 w, lxaWord x]
  | .vote w x => [laWord 0x49 w, lxaWord x]
  | .redux w x => [laWord 0x4A w, lxaWord x]
  | .scan w x => [laWord 0x4B w, lxaWord x]
  | .matchL w x => [laWord 0x4C w, lxaWord x]
  | .fenceW w => [laWord 0x4D w]
  | .fenceTm w => [laWord 0x4D w]
  | .fenceGl w => [laWord 0x4D w]
  | .movs w => [laWord 0x4E w]
  | .rdlane w x => [laWord 0x4F w, lxaWord x]
  | .ld w x => [laWord 0x50 w, lxmWord x]
  | .st w x => [laWord 0x51 w, lxmWord x]
  | .ldr w x => [laWord 0x52 w, lxmWord x]
  | .atom w x => [laWord 0x53 w, lxmWord x]
  | .atomf w x => [laWord 0x54 w, lxmWord x]
  | .cas w x => [laWord 0x55 w, lxmWord x]
  | .atld w x => [laWord 0x56 w, lxmWord x]
  | .pref w x => [laWord 0x57 w, lxmWord x]
  | .bra w => [lbWord 0x60 w]
  | .brx w x => [lbWord 0x61 w, lxbWord x]
  | .jmpr w x => [lbWord 0x62 w, lxbWord x]
  | .call w x => [lbWord 0x63 w, lxbWord x]
  | .calli w x => [lbWord 0x64 w, lxbWord x]
  | .ret w x => [lbWord 0x65 w, lxbWord x]
  | .jset w => [lbWord 0x66 w]
  | .join w => [lbWord 0x67 w]
  | .exit w => [lbWord 0x68 w]
  | .bpt w => [lbWord 0x69 w]
  | .smov w => [gaWord 0x00 w]
  | .smovImm w => [gaWord 0x00 w]
  | .smovi w x => [gaWord 0x01 w, BitVec.toNat x]
  | .sadd w => [gaWord 0x02 w]
  | .ssub w => [gaWord 0x03 w]
  | .smul w => [gaWord 0x04 w]
  | .smin w => [gaWord 0x05 w]
  | .smax w => [gaWord 0x06 w]
  | .sand w => [gaWord 0x07 w]
  | .sor w => [gaWord 0x08 w]
  | .sxor w => [gaWord 0x09 w]
  | .sshl w => [gaWord 0x0A w]
  | .sshr w => [gaWord 0x0B w]
  | .ssar w => [gaWord 0x0C w]
  | .sset w x => [gaWord 0x0D w, gxcWord x]
  | .ssel w x => [gaWord 0x0E w, gxcWord x]
  | .slea w x => [gaWord 0x0F w, gxcWord x]
  | .sld w x => [gaWord 0x10 w, lxmWord x]
  | .sst w x => [gaWord 0x11 w, lxmWord x]
  | .sbra w x => [gaWord 0x12 w, BitVec.toNat x]
  | .sloop w x => [gaWord 0x13 w, BitVec.toNat x]
  | .sread w x => [gaWord 0x14 w, gxcWord x]
  | .swrite w x => [gaWord 0x15 w, gxcWord x]
  | .phase w x => [gaWord 0x18 w, gxcWord x]
  | .phaseRel w x => [gaWord 0x18 w, gxcWord x]
  | .phaseAcq w x => [gaWord 0x18 w, gxcWord x]
  | .bar w x => [gaWord 0x19 w, gxcWord x]
  | .arrive w x => [gaWord 0x1A w, gxcWord x]
  | .waitlow w x => [gaWord 0x1B w, gxcWord x]
  | .trigger w => [gaWord 0x1C w]
  | .waitv w x => [gaWord 0x1D w, gxcWord x]
  | .xacq w => [gaWord 0x20 w]
  | .xrel w => [gaWord 0x21 w]
  | .hold w x => [gaWord 0x22 w, gxcWord x]
  | .name w => [gaWord 0x23 w]
  | .rstv w x => [gaWord 0x24 w, gxcWord x]
  | .gang w x => [gaWord 0x25 w, gxcWord x]
  | .qpush w x => [gaWord 0x28 w, gxcWord x]
  | .qpop w x => [gaWord 0x29 w, gxcWord x]
  | .aqld w x => [gaWord 0x2A w, lxmWord x]
  | .aqst w x => [gaWord 0x2B w, lxmWord x]
  | .qslip w => [gaWord 0x2C w]
  | .mcall w x => [gaWord 0x30 w, gxcallWord x]
  | .mcload w x => [gaWord 0x31 w, BitVec.toNat x]
  | .trap w => [gaWord 0x32 w]
  | .rftRetry w => [gaWord 0x33 w]
  | .rftNext w => [gaWord 0x33 w]
  | .rftJump w => [gaWord 0x33 w]
  | .launch w x => [gaWord 0x34 w, gxcWord x]
  | .launchNb w x => [gaWord 0x34 w, gxcWord x]
  | .copy w x => [gaWord 0x38 w, gxeWord x]
  | .gather w x => [gaWord 0x39 w, gxeWord x]
  | .bwait w x => [gaWord 0x3A w, gxcWord x]
  | .qfence w x => [gaWord 0x3B w, gxcWord x]
  | .mmaR w x => [gaWord 0x40 w, gxeWord x]
  | .mmaT w x => [gaWord 0x40 w, gxeWord x]
  | .accld w x => [gaWord 0x41 w, gxeWord x]
  | .accst w x => [gaWord 0x42 w, gxeWord x]
  | .accz w x => [gaWord 0x43 w, gxeWord x]
  | .mres w x => [gaWord 0x44 w, gxeWord x]
  | .flushNode w x => [gaWord 0x48 w, gxeWord x]
  | .flushPkg w x => [gaWord 0x48 w, gxeWord x]
  | .nsend w x => [gaWord 0x50 w, gxeWord x]
  | .nget w x => [gaWord 0x51 w, gxeWord x]
  | .npost w x => [gaWord 0x52 w, gxeWord x]
  | .nwait w x => [gaWord 0x53 w, gxeWord x]
  | .nctrRd w x => [gaWord 0x54 w, gxeWord x]
  | .nctrSet w x => [gaWord 0x54 w, gxeWord x]
  | .nctrAdd w x => [gaWord 0x54 w, gxeWord x]
  | .reshard w x => [gaWord 0x58 w, gxeWord x]
  | .rstat w x => [gaWord 0x59 w, gxeWord x]
  | .pgreq w x => [gaWord 0x60 w, gxeWord x]
  | .pgtier w x => [gaWord 0x61 w, gxeWord x]
  | .shoot w x => [gaWord 0x62 w, gxeWord x]
  | .shootAll w x => [gaWord 0x62 w, gxeWord x]
  | .digest w x => [gaWord 0x68 w, gxeWord x]
  | .longResultWrite _ _ | .queueEntryFill _ _ | .handlerEnter _ | .walkStart _ | .homeAtomic _
  | .supersededNotice _ | .commitVisible _ | .fabricLoadReply _ | .multicastStoreArrive _ | .deliveryArrive _ _
  | .engineWritePerformed _ | .mmaComplete _ | .matrixResume _ | .reshardUnitCommit _ _ _ _ | .pgtierCopy _
  | .shootAck _ _ | .slotTake _ | .teamDispatch _ _ _ | .mgmtEvict _ | .groupRestore _ _ _ _ | .groupDrainEnd _
  | .gridAbort _ | .roundEnd _ | .horizonRecompute | .waitforBuild | .powerWindowEnd _ _ | .overtemp _
  | .scrubLine _ | .sweepVisit _ | .sampleTick _ _ _ | .gaugeSample _ _ _ | .powerOnReset | .configRequest _ _ _
  | .hostSecureAccess _ _ | .hostScratchWrite _ _ | .hostScratchRead _ _ | .mboxbaseWrite _ | .mboxerrClear _
  | .attestGo _ | .attestDone | .regionEntryWrite _ _ _ | .freezeRelease _ | .freezeBlockReset _ | .assayGo
  | .assayAbort | .assayRunEnd | .assayTouchmark | .cbudgetWrite _ _ | .pinqRead _ | .pindoneWrite _ _
  | .coldqRead _ | .dhaltWrite _ | .dreleaseWrite _ | .sampleEnable _ _ | .ringConfigWrite _ _ _ _
  | .pselWrite _ _ | .gaugeConfigWrite _ _ _ | .gaugeFreezeWrite _ _ | .gaugeClear _ | .mapValidSet _
  | .mapValidClear _ | .mapLockSet _ | .mapErrClear _ | .maskWrite _ _ _ | .counterClear | .counterFreezeWrite _
  | .keyswap _ | .portRetrainCmd _ | .portEnable _ _ | .nstateReopen _ | .flitSend _ _ _ | .flitReceive _ _
  | .nakReceive _ _ | .linkRetrain _ | .portDown _ | .nodeResetReport _ | .packetForm _ | .packetReceive _
  | .ackReceive _ _ | .sackReceive _ _ _ | .notReadyReceive _ _ | .sackTimer _ | .sackPacketCount _
  | .rtoExpiry _ | .rmaReadRequest _ | .engineKeyLoad _ _ | .engineKeynextLoad _ _ | .keyRoll _
  | .mgmtPortReceive _ _ _ | .registerWrite _ _ _ | .portTrainingComplete _ _ | .dirtyLineWriteBack _
  | .walkComplete _ | .bootStageChange | .pagingDelegation _ _ | .delegatedPageInServiced _ _ _
  | .corePowerGating _ _ => []

/-- The bytes of an instruction as memory holds them. -/
def encodeBytes (i : Instr) : List Byte := (encode i).flatMap bytesOfWord

/-- The operation is an instruction, not an event. -/
def Instr.isInstruction (i : Instr) : Bool := !(encode i).isEmpty

/-- The first word and the extension word of an instruction, 0 where there is none. -/
def Instr.words (i : Instr) : Nat × Nat := ((encode i).getD 0 0, (encode i).getD 1 0)

end Sys2Proof
end

