-- ==== Sys2Proof/Machine/State.lean ====
section
/-! DEFINITION. The state of the P9 as plain data. INVENTORY.md lists each piece with its rule and reset value. -/

namespace Sys2Proof.Machine
open Sys2Proof

/-! ## Waits (05 R87 and the interlocks) -/

/-- What a group, a subgroup or an A-slice waits for. -/
inductive Cond where
  | none
  /-- BAR: barrier n passes generation gen (type 0x1). -/
  | bar (n gen : Nat)
  /-- BWAIT: the count of the barrier object at this team offset is at most 0 (0x2). -/
  | barrierObj (off : Nat)
  /-- WAITV: the condition c of type ty holds between the word at physical address pa and v (0x3). -/
  | waitv (va pa c ty : Nat) (v : Word)
  /-- WAITLOW: teams 0 to k have retired (0x4). -/
  | waitlow (k : Nat)
  /-- QPOP: queue q holds an entry, or the A-slice has stopped at a fault (0x5). -/
  | qpop (q : Nat)
  /-- A full/empty wait: no lane of the access still waits (0x6); off is the lowest granule's address. -/
  | granule (space off fe : Nat)
  /-- HOLD: the hold count of register r is 0 (0x7). -/
  | hold (r : Nat)
  /-- XACQ: this request has been served (0x8); k is the budget wanted. -/
  | blocks (k : Nat)
  /-- LAUNCH: a store entry has been given to the group (0x9). -/
  | storeEntry (addr : Nat)
  /-- Fabric loads or a FLUSH: these accesses have been answered (0xA). -/
  | fabric (ks : List Nat)
  /-- A page-in: no page (ASID, VA bits 55:16) of the list is outstanding (0xB). -/
  | page (asid : Nat) (pages : List Nat)
  /-- NWAIT: the counter condition of 18 R364 holds (0xC). -/
  | nwait (ctr : Nat) (target : Nat)
  /-- Interlock: every write that commit k waits for has been performed, or one of them faulted (R322). -/
  | writes (k : Nat)
  /-- Interlock: commit k is visible. -/
  | commit (k : Nat)
  /-- Interlock: home operation k has been performed. -/
  | homeOp (k : Nat)
  /-- Interlock: queue q has room. -/
  | room (q : Nat)
  /-- Interlock of the A-slice: an entry of queue q is present. -/
  | entry (q : Nat)
  /-- Interlock of the A-slice: the slip is below its limit and oq q has room. -/
  | slip (q : Nat)
  /-- Interlock: no MCALL of the slot runs on the core (R339). -/
  | slotIdle (slot : Nat)
  /-- Interlock: no MCLOAD of the slot waits on the core (R339). -/
  | slotReady (slot : Nat)
  /-- Interlock: the group's matrix operations have completed (R333). -/
  | matrixIdle
  /-- Interlock: the group's operations in the queues of the mask, issued before number `bound`, have been performed
  (R354). -/
  | queues (mask bound : Nat)
  /-- Interlock: matrix command k has left the rendezvous latch (R131). -/
  | latch (k : Nat)
  /-- Interlock: no other team holds the quadrant's accumulator file (R356). -/
  | accFile (qk tk : Nat)
  /-- Interlock: no RESHARD of the group with this block address is in flight (R370). -/
  | reshards (va : Nat)
  /-- Interlock: fewer than sixteen SHOOTs are in flight (R189). -/
  | shoots
  /-- Interlock: a walk engine of the die is free (R177). -/
  | walker (die : Nat)
  /-- An A-context at a branch to itself: it issues no more until the group exits or is evicted (12 R226). -/
  | idle
  /-- Parked at a steering site until the sequencer performs the operation (R101). -/
  | site
  deriving DecidableEq, Repr

/-! ## Long results (07 R127) -/

/-- One long operation's results: its registers stay pending until LONG_RESULT_WRITE writes them. -/
structure Long where
  id : Nat := 0
  vs : List (Nat × Mask × Lanes) := []
  ps : List (Nat × Mask × Mask) := []
  ss : List (Nat × Word) := []
  qs : List (Nat × Bool) := []
  flags : Nat := 0
  /-- The value has come back. -/
  ready : Bool := true
  /-- A fabric load: it is issued again at restore (R129). -/
  fabric : Bool := false
  /-- Issue clock and PC. -/
  at_ : Nat := 0
  pc : Nat := 0
  deriving DecidableEq, Repr

/-! ## Traps (10 R191 to R197) -/

structure LaneRec where
  addr : DWord := 0
  sub : Nat := 0
  space : Nat := 0
  operand : Word := 0
  deriving DecidableEq, Repr

/-- A trap subgroup and the detail that its side buffer will hold (R196). -/
structure Trap where
  cls : Nat := 0
  sub : Nat := 0
  lanes : Mask := 0
  recs : FMap LaneRec := {}
  pc : Nat := 0
  npc : Nat := 0
  apc : Nat := 0
  flags : Nat := 0
  mslot : Nat := 0
  mop : Nat := 0
  maux : Nat := 0
  regcls : Nat := 0
  regnum : Nat := 0
  insn : Nat := 0
  ext : Nat := 0
  engpc : Nat := 0
  /-- The clock at which it faulted, or took its place (R195). -/
  since : Nat := 0
  /-- Its handler has been entered. -/
  entered : Bool := false
  deriving DecidableEq, Repr

/-- An engine fault recorded against the group (18 R347). -/
structure EngFault where
  /-- The command's number, which orders faults by issue. -/
  id : Nat := 0
  /-- The command is a COPY, GATHER or matrix store, whose write a commit waits for. -/
  store : Bool := false
  lanes : Mask := 0
  cls : Nat := 0
  sub : Nat := 0
  addr : DWord := 0
  engpc : Nat := 0
  op : Nat := 0
  /-- Barrier object the command named, if it named one. -/
  obj : Option Nat := none
  queue : Nat := 0
  /-- Accumulator tiles of a split matrix operation. -/
  tiles : List Nat := []
  cont : Bool := false
  contsb : Bool := false
  deriving DecidableEq, Repr

/-! ## Groups (07 R118 to R145) -/

/-- A subgroup: lanes that share a PC and are candidates or wait at an interlock. -/
structure Sub where
  lanes : Mask
  pc : Nat
  /-- Inside a microprogram: slot and next operation (R340). -/
  micro : Option (Nat × Nat) := none
  /-- The MCALL's extension word and, in bit 32, its S: its parameters are substituted at each operation. -/
  maux : Nat := 0
  /-- How far a multi-step instruction at `pc` has come, and its data. -/
  stage : Nat := 0
  aux : Nat := 0
  wait : Cond := .none
  /-- Lanes of the access at `pc` already performed (R152), and what they loaded. -/
  done : Mask := 0
  got : FMap Nat := {}
  /-- The clock at which it first parked at `pc`, 0 for none, and whether its access has met the watches (10 R206). -/
  parkedAt : Nat := 0
  tested : Bool := false
  /-- The words of the BAR at which it waits (10 R196). -/
  w0 : Nat := 0
  w1 : Nat := 0
  /-- It runs the trap handler. -/
  handler : Bool := false
  /-- The clock since which it ages, and whether its PC is a candidate (R84). -/
  since : Nat := 0
  cand : Bool := false
  deriving DecidableEq, Repr

/-- A parked group's wake condition (R87, R198). -/
structure Wake where
  cond : Cond := .none
  /-- The lanes of the subgroup that parked. -/
  lanes : Mask := 0
  since : Nat := 0
  deriving DecidableEq, Repr

inductive GStatus where
  | gone | running | evicted | migrating | draining
  deriving DecidableEq, Repr

/-- One queue entry (R133): data, residency mask, and for bq the cut. -/
structure QEntry where
  data : Lanes := {}
  mask : Mask := 0
  cut : Nat := 0
  lcut : Nat := 0
  /-- An oq entry that is reserved but not yet filled (R135). -/
  filled : Bool := true
  /-- A bq entry: the unpublished bytes ordered before it (R137), each with its place among the group's commits. -/
  view : FMap (Option (Byte × Nat)) := {}
  /-- Its lanes with uncorrectable data (01 R24). -/
  bad : Mask := 0
  deriving DecidableEq, Repr

/-- The A-context of a sliced group (R132). -/
structure ACtx where
  pc : Nat := 0
  regs : FMap Word := {}
  cut : Nat := 0
  lcut : Nat := 0
  fault : Option Trap := none
  wait : Cond := .none
  /-- The unpublished bytes of the group that R137 orders before the next A-slice access, each with its place among the
  group's commits. -/
  view : FMap (Option (Byte × Nat)) := {}
  slip : Nat := 0
  /-- Where the head of each queue lies in its ring (R134, R140). -/
  heads : FMap Nat := {}
  /-- wq entries popped by AQSTs, counted from the start. -/
  popped : Nat := 0
  /-- wq entries pushed. -/
  pushed : Nat := 0
  /-- The clock of its last issue, or of its start (R384). -/
  since : Nat := 0
  deriving DecidableEq, Repr

/-- Special registers that hold state (17 R321). -/
structure Specials where
  fpflags : Nat := 0
  trapbase : Nat := 0
  contptr : Nat := 0
  ganginfo : Nat := 0
  digestctl : Nat := 0
  name : Nat := 0
  roundno : Nat := 0
  deriving DecidableEq, Repr

/-- A group: placed, evicted or draining. -/
structure Group where
  status : GStatus := .gone
  grid : Nat := 0
  team : Nat := 0
  num : Nat := 0
  role : Nat := 0
  die : Nat := 0
  core : Nat := 0
  slot : Nat := 0
  sliced : Bool := false
  subs : List Sub := []
  /-- Lanes waiting at a JOIN: mask and the JOIN's PC; and the clock at which the last of them came. -/
  joining : List (Mask × Nat) := []
  joinedAt : Nat := 0
  exited : Mask := 0
  /-- Join stack of each lane, top first. -/
  joins : FMap (List (Nat × Mask)) := {}
  trap : Option Trap := none
  parked : List Trap := []
  v : FMap Lanes := {}
  p : FMap Mask := {}
  s : FMap Word := {}
  q : FMap Bool := {}
  budget : Nat := 0
  holds : FMap Nat := {}
  longs : List Long := []
  spec : Specials := {}
  cut : Nat := 0
  /-- Logical value of the cut in a steered grid (R110). -/
  lcut : Nat := 0
  unpub : FMap (Option Byte) := {}
  /-- Bytes of its commits that are not yet visible. -/
  pend : FMap (Option Byte) := {}
  /-- Commits that it has begun. -/
  epoch : Nat := 0
  /-- Relay node of each package sent to, plus 1 (02 R28). -/
  relay : FMap Nat := {}
  stack : FMap Byte := {}
  side : FMap Byte := {}
  wake : Option Wake := none
  /-- Parked after a switch marker until no result is pending (R127). -/
  marker : Bool := false
  hall : FMap DWord := {}
  exitHall : DWord := 0
  retired : Nat := 0
  /-- The clock of its EXIT, or `roundno` in a steered grid (11 R213). -/
  exitAt : Nat := 0
  issued : Nat := 0
  triggered : Bool := false
  /-- The allocated name's index, 0 for none. -/
  nameIdx : Nat := 0
  undelivered : FMap Nat := {}
  faults : List EngFault := []
  /-- Halted by the debugger, and held in draining by HOLDONWATCH. -/
  halted : Bool := false
  held : Bool := false
  /-- Stopped before its EXIT: it drains, and writes no exit record (10 R192, 05 R76). -/
  stopped : Bool := false
  a : ACtx := {}
  queues : FMap (List QEntry) := {}
  /-- Clock of the read that followed each register's last delivery, and that delivery's sender (R93, 0x06). -/
  lastDelivery : FMap Nat := {}
  /-- Address of the context image of an evicted group. -/
  image : Nat := 0
  /-- Words with uncorrectable data: class (0 vector, 1 scalar, 2 lane predicate, 3 group predicate, 4 special register),
  register and lanes (01 R24). -/
  bad : List (Nat × Nat × Mask) := []
  /-- Posted stores not yet acknowledged. -/
  posted : Nat := 0
  /-- Placed clock order, for R88. -/
  placedAt : Nat := 0
  /-- It observed its predecessor's completion record, and took a cut after that (R99). -/
  observed : Bool := false
  cutAfter : Bool := false
  /-- The value of the first such cut. -/
  lateFrom : Nat := 0
  /-- Placed while TRCCTL armed its grid (11 R214). -/
  traced : Bool := false
  /-- Groups that have sent it a delivery (11 R216). -/
  senders : List Nat := []
  /-- The site operation of its last cut in an Assay run, to which its reads belong (06 R113). -/
  cutOp : Nat := 0
  deriving DecidableEq, Repr

/-- A quadrant: its accumulator tiles (18 R356), the gang's split marks, its duty value (01 R21). -/
structure Quad where
  acc : FMap Word := {}
  /-- Tiles with uncorrectable data (01 R24). -/
  bad : List Nat := []
  /-- The team that holds the file, by its key. -/
  holder : Option Nat := none
  marks : List Nat := []
  /-- 16 less the duty value. -/
  duty : Nat := 0
  deriving DecidableEq, Repr

/-! ## Teams and grids (05, 06) -/

/-- A team barrier (17 R323). -/
structure Bar where
  gen : Nat := 0
  k : Option Nat := none
  arrived : List Nat := []
  deriving DecidableEq, Repr

/-- When a group arrived at and returned from a BAR generation (R95). -/
structure BarPass where
  group : Nat
  bar : Nat
  gen : Nat
  arrive : Nat
  ret : Option Nat
  deriving DecidableEq, Repr

/-- An access that a conflict filter remembers (R95). -/
structure Access where
  grid : Nat
  team : Nat
  group : Nat
  write : Bool
  at_ : Nat
  /-- The port by which it came to a node (02 R34). -/
  port : Nat := 0
  deriving DecidableEq, Repr

structure Team where
  live : Bool := false
  grid : Nat := 0
  idx : Nat := 0
  die : Nat := 0
  core : Nat := 0
  tmem : FMap Byte := {}
  full : FMap Bool := {}
  bars : FMap Bar := {}
  passes : List BarPass := []
  /-- The horizon, plus 1 (so that −1 is 0). -/
  horizon1 : Nat := 0
  /-- The arrival view: team and the clock of its arrival. -/
  view : List (Nat × Nat) := []
  trigTime : Option Nat := none
  retired : Bool := false
  /-- A group of it was stopped before its EXIT (10 R192, 05 R76). -/
  stopped : Bool := false
  gids : List Nat := []
  /-- Evicted whole: its memory is in a team image (10 R199). -/
  out : Bool := false
  /-- Address of the team image, and the quadrants whose accumulator files its group images carry. -/
  image : Nat := 0
  accs : List (Nat × Quad) := []
  deriving DecidableEq, Repr

/-- A launch record (05 R73), its fields as numbers. -/
structure Launch where
  entry : Nat := 0
  aentry : Nat := 0
  root : Nat := 0
  asid : Nat := 0
  mode : Nat := 0
  exhaust : Bool := false
  prio : Nat := 0
  energy : Nat := 0
  groups : Nat := 0
  msiv : Nat := 0
  depon : Bool := false
  deptrig : Bool := false
  teams : Nat := 0
  gridid : Nat := 0
  tag : Nat := 0
  deptag : Nat := 0
  tmem : Nat := 0
  steerlen : Nat := 0
  steeraddr : Nat := 0
  args : Nat := 0
  doneaddr : Nat := 0
  roles : List Nat := []
  qdepth : List Nat := []
  qslipi : Nat := 0
  deriving DecidableEq, Repr

/-- An entry of DCAUSE (06 R92, R94). -/
structure Cause where
  code : Nat
  pc : Nat
  count : Nat
  name : Nat
  named : Bool
  team : Nat
  grp : Nat
  obj : Nat
  deriving DecidableEq, Repr

/-- An operation that waits at a steering site (R101): class, key, and what performs it. -/
structure SiteOp where
  id : Nat
  cls : Nat
  key : Nat
  gid : Nat
  lane : Nat
  /-- 1 home operation lane, 2 commit, 3 cut, 4 full/empty waiter, 5 delivery, 6 fabric lane, 7 the commit of an EXIT. -/
  kind : Nat
  /-- The object the kind names: home operation, commit, waiter, delivery or fabric access. -/
  obj : Nat
  /-- Issue count of the group at issue (R107). -/
  issue : Nat
  /-- A non-returning integer add, min, max, and, or or xor (R106). -/
  commutes : Bool
  deriving DecidableEq, Repr

/-- The granules that an operation reads and writes (R113), as numbers; other spaces lie above global memory. -/
structure Footprint where
  r : List Nat := []
  w : List Nat := []
  deriving DecidableEq, Repr

/-- A choice of an Assay run (R112): class, operations that were candidates, index taken, stream entry consumed. -/
structure Choice where
  cls : Nat
  cands : List Nat
  idx : Nat
  entry : Nat
  deriving DecidableEq, Repr

/-- The part of a grid that only a steered one uses. -/
structure Steer where
  round : Nat := 1
  lclock : Nat := 0
  choice : Nat := 0
  ops : List SiteOp := []
  /-- The sequencer is within a round's end, and what it has achieved there. -/
  resolving : Bool := false
  moved : Bool := false
  /-- Entries of an Assay run, in place of the stream in memory; an entry past the end is 0. -/
  stream : Option (List Nat) := none
  /-- What an Assay run records: its choices, and the footprint of each operation performed. -/
  taken : List Choice := []
  feet : FMap (Option Footprint) := {}
  /-- Scratch pages that an Assay run has written: die × 1024 + page. -/
  pages : List Nat := []
  deriving DecidableEq, Repr

inductive GridStatus where
  | none | stored | running | done
  deriving DecidableEq, Repr

structure Grid where
  status : GridStatus := .none
  launch : Launch := {}
  /-- Order of entry into the store. -/
  order : Nat := 0
  /-- The predecessor's grid number (R78). -/
  pred : Option Nat := none
  /-- It still holds its store entry. -/
  inStore : Bool := false
  next : Nat := 0
  retired : Nat := 0
  cut : Nat := 0
  started : Bool := false
  dcause : FMap (Option Cause) := {}
  seen : Nat := 0
  missed : Nat := 0
  flags : Nat := 0
  /-- Completion status when the grid stops early. -/
  code : Nat := 0
  stopping : Bool := false
  /-- It has run to its end with this status, and its record still waits for retention (08 R162). -/
  ending : Option Nat := none
  completedAt : Nat := 0
  /-- Physical address of its completion record, plus 1; 0 while it is not written. -/
  donePa : Nat := 0
  steer : Steer := {}
  /-- The Assay engine runs it, and has taken a snapshot of this run (06 R114). -/
  assay : Bool := false
  snapped : Bool := false
  deriving DecidableEq, Repr

/-! ## Memory (08) -/

/-- A committed version of a byte (R156, R159). -/
structure Ver where
  val : Byte
  stamp : Nat
  grid : Nat
  team : Nat
  num : Nat
  /-- Logical clock of a steered grid's own version, 0 otherwise. -/
  lclk : Nat := 0
  deriving DecidableEq, Repr

/-- A byte of a commit: virtual and physical address, the address of its storage (01 R10), and its value. -/
structure CByte where
  va : Nat
  pa : Nat
  loc : Nat
  val : Byte
  deriving DecidableEq, Repr

/-- A commit (R156): its bytes are pending data until it is visible. -/
structure Commit where
  id : Nat := 0
  gid : Nat := 0
  pc : Nat := 0
  /-- The bytes it covers, by virtual address. -/
  covers : FMap (Option Byte) := {}
  /-- wq entries pushed before it (07 R138), and its place among its group's commits. -/
  wq : Nat := 0
  epoch : Nat := 0
  /-- Its pages have been looked up and its bytes are pending at their homes (09 R180). -/
  installed : Bool := false
  bytes : List CByte := []
  /-- Cores that still have to acknowledge a superseded notice (R160). -/
  notices : List Nat := []
  /-- Lines that request sampling has tagged (11 R221), by virtual address. -/
  tags : List Nat := []
  at_ : Nat := 0
  deriving DecidableEq, Repr

/-- One lane of an operation at a home (R163). -/
structure HomeLane where
  lane : Nat
  va : Nat
  pa : Nat
  /-- The address of its storage (01 R10). -/
  loc : Nat
  a : Nat
  b : Nat
  /-- Request sampling has tagged it (11 R221). -/
  tagged : Bool := false
  performed : Bool := false
  deriving DecidableEq, Repr

/-- An atomic, ATLD or ARRIVE increment on its way to its home (R163, R297, R324). -/
structure HomeOp where
  id : Nat := 0
  gid : Nat := 0
  /-- 0 ATOM, 1 ATOMF, 2 CAS, 3 ATLD, 4 ARRIVE. -/
  kind : Nat := 0
  aop : Nat := 0
  width : Nat := 0
  lanes : List HomeLane := []
  /-- The long result it fills, and the first register of its destination. -/
  long : Option Nat := none
  d : Nat := 0
  pc : Nat := 0
  /-- ARRIVE: the count wanted, and whether it completed. -/
  n : Nat := 0
  done : Bool := false
  result : Bool := false
  /-- ARRIVE: the participants of a completed count, with their clocks (06 R98). -/
  who : List (Nat × Nat × Nat) := []
  at_ : Nat := 0
  deriving DecidableEq, Repr

/-- A lane waiting for a full granule (R152). -/
structure FeWait where
  id : Nat
  gid : Nat
  lane : Nat
  fc : Bool
  space : Nat
  /-- Team number key or die. -/
  place : Nat
  off : Nat
  bytes : Nat
  pc : Nat
  since : Nat
  issue : Nat
  deriving DecidableEq, Repr

/-- A lane access to fabric memory in flight (02 R32). -/
structure FabricOp where
  id : Nat := 0
  gid : Nat := 0
  node : Nat := 0
  /-- The port by which it goes (02 R28). -/
  port : Nat := 0
  /-- 0 load, 1 store, 2 atomic, 3 flush. -/
  kind : Nat := 0
  /-- Lane, node byte address, and the two data operands. -/
  lanes : List (Nat × Nat × Nat × Nat) := []
  bytes : Nat := 0
  aop : Nat := 0
  akind : Nat := 0
  long : Option Nat := none
  d : Nat := 0
  pc : Nat := 0
  replied : Bool := false
  got : FMap Nat := {}
  /-- Lanes that the node refused (R31), and the FABRIC sub-code of an access that a link or node event failed (R39). -/
  refused : Mask := 0
  failed : Nat := 0
  at_ : Nat := 0
  deriving DecidableEq, Repr

/-- One node behind the fabric (02 R27, R31). -/
structure Node where
  mem : FMap (Option Byte) := {}
  /-- Bytes of installed memory. -/
  ddr : Nat := 2 ^ 42
  /-- Multicast tables and access windows, set by the node's management. -/
  mcast : FMap (List Nat) := {}
  windows : List (Nat × Nat) := []
  /-- Conflict filter of the node (R34): granule and accesses. -/
  filter : FMap (List Access) := {}
  /-- Lost store marks of this package's groups (R39). -/
  lost : List Nat := []
  /-- Resets seen: after one, memory and tables are undefined (R40), so their free values are drawn anew. -/
  epoch : Nat := 0
  deriving DecidableEq, Repr

/-- A global memory atomic's last agent, for code 0x01: 8-byte word, grid, team, group and clock. -/
structure AtomicMark where
  grid : Nat
  team : Nat
  num : Nat
  at_ : Nat
  deriving DecidableEq, Repr

structure MemSys where
  /-- Bytes of the 52-bit physical space at TIME 0. -/
  base : Memory := {}
  /-- Committed versions of each byte, newest first. -/
  vers : FMap (List Ver) := {}
  commits : List Commit := []
  /-- L1s that the homes' directories list, by line (R160). -/
  dir : FMap (List Nat) := {}
  homeOps : List HomeOp := []
  /-- SERIAL used so far at (TIME, lead die) of this clock. -/
  serials : FMap Nat := {}
  /-- The cut horizon H (R161), and what it would be without the pins of snapshots (06 R114). -/
  horizon : Nat := 0
  unpinned : Nat := 0
  /-- Scratch bytes and full bits, keyed by die × 2^26 + offset and die × 2^22 + granule. -/
  scratch : Memory := {}
  sfull : FMap Bool := {}
  feWaits : List FeWait := []
  /-- Conflict filters, keyed by team key × 2^14 + granule, and by die × 2^22 + granule. -/
  tfilter : FMap (List Access) := {}
  sfilter : FMap (List Access) := {}
  /-- Filters that have reported full: core, or 4096 + slice. -/
  filterFull : List Nat := []
  atomics : FMap (List AtomicMark) := {}
  /-- Arrivals at a counter since it last became 0: grid, team and clock (06 R98). -/
  arrivals : FMap (List (Nat × Nat × Nat)) := {}
  nodes : FMap Node := {}
  fabric : List FabricOp := []
  /-- Lines with uncorrectable data, and lines with an error that the controller corrects (01 R23, R24). -/
  badLines : List Nat := []
  weakLines : List Nat := []
  /-- Correctable errors found, by memory controller; bad-line tables (01 R23, R25). -/
  corrected : FMap Nat := {}
  lastCorrected : FMap Nat := {}
  badTable : FMap (List Nat) := {}
  /-- 16 KiB steps of each slice's retention share, and the scrub period in clocks (01 R16, R23). -/
  share : Nat := 12
  scrubPeriod : Nat := 60480000000000
  /-- Words of team memory and scratch (`sramWord`) with uncorrectable data, and with an error that a read corrects;
  corrections of each SRAM block, and the last word it corrected (01 R22, R23). -/
  badWords : List Nat := []
  weakWords : List Nat := []
  sramCount : FMap Nat := {}
  sramLast : FMap Nat := {}
  /-- Homes whose line is dirty in the home cache, waiting to be written back (01 R24). -/
  dirty : List Nat := []
  deriving DecidableEq, Repr

/-! ## Translation and residency (09) -/

/-- A cached leaf (R176): virtual base, log2 of the page size, and the PTE. -/
structure TlbEntry where
  asid : Nat
  va : Nat
  size : Nat
  pte : Nat
  pteAddr : Nat
  deriving DecidableEq, Repr

structure WalkReq where
  id : Nat := 0
  die : Nat := 0
  core : Nat := 0
  agent : Nat := 0
  root : Nat := 0
  asid : Nat := 0
  va : Nat := 0
  at_ : Nat := 0
  inFlight : Bool := false
  deriving DecidableEq, Repr

/-- A page-in request (R180, R182). -/
structure PageReq where
  asid : Nat
  page : Nat
  /-- 0 from a parked access, 1 from PGREQ. -/
  kind : Nat
  die : Nat
  /-- 0 waits for queue room, 1 in PINQ or with the firmware, 2 popped by the driver, 3 waits for a move to end. -/
  stage : Nat
  /-- Engine operations that wait for it. -/
  who : List Nat := []
  /-- The address space's paging was delegated when it was entered. -/
  dele : Bool := false
  deriving DecidableEq, Repr

structure Xlat where
  tlbs : FMap (List TlbEntry) := {}
  walks : List WalkReq := []
  reqs : List PageReq := []
  /-- Pages whose page-in failed, with the slice or command for which it did (who, asid, page). -/
  failed : List (Nat × Nat × Nat) := []
  coldq : FMap (List Nat) := {}
  sweep : FMap Nat := {}
  /-- Address spaces whose paging is delegated to firmware. -/
  delegated : List Nat := []
  gated : List Nat := []
  deriving DecidableEq, Repr

/-! ## Engine commands (18) -/

inductive EngKind where
  | copy | gather | mma | mres | accz | accld | accst | net | reshard | pgreq | pgtier | shoot | digest
  deriving DecidableEq, Repr

/-- A tensor layout record (R349). -/
structure Tlr where
  base : Nat := 0
  kind : Nat := 0
  etype : Nat := 0
  rank : Nat := 0
  place : Nat := 0
  mce : Nat := 0
  dims : List Nat := []
  strides : List Nat := []
  scale : Nat := 0
  deriving DecidableEq, Repr

/-- A unit of a RESHARD (R368): source and destination address, and bytes, of each run; whether it pulls from a peer. -/
structure ReUnit where
  pull : Bool := false
  space : Nat := 0
  place : Nat := 0
  runs : List (Nat × Nat × Nat) := []
  deriving DecidableEq, Repr

/-- An engine command in flight (R345, R346): issued, and not yet performed. -/
structure EngOp where
  id : Nat := 0
  gid : Nat := 0
  /-- The issuing group's grid, team, number, die and core, which outlive it. -/
  grid : Nat := 0
  team : Nat := 0
  num : Nat := 0
  die : Nat := 0
  core : Nat := 0
  kind : EngKind := .copy
  form : Nat := 0
  queue : Nat := 0
  /-- The operand block w0 to w7. -/
  w : List Nat := []
  cut : Nat := 0
  pc : Nat := 0
  w0 : Nat := 0
  w1 : Nat := 0
  lanes : Mask := 0
  /-- Vector registers read: GATHER's index register, or the B and scale registers of a matrix operation. -/
  regs : List Lanes := []
  src : Tlr := {}
  dst : Tlr := {}
  started : Bool := false
  /-- Writes performed, and how many there are. -/
  next : Nat := 0
  total : Nat := 0
  /-- The barrier object, and the bytes still to be subtracted there. -/
  obj : Option Nat := none
  left : Nat := 0
  /-- Accumulator tile, element type, scale mode, gang form, `ganginfo` and digest mode as captured at issue. -/
  tile : Nat := 0
  ty : Nat := 0
  smode : Nat := 0
  gform : Nat := 0
  gang : Nat := 0
  dmode : Nat := 0
  /-- A matrix operation: it waits in the rendezvous latch (07 R131). -/
  latched : Bool := false
  /-- The members of its joint operation, by quadrant; the lowest leads. -/
  members : List Nat := []
  /-- The GANG or MATRIX trap that the latch gave it. -/
  trap : Option (Nat × Nat) := none
  /-- Elements of K accumulated; of how many; split by an eviction (10 R201). -/
  kdone : Nat := 0
  ktotal : Nat := 0
  split : Bool := false
  /-- A matrix operation's own words, which an MRES takes from its block. -/
  op0 : Nat := 0
  op1 : Nat := 0
  /-- Pages outstanding (PGREQ), agents still to acknowledge (SHOOT), units under way (RESHARD). -/
  open_ : List Nat := []
  /-- The plan of a RESHARD. -/
  plan : List ReUnit := []
  /-- Step of PGTIER (09 R185). -/
  step : Nat := 0
  at_ : Nat := 0
  deriving DecidableEq, Repr

/-- A posted register delivery (07 R145). -/
structure Delivery where
  id : Nat := 0
  /-- Sending group and its name for the record of causes: grid, team, group and PC. -/
  gid : Nat := 0
  grid : Nat := 0
  team : Nat := 0
  num : Nat := 0
  pc : Nat := 0
  target : Nat := 0
  reg : Nat := 0
  data : Lanes := {}
  /-- It leaves when these commits are visible. -/
  after : List Nat := []
  /-- The relay node it goes through, plus 1; 0 within the package. -/
  relay : Nat := 0
  /-- The port to that node (02 R28). -/
  port : Nat := 0
  /-- The package it was counted against. -/
  pkg : Nat := 0
  /-- It has reached a migrating group's name, which the agent holds (R143). -/
  held : Bool := false
  at_ : Nat := 0
  deriving DecidableEq, Repr

/-- A multicast store of this package that its node still has to write into this package's scratch (02 R35). -/
structure Mcast where
  op : Nat
  gid : Nat
  node : Nat
  /-- The port by which it goes (02 R28). -/
  port : Nat := 0
  die : Nat
  off : Nat
  bytes : List Byte
  deriving DecidableEq, Repr

structure Engines where
  ops : List EngOp := []
  deliveries : List Delivery := []
  mcasts : List Mcast := []
  deriving DecidableEq, Repr

/-! ## The Ultra Ethernet engine (03) -/

/-- A message that this package sends or asks for, from issue to local completion. -/
structure NetMsg where
  id : Nat := 0
  pdc : Nat := 0
  ord : Nat := 0
  /-- Packets formed, and how many there are; bytes of an NGET placed. -/
  formed : Nat := 0
  total : Nat := 0
  placed : List Nat := []
  /-- Retries of a message that found no buffer; a "not ready" answer since the last RTO (R49). -/
  rnr : Nat := 0
  notReady : Bool := false
  deriving DecidableEq, Repr

/-- A packet sent and not yet acknowledged. -/
structure Unacked where
  psn : Nat
  msg : Nat
  pkt : Packet
  deriving DecidableEq, Repr

/-- A sending packet delivery context (R43). -/
structure Pdc where
  id : Nat := 0
  peer : Nat := 0
  mode : Nat := 0
  psn : Nat := 0
  unacked : List Unacked := []
  /-- RTO expiries since the last progress (R52). -/
  fails : Nat := 0
  last : Nat := 0
  /-- The window that NSCC gives it, in bytes (R53). -/
  window : Nat := 0
  deriving DecidableEq, Repr

/-- A receiving context: packets received with no gap, those received above it, and packets since the last SACK. -/
structure RxPdc where
  id : Nat := 0
  peer : Nat := 0
  mode : Nat := 0
  /-- The sending context that it receives from. -/
  spdc : Nat := 0
  cum : Nat := 0
  got : List Nat := []
  since : Nat := 0
  last : Nat := 0
  deriving DecidableEq, Repr

/-- A posted receive buffer, and the message that has taken it (R49). -/
structure NetBuf where
  op : Nat
  peer : Nat
  tag : Nat
  laddr : Nat
  len : Nat
  taken : Option Nat := none
  deriving DecidableEq, Repr

/-- A message of a peer whose end here is not yet known to be reached (R49). -/
structure RxMsg where
  peer : Nat
  mode : Nat
  msg : Nat
  ord : Nat
  tag : Nat
  len : Nat
  /-- The buffer's NPOST, and offsets of the packets placed. -/
  buf : Option Nat := none
  placed : List Nat := []
  rctr : Option Nat := none
  refused : Bool := false
  done : Bool := false
  /-- The sender has given it up after this many packets (R388). -/
  stop : Option Nat := none
  deriving DecidableEq, Repr

/-- What the receiving side of a self peer has sent back (R381). -/
inductive NetReply where
  | sack (pdc cum bitmap : Nat)
  | ack (pdc psn : Nat)
  | notReady (pdc msg : Nat)
  deriving DecidableEq, Repr

structure NetSys where
  msgs : List NetMsg := []
  pdcs : List Pdc := []
  rx : List RxPdc := []
  bufs : List NetBuf := []
  rxMsgs : List RxMsg := []
  /-- Packets and answers of self peers on their way inside the engine. -/
  wire : List Packet := []
  replies : List NetReply := []
  /-- Messages sent so far to each peer with each tag. -/
  sent : List (Nat × Nat × Nat) := []
  /-- Key, next key and previous key of each security domain (R56). -/
  keys : FMap (Nat × Nat × Option Nat) := {}
  /-- The remote key table's entries in force (R55); the BAR0 words are what software has written of them. -/
  rkeys : FMap Nat := {}
  deriving DecidableEq, Repr

/-! ## Cores, partitions and quadrants -/

/-- A control store slot (17 R339). -/
structure Micro where
  asid : Nat := 0
  addr : Nat := 0
  words : List Nat := []
  deriving DecidableEq, Repr

structure Core where
  store : FMap (Option Micro) := {}
  /-- Global requests of its lanes counted by request sampling (11 R221). -/
  requests : Nat := 0
  deriving DecidableEq, Repr

/-- A partition: its handler set, and the order in which XACQs wait (gid, budget wanted, since). -/
structure Part where
  t : FMap Lanes := {}
  owner : Option Nat := none
  /-- Handler registers with uncorrectable data (01 R24). -/
  bad : List (Nat × Mask) := []
  xacq : List (Nat × Nat × Nat) := []
  /-- Operand latch: group, register, uses left; least recently filled first (07 R126). -/
  latch : List (Nat × Nat × Nat) := []
  /-- The sampler's LFSR, and the clock of its next tick (11 R219); 0 for no tick. -/
  lfsr : Nat := 0
  tick : Nat := 0
  deriving DecidableEq, Repr

/-! ## The name agent (07 R141 to R143) -/

structure Names where
  /-- Generation of each index less 1. -/
  gens : FMap Nat := {}
  /-- The group that holds each index, plus 1. -/
  holder : FMap Nat := {}
  /-- Freed indices, least recently freed first. -/
  freed : List Nat := []
  /-- The least index never allocated, less 1. -/
  used : Nat := 0
  deriving DecidableEq, Repr

/-! ## Host side (04, 09, 10, 11) -/

/-- What the package last answered to the host (04 R59 to R64, 09 R182, R187). -/
inductive HostReply where
  | none
  /-- Configuration Request Retry Status. -/
  | retry
  /-- Unsupported Request. -/
  | unsupported
  | done
  | data (l : List Byte)
  deriving DecidableEq, Repr

/-- The module flash, the fuses, and the running firmware image (04 R66, R67). -/
structure Boot where
  primary : List Byte := []
  backup : List Byte := []
  minver : Nat := 0
  roothash : Nat := 0
  running : List Byte := []
  /-- The retention share that the firmware sets at die initialisation (01 R16). -/
  share : Nat := 12
  deriving DecidableEq, Repr

/-- A flit kept until it is acknowledged (02 R37). -/
structure TxFlit where
  seq : Nat
  ty : Byte
  payload : List Byte
  /-- Times in a row that it has been replayed. -/
  replays : Nat := 0
  deriving DecidableEq, Repr

/-- A Dwetex port (02 R36 to R38); PSTAT, PCTL and KEYNEXT are BAR0 registers. Keys are 256-bit numbers. -/
structure Port where
  txKey : Nat := 0
  txGen : Nat := 0
  /-- XMIT and SEQ of the next transmission and the next new flit. -/
  xmit : Nat := 0
  seq : Nat := 0
  replay : List TxFlit := []
  /-- A resend held from this SEQ on until a KEYSWAP. -/
  held : Option Nat := none
  /-- Retrains in a row that failed. -/
  fails : Nat := 0
  rxKey : Nat := 0
  rxPrev : Nat := 0
  rxGen : Nat := 0
  /-- Next SEQ expected; flits received since the generation became current. -/
  rxSeq : Nat := 0
  rxSince : Nat := 0
  /-- What the port's last transmission sent, the NAKs that it has sent, and the flits that it has accepted. -/
  wire : List Flit := []
  naks : List Nat := []
  accepted : List TxFlit := []
  deriving DecidableEq, Repr

/-- Packages of the pod other than this one, as pod management set it up, are in `pod`. -/
structure HostSys where
  pod : List Nat := []
  /-- BAR0 registers, by offset; an unlisted one holds its reset value (`bar0Reset`). -/
  bar0 : FMap (Option DWord) := {}
  cbudget : FMap Nat := {}
  msix : List Nat := []
  /-- Die, core and slot of the last group to take a fatal trap, and that slot's side buffer (10 R192). -/
  lastFatal : Option (Nat × Nat × Nat) := none
  fatalSide : FMap Byte := {}
  /-- Cores (by core key) and engines (4096 and up) whose world bit is secure (04 R69). -/
  secure : List Nat := []
  /-- Frozen masters: key, the slice, command or grid and its PC, and the target address (04 R70). -/
  frozen : List (Nat × Nat × Nat × Nat) := []
  /-- Freezes the monitor has released: their next access raises the world fault. -/
  released : List (Nat × Nat) := []
  /-- The wait-for graph's last build (11 R216): RETIRED of each group, and the cycles reported and still there. -/
  retiredThen : FMap Nat := {}
  deadlocks : List (List (Nat × Bool)) := []
  /-- The monitor's log: master, target, clock. -/
  monlog : List (Nat × Nat × Nat) := []
  reply : HostReply := .none
  /-- Words written to configuration registers, by offset (04 R59). -/
  config : FMap (Option Word) := {}
  boot : Boot := {}
  /-- An attestation request in progress: die and scratch offset of its nonce (04 R68). -/
  attest : Option (Nat × Nat) := none
  /-- PLIMIT in watts, and what the rest of the package used in the previous window (01 R21). -/
  plimit : Nat := 4400
  otherPrev : Nat := 0
  /-- Lines that the management complex was told of, and the traffic its ports received: port, kind, bytes. -/
  told : List Nat := []
  mgmtIn : List (Nat × Nat × List Byte) := []
  /-- Ingot nodes of the pod (02 R27), 1 at reset, which is the model's choice (log 93); and the ports. -/
  podNodes : Nat := 1
  ports : FMap Port := {}
  /-- The last issue: clock, group and PC (11 R220). -/
  lastIssue : Nat × Nat × Nat := (0, 0, 0)
  deriving DecidableEq, Repr

/-! ## The Assay engine (04 R71, 06 R112 to R117) -/

/-- A snapshot (R114, 21 R379). -/
structure Snap where
  at_ : Nat := 0
  grid : Grid := {}
  groups : FMap Group := {}
  teams : FMap Team := {}
  /-- Accumulator files: team key, and the quadrant that held it. -/
  accs : List (Nat × Nat × Quad) := []
  scratch : FMap Byte := {}
  sfull : FMap Bool := {}
  commits : List Commit := []
  homeOps : List HomeOp := []
  feWaits : List FeWait := []
  fabric : List FabricOp := []
  deliveries : List Delivery := []
  deriving DecidableEq, Repr

/-- What the search keeps of a run: the entries consumed, and for each choice the index taken and the candidates'
footprints, none for one never performed. -/
structure RunRec where
  entries : List Nat := []
  choices : List (Nat × List (Option Footprint)) := []
  deriving DecidableEq, Repr

/-- One call of Visit (R115): its run, its j, and where its loops stand. -/
structure Visit where
  run : RunRec
  j : Nat
  /-- k + 1, and the next alternative there. -/
  k1 : Nat
  a : Nat
  deriving DecidableEq, Repr

/-- The engine is idle, checks a block, makes a run, or has a run whose touchmark is due. -/
inductive AssayPhase where
  | idle | checking | running | ended
  deriving DecidableEq, Repr

structure Assay where
  phase : AssayPhase := .idle
  /-- The control block's fields, and the launch record once it has been read. -/
  lrec : Nat := 0
  rec_ : Option Nat := none
  pre : Nat := 0
  plen : Nat := 0
  w0 : Nat := 0
  wsize : Nat := 0
  budget : Nat := 0
  ranges : List (Nat × Nat) := []
  result : Nat := 0
  rcap : Nat := 0
  /-- Prefix entries, read at GO. -/
  prefix_ : List Nat := []
  gid : Nat := 0
  runs : Nat := 0
  /-- Touchmarks reported, in order; the offset where the next stream copy ends. -/
  tms : List (List Byte) := []
  soff : Nat := 0
  /-- The j of the run being made. -/
  j : Nat := 0
  abort : Bool := false
  stack : List Visit := []
  snaps : FMap (Option Snap) := {}
  deriving DecidableEq, Repr

/-! ## The machine -/

/-- One turn of the agenda: an event, or the issue of a candidate (log 1). -/
inductive Turn where
  | event (i : Instr)
  /-- The group, the candidate's PC and whether it is the A-slice. -/
  | issue (gid pc : Nat) (aslice : Bool)
  deriving DecidableEq, Repr

/-- The instruction being issued: its group, subgroup and words (log 9). -/
structure Cur where
  gid : Nat := 0
  lanes : Mask := 0
  pc : Nat := 0
  aslice : Bool := false
  handler : Bool := false
  w0 : Nat := 0
  w1 : Nat := 0
  len : Nat := 4
  /-- Inside a microprogram: slot and operation; `pc` is then the MCALL's. -/
  micro : Option (Nat × Nat) := none
  maux : Nat := 0
  stage : Nat := 0
  aux : Nat := 0
  deriving DecidableEq, Repr

structure State where
  clock : Nat
  nextId : Nat
  /-- The counter that free values are drawn with (log 10); the model's own. -/
  free : Nat
  agenda : List Turn
  cur : Cur
  powered : Bool
  offline : Bool
  groups : FMap Group
  teams : FMap Team
  grids : FMap Grid
  cores : FMap Core
  parts : FMap Part
  quads : FMap Quad
  mem : MemSys
  xlat : Xlat
  eng : Engines
  net : NetSys
  names : Names
  host : HostSys
  assay : Assay
  deriving DecidableEq, Repr

/-- Why the machine stops. -/
inductive Fault where
  /-- Raised by `step` when package power has been removed (01 R20). Safe: nothing runs without power. -/
  | powerOff
  /-- Raised by `step` when the package has been taken offline (01 R25). Safe: nothing runs then. -/
  | offline
  deriving DecidableEq, Repr

/-- Why an instruction has no meaning. -/
inductive Refusal where
  /-- Raised by `exec` for an instruction that the model does not give a meaning yet. Safe: the run stops. -/
  | notModelled (mnemonic : String)
  deriving DecidableEq, Repr

/-- Shorthand for the outcome of a step. -/
abbrev Out := Host.Outcome State Fault Refusal

/-- The machine right after power-on reset. -/
def State.reset : State :=
  { clock := 0, nextId := 1, free := 0, agenda := [], cur := {}, powered := true, offline := false,
    groups := {}, teams := {}, grids := {}, cores := {}, parts := {}, quads := {}, mem := {}, xlat := {}, eng := {}, net := {}, names := {}, host := {},
    assay := {} }

end Sys2Proof.Machine
end

