-- ==== Sys2Proof/Machine/Access.lean ====
section
/-! DEFINITION. Reading and writing the parts of State: groups, registers, subgroups, and the record of causes.
Every register has one home, and every access to it goes through this file. -/

namespace Sys2Proof.Machine
open Sys2Proof

/-! ## Keys -/

def teamKey (grid idx : Nat) : Nat := grid * 2 ^ 24 + idx
def coreKey (die core : Nat) : Nat := die * 256 + core
def partKey (die core slot : Nat) : Nat := coreKey die core * 16 + slot / 4
def quadKey (die core slot : Nat) : Nat := coreKey die core * 4 + slot / 16

/-! ## The parts of State -/

namespace State

def group (s : State) (k : Nat) : Group := s.groups.get {} k
def setGroup (s : State) (k : Nat) (g : Group) : State := { s with groups := s.groups.set {} k g }
def team (s : State) (k : Nat) : Team := s.teams.get {} k
def setTeam (s : State) (k : Nat) (t : Team) : State := { s with teams := s.teams.set {} k t }
def grid (s : State) (k : Nat) : Grid := s.grids.get {} k
def setGrid (s : State) (k : Nat) (g : Grid) : State := { s with grids := s.grids.set {} k g }
def core (s : State) (k : Nat) : Core := s.cores.get {} k
def setCore (s : State) (k : Nat) (c : Core) : State := { s with cores := s.cores.set {} k c }
def part (s : State) (k : Nat) : Part := s.parts.get {} k
def setPart (s : State) (k : Nat) (p : Part) : State := { s with parts := s.parts.set {} k p }
def quad (s : State) (k : Nat) : Quad := s.quads.get {} k
def setQuad (s : State) (k : Nat) (q : Quad) : State := { s with quads := s.quads.set {} k q }
def setMem (s : State) (m : MemSys) : State := { s with mem := m }
def setXlat (s : State) (x : Xlat) : State := { s with xlat := x }
def setHost (s : State) (h : HostSys) : State := { s with host := h }

/-- The group of the instruction being issued. -/
def g (s : State) : Group := s.group s.cur.gid
def setG (s : State) (g : Group) : State := s.setGroup s.cur.gid g

/-- A number not used before. -/
def fresh (s : State) : Nat × State := (s.nextId, { s with nextId := s.nextId + 1 })

/-- The grid and the team of group k. -/
def gridOf (s : State) (k : Nat) : Grid := s.grid (s.group k).grid
def teamOf (s : State) (k : Nat) : Team := s.team (teamKey (s.group k).grid (s.group k).team)
def launch (s : State) : Launch := (s.grid s.g.grid).launch
def asid (s : State) : Nat := s.launch.asid
/-- A grid whose ASID is 0 runs as supervisor (09 R171). -/
def supervisor (s : State) : Bool := s.asid == 0

end State

namespace Group
def teamKey (g : Group) : Nat := Machine.teamKey g.grid g.team
def coreKey (g : Group) : Nat := Machine.coreKey g.die g.core
def partKey (g : Group) : Nat := Machine.partKey g.die g.core g.slot
def quadKey (g : Group) : Nat := Machine.quadKey g.die g.core g.slot
end Group

/-- The modes of a grid (06 R91). -/
def Grid.free (g : Grid) : Bool := g.launch.mode == 0
def Grid.det (g : Grid) : Bool := g.launch.mode == 1
def Grid.steered (g : Grid) : Bool := g.launch.mode == 2

/-- Keys of the groups that hold a slot or a context image. -/
def State.gids (s : State) : List Nat := s.groups.keys (fun g => g.status != .gone)
/-- Groups of a grid. -/
def State.gridGids (s : State) (grid : Nat) : List Nat :=
  s.groups.keys (fun g => g.status != .gone && g.grid == grid)
/-- Group `num` of a team. -/
def State.member (s : State) (grid team num : Nat) : Option Nat :=
  (s.groups.keys (fun g => g.status != .gone && g.grid == grid && g.team == team && g.num == num)).head?
/-- Groups in a slot of a core. -/
def State.resident (s : State) (ck : Nat) : List Nat :=
  s.groups.keys (fun g => (g.status == .running || g.status == .draining || g.status == .migrating) && g.coreKey == ck)

/-! ## Registers (07 R123 to R128) -/

/-- The highest vector register a budget gives, plus 1 (07 R124). -/
def vLimit (budget : Nat) : Nat := 32 + 16 * budget

namespace Group

def vreg (g : Group) (r : Nat) : Lanes := g.v.get {} r
def setV (g : Group) (r : Nat) (v : Lanes) : Group := { g with v := g.v.set {} r v }
/-- Lanes m of v(r) take the values of f. -/
def writeV (g : Group) (r : Nat) (m : Mask) (f : Nat → Word) : Group := g.setV r ((g.vreg r).merge m f)
def pred (g : Group) (p : Nat) : Mask := g.p.get 0 p
/-- Lanes m of p(r) take the values of x. -/
def writeP (g : Group) (r : Nat) (m x : Mask) : Group :=
  { g with p := g.p.set 0 r ((g.pred r).diff m ||| (x &&& m)) }
def sreg (g : Group) (r : Nat) : Word := g.s.get 0 r
def setS (g : Group) (r : Nat) (v : Word) : Group := { g with s := g.s.set 0 r v }
def qpred (g : Group) (r : Nat) : Bool := g.q.get false r
def setQ (g : Group) (r : Nat) (v : Bool) : Group := { g with q := g.q.set false r v }

/-- The 64-bit value of the pair r, r + 1 at a lane (14 R225, 08). -/
def v64 (g : Group) (r l : Nat) : Nat := ((g.vreg r).get l).toNat + 2 ^ 32 * ((g.vreg (r + 1)).get l).toNat
def s64 (g : Group) (r : Nat) : Nat := (g.sreg r).toNat + 2 ^ 32 * (g.sreg (r + 1)).toNat

/-- Writes the low `n` words of `f l` to registers r, r + 1, … at lanes m. -/
def writeVN (g : Group) (r : Nat) (m : Mask) (f : Nat → Nat) : Nat → Group
  | 0 => g
  | n + 1 => (g.writeVN r m f n).writeV (r + n) m (fun l => BitVec.ofNat 32 (f l / 2 ^ (32 * n)))

/-- Vector, lane-predicate, scalar and group-predicate registers with a pending bit. -/
def pendV (g : Group) : List Nat := g.longs.flatMap (fun x => x.vs.map (·.1))
def pendP (g : Group) : List Nat := g.longs.flatMap (fun x => x.ps.map (·.1))
def pendS (g : Group) : List Nat := g.longs.flatMap (fun x => x.ss.map (·.1))
def pendQ (g : Group) : List Nat := g.longs.flatMap (fun x => x.qs.map (·.1))
def anyPending (g : Group) : Bool :=
  g.longs.any (fun x => !(x.vs.isEmpty && x.ps.isEmpty && x.ss.isEmpty && x.qs.isEmpty))

/-- Writes a long result and clears its pending bits (07 R127, 14 R254). -/
def writeLong (g : Group) (x : Long) : Group :=
  let g := x.vs.foldl (fun g w => g.writeV w.1 w.2.1 w.2.2.get) g
  let g := x.ps.foldl (fun g w => g.writeP w.1 w.2.1 w.2.2) g
  let g := x.ss.foldl (fun g w => g.setS w.1 w.2) g
  let g := x.qs.foldl (fun g w => g.setQ w.1 w.2) g
  { g with longs := g.longs.filter (fun y => y.id != x.id),
           spec := { g.spec with fpflags := g.spec.fpflags ||| x.flags } }

/-- Lanes that have not executed EXIT. -/
def live (g : Group) : Mask := ~~~g.exited

end Group

/-! ## Subgroups (07 R119) -/

/-- Two subgroups that share a PC and neither of which is inside an instruction are one. -/
def Sub.joins (a b : Sub) : Bool :=
  a.pc == b.pc && a.handler == b.handler && a.micro.isNone && b.micro.isNone && a.stage == 0 && b.stage == 0
    && a.wait == .none && b.wait == .none && a.done == 0 && b.done == 0

def addSub : List Sub → Sub → List Sub
  | [], n => if n.lanes = 0 then [] else [n]
  | x :: t, n => if x.joins n then { x with lanes := x.lanes ||| n.lanes } :: t else x :: addSub t n

/-- Where the lanes of an issued instruction go: to a PC, to stay at it, or out of the subgroup. -/
structure Moves where
  jumps : List (Mask × Nat) := []
  stay : Mask := 0
  gone : Mask := 0
  deriving DecidableEq, Repr

namespace Group

/-- The subgroup that the current instruction was issued for. -/
def sub (g : Group) (c : Cur) : Option Sub := g.subs.find? (fun x => x.lanes == c.lanes)
def dropSub (g : Group) (c : Cur) : List Sub := g.subs.filter (fun x => x.lanes != c.lanes)
/-- Changes the current subgroup in place. -/
def modSub (g : Group) (c : Cur) (f : Sub → Sub) : Group :=
  { g with subs := g.subs.map (fun x => if x.lanes == c.lanes then f x else x) }

/-- Adds lanes at a PC. -/
def arriveAt (g : Group) (m : Mask) (pc : Nat) (handler : Bool) (now : Nat) : Group :=
  { g with subs := addSub g.subs { lanes := m, pc := pc, handler := handler, since := now } }

end Group

/-- The number of operations of the microprogram in a slot of the current group's core (17 R338). -/
def opsOf : List Nat → Nat → List (Nat × Nat × Bool)
  | [], _ => []
  | _, 0 => []
  | w :: t, n + 1 =>
    if hasExt w then
      match t with
      | e :: t' => (w, e, true) :: opsOf t' n
      | [] => [(w, 0, true)]
    else (w, 0, false) :: opsOf t n

def State.microOps (s : State) (slot : Nat) : List (Nat × Nat × Bool) :=
  match (s.core s.g.coreKey).store.get none slot with
  | some m => opsOf m.words 64
  | none => []

/-- The address after the instruction being issued. -/
def Cur.npc (c : Cur) : Nat := (c.pc + c.len) % 2 ^ 64

/-- The subgroup leaves the current instruction: lanes jump, stay, go, or advance (07 R119, 17 R340). -/
def State.leave (s : State) (mv : Moves) : State :=
  let c := s.cur
  let g := s.g
  let base : Group := { g with subs := g.dropSub c }
  let rest := (mv.jumps.foldl (fun m j => m.diff j.1) (c.lanes.diff mv.stay)).diff mv.gone
  let g1 := mv.jumps.foldl (fun g j => g.arriveAt j.1 j.2 c.handler s.clock) base
  let micro := match c.micro with
    | some (slot, k) => if k + 1 < (s.microOps slot).length then some (slot, k + 1) else none
    | none => none
  let g2 := match micro with
    | some m => if rest = 0 then g1 else
        { g1 with subs := g1.subs ++ [{ lanes := rest, pc := c.pc, micro := some m, maux := c.maux, handler := c.handler,
                                        since := s.clock : Sub }] }
    | none => g1.arriveAt rest c.npc c.handler s.clock
  let g3 := if mv.stay = 0 then g2 else
    { g2 with subs := g2.subs ++ [{ lanes := mv.stay, pc := c.pc, micro := c.micro, maux := c.maux, handler := c.handler,
                                    since := s.clock : Sub }] }
  s.setG { g3 with marker := g3.marker || (c.micro.isSome && micro.isNone && c.maux / 2 ^ 32 % 2 == 1) }

/-- The A-slice moves to a PC. -/
def State.aGoto (s : State) (pc : Nat) : State :=
  let g := s.g
  s.setG { g with a := { g.a with pc := pc, wait := .none } }

/-! ## Free values (log 10) -/

def State.drawWord (s : State) : Word × State := (Config.freeWord s.free, { s with free := s.free + 1 })
def State.drawNat (s : State) : Nat × State := (Config.freeNat s.free, { s with free := s.free + 1 })

/-! ## DCAUSE (06 R92, R93) -/

/-- Modes in which a code is recorded: free, deterministic, steered. -/
def causeMode (code : Nat) (mode : Nat) : Bool :=
  match code with
  | 1 | 3 | 4 | 5 | 6 => mode ≤ 1
  | 7 => mode ≤ 1
  | 0xA => mode == 0
  | 0xC | 0xD => mode == 2
  | _ => true

def findCause (d : FMap (Option Cause)) (code pc : Nat) : Option (Nat × Cause) :=
  (List.range 16).findSome? (fun n =>
    match d.get none n with
    | some c => if c.code == code && c.pc == pc then some (n, c) else none
    | none => none)

def freeCause (d : FMap (Option Cause)) : Option Nat := (List.range 16).find? (fun n => (d.get none n).isNone)

/-- Records an event in a grid's DCAUSE without looking at its mode. -/
def Grid.record (g : Grid) (code pc obj : Nat) (who : Option Group) : Grid :=
  let g := { g with seen := g.seen ||| 2 ^ code, flags := if code == 0xD then g.flags ||| 1 else g.flags }
  match findCause g.dcause code pc with
  | some (n, c) => { g with dcause := g.dcause.set none n (some { c with count := min (c.count + 1) (2 ^ 24 - 1) }) }
  | none =>
    match freeCause g.dcause with
    | some n =>
      let c : Cause :=
        match who with
        | some w => { code, pc, count := 1, name := w.spec.name, named := w.spec.name != 0, team := w.team,
                      grp := w.num, obj }
        | none => { code, pc, count := 1, name := 0, named := false, team := 0, grp := 0, obj }
      { g with dcause := g.dcause.set none n (some c) }
    | none => { g with missed := g.missed ||| 2 ^ code }

/-- Records an event of group `gid` at `pc`, in the modes listed for its code. -/
def State.cause (s : State) (gid code pc obj : Nat) : State :=
  let w := s.group gid
  let g := s.grid w.grid
  if causeMode code g.launch.mode && g.started then s.setGrid w.grid (g.record code pc obj (some w)) else s

/-- A grid whose Assay run has taken a snapshot does what the Assay engine cannot undo: 0x0D (06 R93, R114). -/
def State.cannotUndo (s : State) (gid pc obj : Nat) : State :=
  if (s.gridOf gid).snapped then s.cause gid 0xD pc obj else s

/-- Records an event whatever the grid's mode (0x07 for an NCTR read). -/
def State.causeAny (s : State) (gid code pc obj : Nat) : State :=
  let w := s.group gid
  s.setGrid w.grid ((s.grid w.grid).record code pc obj (some w))

/-- Records an event that no instruction of the grid caused. -/
def State.causeGrid (s : State) (grid code obj : Nat) : State :=
  let g := s.grid grid
  if causeMode code g.launch.mode && g.started then s.setGrid grid (g.record code 0 obj none) else s

end Sys2Proof.Machine
end

