-- ==== Sys2Proof/Machine/Float.lean ====
section
/-! DEFINITION. Number formats and rounding (14 R247 to R259): each operation computes the exact real value and
rounds it once. Values are Nats and Ints; nothing here depends on the machine's state. -/

namespace Sys2Proof.Fp

/-! ## Flags (R253) -/

def NX : Nat := 1
def UF : Nat := 2
def OF : Nat := 4
def DZ : Nat := 8
def NV : Nat := 16

/-! ## Formats (R247) -/

inductive Special where
  | ieee | e4m3 | e2m1 | e5m3
  deriving DecidableEq, Repr

structure Fmt where
  /-- Bits below the sign. -/
  w : Nat
  frac : Nat
  bias : Int
  spec : Special
  /-- The code of the largest finite magnitude, and the canonical NaN. -/
  max : Nat
  nan : Nat
  deriving DecidableEq, Repr

def f64 : Fmt := { w := 63, frac := 52, bias := 1023, spec := .ieee, max := 0x7FEFFFFFFFFFFFFF, nan := 0x7FF8000000000000 }
def f32 : Fmt := { w := 31, frac := 23, bias := 127, spec := .ieee, max := 0x7F7FFFFF, nan := 0x7FC00000 }
def f16 : Fmt := { w := 15, frac := 10, bias := 15, spec := .ieee, max := 0x7BFF, nan := 0x7E00 }
def bf16 : Fmt := { w := 15, frac := 7, bias := 127, spec := .ieee, max := 0x7F7F, nan := 0x7FC0 }
def e4m3 : Fmt := { w := 7, frac := 3, bias := 7, spec := .e4m3, max := 0x7E, nan := 0x7F }
def e5m2 : Fmt := { w := 7, frac := 2, bias := 15, spec := .ieee, max := 0x7B, nan := 0x7E }
def e2m1 : Fmt := { w := 3, frac := 1, bias := 1, spec := .e2m1, max := 7, nan := 0 }
def e5m3 : Fmt := { w := 8, frac := 3, bias := 15, spec := .e5m3, max := 0xFE, nan := 0xFF }

/-- The floating-point format of a type code (13 R236). -/
def Fmt.ofCode : Nat → Option Fmt
  | 3 => some f32
  | 9 => some f16
  | 10 => some bf16
  | 11 => some f64
  | 12 => some e4m3
  | 13 => some e5m2
  | 14 => some e2m1
  | 15 => some e5m3
  | _ => none

/-- The width in bits of a type code. -/
def widthOf : Nat → Nat
  | 4 | 7 | 8 | 12 | 13 | 15 => 8
  | 5 | 9 | 10 => 16
  | 6 | 11 => 64
  | 14 => 4
  | _ => 32

/-! ## Values -/

/-- The value of a code, or an exact result: (−1)^neg × (m + δ) × 2^e, where 0 < δ < 1 when `more`. -/
inductive Num where
  | nan (signalling : Bool)
  | inf (neg : Bool)
  | fin (neg : Bool) (m : Nat) (e : Int) (more : Bool)
  deriving DecidableEq, Repr

def zero (neg : Bool) : Num := .fin neg 0 0 false

/-- The value of a code (R248). -/
def decode (t : Fmt) (c : Nat) : Num :=
  let neg := t.spec != .e5m3 && c / 2 ^ t.w % 2 == 1
  let mag := c % 2 ^ t.w
  let e := mag / 2 ^ t.frac
  let f := mag % 2 ^ t.frac
  let top := 2 ^ (t.w - t.frac) - 1
  match t.spec with
  | .ieee =>
    if e == top then (if f == 0 then .inf neg else .nan (f / 2 ^ (t.frac - 1) == 0))
    else if e == 0 then .fin neg f (1 - t.bias - t.frac) false
    else .fin neg (2 ^ t.frac + f) (e - t.bias - t.frac) false
  | _ =>
    if t.spec != .e2m1 && mag == 2 ^ t.w - 1 then .nan false
    else if e == 0 then .fin neg f (1 - t.bias - t.frac) false
    else .fin neg (2 ^ t.frac + f) (e - t.bias - t.frac) false

def Num.isNan : Num → Bool
  | .nan _ => true
  | _ => false
def Num.isSnan : Num → Bool
  | .nan s => s
  | _ => false
def Num.neg : Num → Num
  | .nan s => .nan s
  | .inf n => .inf (!n)
  | .fin n m e k => .fin (!n) m e k
def Num.abs : Num → Num
  | .nan s => .nan s
  | .inf _ => .inf false
  | .fin _ m e k => .fin false m e k

/-! ## Rounding (R250, R256) -/

/-- Whether a remainder rounds the magnitude up: `r` out of `d` (0 < d), and more behind it. Modes 0 RN, 1 RZ,
2 RU, 3 RD. -/
def roundsUp (mode : Nat) (neg odd : Bool) (r d : Nat) (more : Bool) : Bool :=
  match mode with
  | 0 => d < 2 * r || (2 * r == d && (more || odd))
  | 2 => !neg && (r != 0 || more)
  | 3 => neg && (r != 0 || more)
  | _ => false

/-- (m + δ) × 2^e in units of 2^q: the rounded integer, and whether it is inexact. -/
def toUnits (mode : Nat) (neg : Bool) (m : Nat) (e : Int) (more : Bool) (q : Int) : Nat × Bool :=
  if q ≤ e then
    let n := m * 2 ^ (e - q).toNat
    (if roundsUp mode neg false 0 1 more then n + 1 else n, more)
  else
    let d := 2 ^ (q - e).toNat
    let n := m / d
    let r := m % d
    (if roundsUp mode neg (n % 2 == 1) r d more then n + 1 else n, r != 0 || more)

/-- The sign bit of a format. -/
def signBit (t : Fmt) (neg : Bool) : Nat := if neg && t.spec != .e5m3 then 2 ^ t.w else 0

/-- The code of ∞; a format without one has none and this is not used. -/
def infCode (t : Fmt) : Nat := t.max + 1

/-- A finite value rounded into a format: code and flags. -/
def roundFin (t : Fmt) (mode : Nat) (sat : Bool) (neg : Bool) (m : Nat) (e : Int) (more : Bool) : Nat × Nat :=
  if m == 0 && !more then (signBit t neg, 0)
  else if t.spec == .e5m3 && neg then (0, NV)
  else
    let E : Int := e + m.log2
    let qn := E - t.frac                  -- the quantum of unbounded exponent
    let qmin := 1 - t.bias - t.frac       -- the quantum of subnormals
    let q := if qn < qmin then qmin else qn
    let (n, inex) := toUnits mode neg m e more q
    let code := n + (q - qmin).toNat * 2 ^ t.frac
    let s := signBit t neg
    if code > t.max then
      let toMax := t.spec != .ieee || (t == e5m2 && sat) || mode == 1 || (mode == 2 && neg) || (mode == 3 && !neg)
      (s + (if toMax then t.max else infCode t), OF ||| NX)
    else
      let (n', _) := toUnits mode neg m e more qn
      let tiny := qn < qmin && (qn + 1 < qmin || n' < 2 ^ (t.frac + 1))   -- tiny after rounding (R253)
      (s + code, (if inex then NX else 0) ||| (if inex && tiny then UF else 0))

/-- A value rounded into a format (R250, R251, R256): code and flags. -/
def round (t : Fmt) (mode : Nat) (sat : Bool) : Num → Nat × Nat
  | .nan s =>
    if t.spec == .e2m1 then (0, NV) else (t.nan, if s then NV else 0)
  | .inf n =>
    match t.spec with
    | .ieee => if t == e5m2 && sat then (signBit t n + t.max, NV) else (signBit t n + infCode t, 0)
    | .e5m3 => if n then (0, NV) else (t.max, NV)
    | _ => (signBit t n + t.max, NV)
  | .fin n m e more => roundFin t mode sat n m e more

/-! ## Exact arithmetic -/

/-- m × 2^e in units of 2^q, q ≤ e. -/
def scaled (neg : Bool) (m : Nat) (e q : Int) : Int :=
  let v : Int := m * 2 ^ (e - q).toNat
  if neg then -v else v

/-- The exact sum of finite values; a zero sum is +0, or −0 under RD, unless every term is a zero of one sign. -/
def sumFin (mode : Nat) (l : List (Bool × Nat × Int)) : Num :=
  let q := l.foldl (fun q x => min q x.2.2) 0
  let t := l.foldl (fun (t : Int) x => t + scaled x.1 x.2.1 x.2.2 q) 0
  if t = 0 then
    match l with
    | [] => zero false
    | x :: r =>
      if x.2.1 == 0 && r.all (fun y => y.2.1 == 0 && y.1 == x.1) then zero x.1 else zero (mode == 3)
  else .fin (t < 0) t.natAbs q false

/-- The exact sum in the real extension: value, and NV if the sum is invalid or a term signals (R251, R261). -/
def sum (mode : Nat) (l : List Num) : Num × Nat :=
  let nv := if l.any Num.isSnan then NV else 0
  if l.any Num.isNan then (.nan false, nv)
  else
    let pos := l.any (· == .inf false)
    let neg := l.any (· == .inf true)
    if pos && neg then (.nan false, NV)
    else if pos then (.inf false, 0)
    else if neg then (.inf true, 0)
    else (sumFin mode (l.filterMap (fun | .fin n m e _ => some (n, m, e) | _ => none)), 0)

/-- The exact product and its flag. -/
def mul (a b : Num) : Num × Nat :=
  match a, b with
  | .nan s, y => (.nan false, if s || y.isSnan then NV else 0)
  | x, .nan s => (.nan false, if s || x.isSnan then NV else 0)
  | .inf n, .inf k => (.inf (n != k), 0)
  | .inf n, .fin k m _ _ => if m == 0 then (.nan false, NV) else (.inf (n != k), 0)
  | .fin k m _ _, .inf n => if m == 0 then (.nan false, NV) else (.inf (n != k), 0)
  | .fin n m e _, .fin k m' e' _ => (.fin (n != k) (m * m') (e + e') false, 0)

/-- The exact quotient, to `p` bits and more (R257); division of a nonzero by zero gives ∞ with DZ. -/
def quo (p : Nat) (a b : Num) : Num × Nat :=
  match a, b with
  | .nan s, y => (.nan false, if s || y.isSnan then NV else 0)
  | x, .nan s => (.nan false, if s || x.isSnan then NV else 0)
  | .inf _, .inf _ => (.nan false, NV)
  | .inf n, .fin k _ _ _ => (.inf (n != k), 0)
  | .fin k _ _ _, .inf n => (zero (n != k), 0)
  | .fin n m e _, .fin k m' e' _ =>
    if m' == 0 then (if m == 0 then (.nan false, NV) else (.inf (n != k), DZ))
    else if m == 0 then (zero (n != k), 0)
    else
      let sh := p + m'.log2 + 2
      let x := m * 2 ^ sh
      (.fin (n != k) (x / m') (e - e' - sh) (x % m' != 0), 0)

/-- The integer square root, bit by bit from 2^k. -/
def isqrt (n : Nat) : Nat → Nat → Nat
  | 0, r => r
  | k + 1, r => let r' := r + 2 ^ k; if r' * r' ≤ n then isqrt n k r' else isqrt n k r

def sqrtNat (n : Nat) : Nat := isqrt n (n.log2 / 2 + 1) 0

/-- √a to p bits and more (R277). -/
def sqrt (p : Nat) : Num → Num × Nat
  | .nan s => (.nan false, if s then NV else 0)
  | .inf n => if n then (.nan false, NV) else (.inf false, 0)
  | .fin n m e _ =>
    if m == 0 then (zero n, 0)
    else if n then (.nan false, NV)
    else
      let odd := if e % 2 == 0 then 0 else 1
      let x := m * 2 ^ (2 * (p + 2) + odd)
      let r := sqrtNat x
      (.fin false r ((e - odd) / 2 - (p + 2)) (r * r != x), 0)

/-- 1 ÷ √a to p bits and more. -/
def rsqrt (p : Nat) : Num → Num × Nat
  | .nan s => (.nan false, if s then NV else 0)
  | .inf n => if n then (.nan false, NV) else (zero false, 0)
  | .fin n m e _ =>
    if m == 0 then (.inf n, DZ)
    else if n then (.nan false, NV)
    else
      let odd : Nat := if e % 2 == 0 then 0 else 1
      let m' := m * 2 ^ odd                    -- a = m' × 2^(e − odd), an even exponent
      let k := p + m'.log2 + 2
      let r := sqrtNat (2 ^ (2 * k) / m')
      (.fin false r (-((e - odd) / 2) - k) (r * r * m' != 2 ^ (2 * k)), 0)

/-! The two transcendental functions are computed to 200 bits, far past the 24 that are kept; their values are
irrational unless exact, so no tie occurs (DEDUCED, log 17). -/

def prec : Nat := 200

/-- Σ 2^(prec + 1) ÷ ((2k + 1) × 3^(2k + 1)) = 2^prec × ln 2. -/
def ln2Sum : Nat → Nat
  | 0 => 0
  | k + 1 => ln2Sum k + 2 ^ (prec + 1) / ((2 * k + 1) * 3 ^ (2 * k + 1))
def ln2 : Nat := ln2Sum 70

/-- Σ x^k ÷ k! for a fixed-point x: term and index go on for `n` terms. -/
def expSum (x : Nat) : Nat → Nat → Nat → Nat
  | 0, _, _ => 0
  | n + 1, k, t => t + expSum x n (k + 1) (t * x / 2 ^ prec / (k + 1))

/-- 2^a (R277). -/
def exp2 : Num → Num × Nat
  | .nan s => (.nan false, if s then NV else 0)
  | .inf n => (if n then zero false else .inf false, 0)
  | .fin n m e _ =>
    if m == 0 then (.fin false 1 0 false, 0)
    else
      let E := e + m.log2
      if 11 ≤ E then (.fin false 1 (if n then -2000 else 2000) true, 0)
      else if E < -60 then
        (if n then .fin false (2 ^ 60 - 1) (-60) true else .fin false (2 ^ 60) (-60) true, 0)
      else
        let x := scaled n m (e + 300) 0           -- a × 2^300, exact since e ≥ −60 − 52
        let i := x.fdiv (2 ^ 300)
        let f := (x - i * 2 ^ 300).toNat
        if f == 0 then (.fin false 1 i false, 0)
        else (.fin false (expSum (f * ln2 / 2 ^ 300) 60 0 (2 ^ prec)) (i - prec) true, 0)

/-- `n` binary digits of log2 y, for y × 2^prec in [1, 2). -/
def logDigits : Nat → Nat → Nat → Nat
  | 0, _, acc => acc
  | n + 1, y, acc =>
    let z := y * y / 2 ^ prec
    if 2 ^ (prec + 1) ≤ z then logDigits n (z / 2) (2 * acc + 1) else logDigits n z (2 * acc)

/-- log2 a (R277). -/
def log2 : Num → Num × Nat
  | .nan s => (.nan false, if s then NV else 0)
  | .inf n => if n then (.nan false, NV) else (.inf false, 0)
  | .fin n m e _ =>
    if m == 0 then (.inf true, DZ)
    else if n then (.nan false, NV)
    else
      let k := m.log2
      let i : Int := e + k
      if m == 2 ^ k then (if i = 0 then zero false else .fin (i < 0) i.natAbs 0 false, 0)
      else
        let v : Int := i * 2 ^ 90 + logDigits 90 (m * 2 ^ prec / 2 ^ k) 0
        if v < 0 then (.fin true (v.natAbs - 1) (-90) true, 0) else (.fin false v.toNat (-90) true, 0)

/-! ## Comparison and minimum (R267, R278) -/

/-- A finite value or infinity in units that order all values: none for a NaN. -/
def cmpKey (q : Int) : Num → Option Int
  | .nan _ => none
  | .inf n => some (if n then -(2 ^ 5000) else 2 ^ 5000)
  | .fin n m e _ => some (scaled n m e q)

def expOf : Num → Int
  | .fin _ _ e _ => e
  | _ => 0

/-- Order of two numbers: none when either is NaN. Zeros compare equal. -/
def compare (a b : Num) : Option Ordering :=
  let q := min (expOf a) (expOf b)
  match cmpKey q a, cmpKey q b with
  | some x, some y => some (if x < y then .lt else if x = y then .eq else .gt)
  | _, _ => none

/-- The condition code of R267 on two floating values, and NV. -/
def cond (c : Nat) (a b : Num) : Bool × Nat :=
  let nv := if a.isSnan || b.isSnan || ((2 ≤ c && c ≤ 5) && (a.isNan || b.isNan)) then NV else 0
  let r := match compare a b with
    | none => c == 1 || c == 7
    | some o =>
      match c with
      | 0 => o == .eq
      | 1 => o != .eq
      | 2 => o == .lt
      | 3 => o != .gt
      | 4 => o == .gt
      | 5 => o != .lt
      | 6 => true
      | _ => false
  (r, nv)

def Num.isNeg : Num → Bool
  | .inf n => n
  | .fin n _ _ _ => n
  | .nan _ => false

/-- Whether a number is less than another, −0 below +0. -/
def less (a b : Num) : Bool :=
  match compare a b with
  | some .lt => true
  | some .eq => a.isNeg && !b.isNeg
  | _ => false

/-- FMIN and FMAX on codes whose modifiers have been applied (R278). -/
def minMax (t : Fmt) (max : Bool) (a b : Nat) : Nat × Nat :=
  let x := decode t a
  let y := decode t b
  let nv := if x.isSnan || y.isSnan then NV else 0
  let r := if x.isNan then (if y.isNan then t.nan else b)
    else if y.isNan then a
    else if max then (if less x y then b else a) else (if less y x then b else a)
  (r, nv)

/-! ## Integers and conversion (R255, R256, R282) -/

/-- The range of an integer type: least and greatest. -/
def intRange : Nat → Option (Int × Int)
  | 1 => some (-(2 ^ 31), 2 ^ 31 - 1)
  | 2 => some (0, 2 ^ 32 - 1)
  | 7 => some (-128, 127)
  | 8 => some (0, 255)
  | _ => none

/-- The value of an integer code. -/
def intOf (ty c : Nat) : Int :=
  let w := widthOf ty
  let v := c % 2 ^ w
  if (ty == 1 || ty == 7) && 2 ^ (w - 1) ≤ v then (v : Int) - 2 ^ w else v

def wrap (w : Nat) (x : Int) : Nat := (x % (2 ^ w : Int)).toNat
def clamp (x lo hi : Int) : Int := if x < lo then lo else if hi < x then hi else x

def numOfInt (x : Int) : Num := .fin (x < 0) x.natAbs 0 false

/-- A floating value to an integer type: rounded, then saturated with NV. -/
def toInt (ty mode : Nat) (x : Num) : Nat × Nat :=
  let w := widthOf ty
  let (lo, hi) := (intRange ty).getD (0, 0)
  match x with
  | .nan _ => (0, NV)
  | .inf n => (wrap w (if n then lo else hi), NV)
  | .fin n m e more =>
    let (k, inex) := toUnits mode n m e more 0
    let v : Int := if n then -k else k
    if v < lo then (wrap w lo, NV) else if hi < v then (wrap w hi, NV)
    else (wrap w v, if inex then NX else 0)

/-- CVT from type `src` to `dst`: code and flags (R282). -/
def convert (dst src mode : Nat) (sat : Bool) (c : Nat) : Nat × Nat :=
  match Fmt.ofCode dst, Fmt.ofCode src with
  | some d, some s =>
    let x := decode s (c % 2 ^ widthOf src)
    if dst == src then
      (if x.isNan then (d.nan, if x.isSnan then NV else 0) else (c % 2 ^ widthOf src, 0))
    else
      let r := round d mode sat x
      (r.1, r.2 ||| (if x.isSnan then NV else 0))
  | some d, none => round d mode sat (numOfInt (intOf src c))
  | none, some s => toInt dst mode (decode s (c % 2 ^ widthOf src))
  | none, none =>
    let x := intOf src c
    let (lo, hi) := (intRange dst).getD (0, 0)
    (wrap (widthOf dst) (if sat then clamp x lo hi else x), 0)

/-! ## Quantisation (R257 to R259) -/

/-- QNT: x ÷ s into type `fmt`. -/
def quant (fmt mode : Nat) (sat : Bool) (x s : Num) : Nat × Nat :=
  let into (v : Num) : Nat × Nat :=
    match Fmt.ofCode fmt with
    | some t => round t mode sat v
    | none => toInt fmt mode v
  let snan := if x.isSnan || s.isSnan then NV else 0
  match s with
  | .nan _ => (0, NV)
  | .fin _ 0 _ _ => (0, NV)
  | .inf _ =>
    match x with
    | .inf _ => let r := into (.nan false); (r.1, r.2 ||| NV)
    | _ => let r := into (quo 64 x s).1; (r.1, r.2 ||| snan)
  | _ => let r := into (quo 64 x s).1; (r.1, r.2 ||| snan)

/-- DQNT: x × s into .f32. -/
def dequant (mode : Nat) (x s : Num) : Nat × Nat :=
  let p := mul x s
  let r := round f32 mode false p.1
  (r.1, r.2 ||| p.2)

/-- The largest element of the format a scale serves (R259). -/
def fmtMax : Nat → Nat
  | 12 => 448
  | 13 => 57344
  | 14 => 6
  | _ => 127

/-- The smallest E5M3 code whose value is at least x, searching up from code c. -/
def leastCode (x : Num) : Nat → Nat → Nat
  | 0, c => c
  | n + 1, c => if compare (decode e5m3 c) x == some .lt then leastCode x n (c + 1) else c

/-- SCLE over the magnitudes of a block: code and flags. -/
def scale (fmt : Nat) (l : List Num) : Nat × Nat :=
  if l.any Num.isNan then (0xFF, NV)
  else if l.any (fun x => x.abs == .inf false) then (0xFE, NV)
  else
    let big := l.foldl (fun a x => if less a x.abs then x.abs else a) (zero false)
    match big with
    | .fin _ 0 _ _ => (0x78, 0)
    | .fin _ m e _ =>
      -- amax ÷ fmt_max against a code: compare amax with code × fmt_max, both exact
      let q := (quo 64 (.fin false m e false) (numOfInt (fmtMax fmt))).1
      let up : Num := match q with
        | .fin n m e true => .fin n (m + 1) e false    -- a value just above the quotient orders as the quotient does
        | y => y
      if compare (decode e5m3 0xFE) up == some .lt then (0xFE, OF ||| NX)
      else (leastCode up 254 0, 0)
    | _ => (0xFF, NV)

end Sys2Proof.Fp
end

