-- ==== Sys2Proof/Machine/Flags.lean ====
section
/-! DEFINITION. Flags and conditions: the sticky floating-point flags (14 R253, R254), the compare conditions
(15 R267) and the predicate look-up table (15 R276). The integer family sets no flag (R269). -/

namespace Sys2Proof.Machine
open Sys2Proof

/-- ORs exceptions into the group's fpflags (R253). -/
def Group.orFlags (g : Group) (f : Nat) : Group :=
  { g with spec := { g.spec with fpflags := g.spec.fpflags ||| f } }

/-- The flags of the active lanes, ORed. -/
def orLanes (m : Mask) (f : Nat → Nat) : Nat := m.list.foldl (fun a l => a ||| f l) 0

/-- A condition of R267 on two integers. -/
def intCond (c : Nat) (a b : Int) : Bool :=
  match c with
  | 0 => a == b
  | 1 => a != b
  | 2 => a < b
  | 3 => a ≤ b
  | 4 => b < a
  | _ => b ≤ a

/-- A 32-bit operand read as its type, .i32 signed and .n32 unsigned. -/
def intVal (ty : BitVec 4) (v : Word) : Int := if ty == 1 then v.toInt else v.toNat

/-- Bit 2X + Y of a look-up table (R276). -/
def lut (k : Nat) (x y : Bool) : Bool := k / 2 ^ (2 * x.toNat + y.toNat) % 2 == 1

/-- fpflags as software reads it: bits 4:0. -/
def fpBits (v : Nat) : Nat := v % 32

end Sys2Proof.Machine
end

