-- ==== Sys2Proof/Machine/Operands.lean ====
section
/-! DEFINITION. The operand forms: sources and immediates of the lane arithmetic (15 R263, R265), scalar sources
(17 R315), effective addresses (16 R289), and the registers that an instruction reads and writes. -/

namespace Sys2Proof.Machine
open Sys2Proof

/-- The registers that an instruction reads and writes, by class (07 R124, R128, R144). -/
structure Foot where
  vr : List Nat := []
  /-- Registers of operand a, if it is a vector register: the first of `vr`; operand b's follow. -/
  na : Nat := 1
  vw : List Nat := []
  pr : List Nat := []
  pw : List Nat := []
  sr : List Nat := []
  sw : List Nat := []
  qr : List Nat := []
  qw : List Nat := []
  /-- Special registers. -/
  xr : List Nat := []
  xw : List Nat := []
  deriving DecidableEq, Repr

/-- n consecutive registers from r. -/
def regs (r : BitVec 6) (n : Nat) : List Nat := (List.range n).map (r.toNat + ·)
/-- The predicate registers a field names; 7 names none. -/
def preds (p : BitVec 3) : List Nat := if p = 7 then [] else [p.toNat]

namespace Group

/-- One lane of V(r). -/
def src (g : Group) (r : BitVec 6) (l : Nat) : Word := (g.vreg r.toNat).get l
/-- A 64-bit value from the pair at r. -/
def src64 (g : Group) (r : BitVec 6) (l : Nat) : Nat := g.v64 r.toNat l

/-- Source b of an integer opcode: V(b), or imm12 sign-extended (R263). -/
def intB (g : Group) (w : LA) (x : LXA) (l : Nat) : Word :=
  if x.c = 1 then x.imm.signExtend 32 else g.src w.b l

/-- Whether the lane's guard holds: p0 to p6, or always (13 R237). -/
def guardL (g : Group) (k : BitVec 3) : Mask := if k = 7 then Mask.full else g.pred k.toNat
def guardG (g : Group) (k : BitVec 3) : Bool := k = 7 || g.qpred k.toNat

end Group

/-! ## Floating operands (R263, R265) -/

/-- abs, then negation, on a code of format t. -/
def modify (t : Fp.Fmt) (abs neg : Bool) (c : Nat) : Nat :=
  let c := if abs then c % 2 ^ t.w else c
  if neg then (if c / 2 ^ t.w % 2 == 1 then c - 2 ^ t.w else c + 2 ^ t.w) else c

/-- imm12 converted exactly to the operand type. -/
def immF (t : Fp.Fmt) (imm : BitVec 12) : Nat := (Fp.round t 0 false (Fp.numOfInt imm.toInt)).1

/-- The code that V(r) holds at a lane, for a 32-bit or a 64-bit format. -/
def Group.codeF (g : Group) (t : Fp.Fmt) (r : BitVec 6) (l : Nat) : Nat :=
  if t.w == 63 then g.src64 r l else (g.src r l).toNat

def srcFA (t : Fp.Fmt) (g : Group) (w : LA) (x : LXA) (l : Nat) : Nat := modify t x.abs x.na (g.codeF t w.a l)
def srcFB (t : Fp.Fmt) (g : Group) (w : LA) (x : LXA) (l : Nat) : Nat :=
  modify t x.abs x.nb (if x.c = 1 then immF t x.imm else g.codeF t w.b l)
/-- Source b of a three-source opcode, whose c field names V(c). -/
def srcFB3 (t : Fp.Fmt) (g : Group) (w : LA) (x : LXA) (l : Nat) : Nat := modify t x.abs x.nb (g.codeF t w.b l)
def srcFC (t : Fp.Fmt) (g : Group) (x : LXA) (l : Nat) : Nat := modify t x.abs x.nc (g.codeF t x.c l)

/-! ## Footprints of the arithmetic forms -/

/-- Sources of a two-source opcode with n registers an operand. -/
def footAB (n : Nat) (w : LA) (x : LXA) : List Nat := regs w.a n ++ (if x.c = 1 then [] else regs w.b n)
def footABC (n : Nat) (w : LA) (x : LXA) : List Nat := regs w.a n ++ regs w.b n ++ regs x.c n

/-! ## Scalar operands (17 R315) -/

/-- A scalar register field: s0–s63, or a0–a15 in an A-slice (07 R132). -/
def State.sread (s : State) (r : Nat) : Word :=
  if s.cur.aslice then s.g.a.regs.get 0 r else s.g.sreg r
def State.swrite (s : State) (r : Nat) (v : Word) : State :=
  let g := s.g
  if s.cur.aslice then s.setG { g with a := { g.a with regs := g.a.regs.set 0 r v } } else s.setG (g.setS r v)
def State.sread64 (s : State) (r : Nat) : Nat := (s.sread r).toNat + 2 ^ 32 * (s.sread (r + 1)).toNat
def State.swrite64 (s : State) (r v : Nat) : State :=
  (s.swrite r (BitVec.ofNat 32 v)).swrite (r + 1) (BitVec.ofNat 32 (v / 2 ^ 32))

/-- Source b: imm7 sign-extended, or S(b). -/
def State.gb (s : State) (w : GA) : Word :=
  if w.i then w.x.signExtend 32 else s.sread (w.x.toNat % 64)
def gbRegs (w : GA) : List Nat := if w.i then [] else [w.x.toNat % 64]

/-! ## Effective addresses (R289) -/

/-- Adds a signed 16-bit offset to a 64-bit address, mod 2^64. -/
def ea64 (base : Nat) (off : BitVec 16) : Nat := (((base : Int) + off.toInt) % (2 ^ 64 : Int)).toNat
/-- A window offset, signed. -/
def eaWin (base : Word) (off : BitVec 16) : Int := (base.toNat : Int) + off.toInt

/-- The bytes of an access by its width field. -/
def accessBytes (width : BitVec 3) : Nat :=
  match width.toNat with
  | 0 => 1
  | 1 => 2
  | 2 => 4
  | 3 => 8
  | _ => 16
/-- Registers that a data operand occupies. -/
def accessRegs (width : BitVec 3) : Nat :=
  match width.toNat with
  | 3 => 2
  | 4 => 4
  | _ => 1

/-- A loaded value extended to its registers: b8 and b16 zero- or sign-extend (R288). -/
def extend (width : BitVec 3) (sgn : Bool) (v : Nat) : Nat :=
  match width.toNat with
  | 0 => if sgn && 128 ≤ v then v + (2 ^ 32 - 256) else v
  | 1 => if sgn && 32768 ≤ v then v + (2 ^ 32 - 65536) else v
  | _ => v

end Sys2Proof.Machine
end

