-- ==== Sys2Proof/Machine/Alu.lean ====
section
/-! DEFINITION. What the lane arithmetic computes at one lane (15 R268 to R287) and across lanes (16 R301 to R304),
as functions of the operand values: nothing here reads or writes the machine. -/

namespace Sys2Proof.Machine.Alu
open Sys2Proof Sys2Proof.Machine

/-! ## Integers (R269 to R271) -/

/-- The exact result, clamped under .sat, mod 2^32. -/
def fit (ty : BitVec 4) (sat : Bool) (x : Int) : Word :=
  let (lo, hi) := (Fp.intRange ty.toNat).getD (0, 0)
  BitVec.ofInt 32 (if sat then Fp.clamp x lo hi else x)

def imulh (ty : BitVec 4) (a b : Word) : Word := BitVec.ofInt 32 ((intVal ty a * intVal ty b).fdiv (2 ^ 32))

/-- LEA: base + index × scale, mod 2^64 (R270). -/
def lea (ty : BitVec 4) (base : Nat) (idx : Word) : Nat :=
  let sc : Int := match ty.toNat with
    | 4 => 1
    | 5 => 2
    | 0 => 4
    | _ => 8
  (((base : Int) + idx.toInt * sc) % (2 ^ 64 : Int)).toNat

/-! ## Logic, shifts, bit fields (R272 to R275) -/

def shl (a b : Word) : Word := if b.toNat < 32 then a <<< b.toNat else 0
def shr (a b : Word) : Word := if b.toNat < 32 then a >>> b.toNat else 0
def sar (a b : Word) : Word := a.sshiftRight (min b.toNat 31)
def rotl (a b : Word) : Word := a.rotateLeft (b.toNat % 32)
def popc (a : Word) : Word := BitVec.ofNat 32 ((List.range 32).filter a.getLsbD).length
def clz (a : Word) : Word := BitVec.ofNat 32 (if a = 0 then 32 else 31 - a.toNat.log2)
def brev (a : Word) : Word := BitVec.ofNat 32 ((List.range 32).foldl (fun r i => r * 2 + (a.getLsbD i).toNat) 0)

/-- Position and length of a bit field. -/
def field (k : Word) : Nat × Nat := (k.toNat % 32, min (k.toNat / 32 % 64) 32)

def bfe (ty : BitVec 4) (a k : Word) : Word :=
  let (pos, len) := field k
  if len = 0 then 0
  else if ty == 1 then
    let f := (a.sshiftRight pos).toNat % 2 ^ len
    if 2 ^ (len - 1) ≤ f then BitVec.ofNat 32 (f + 2 ^ 32 - 2 ^ len) else BitVec.ofNat 32 f
  else BitVec.ofNat 32 (a.toNat / 2 ^ pos % 2 ^ len)

def bfi (a k c : Word) : Word :=
  let (pos, len) := field k
  let top := min (pos + len) 32
  if top ≤ pos then c else BitVec.ofNat 32 (setBits c.toNat (top - 1) pos a.toNat)

def prmt (a b c : Word) : Word :=
  let byte (n : Nat) : Nat := (if n < 4 then a.toNat / 256 ^ n else b.toNat / 256 ^ (n - 4)) % 256
  let out (i : Nat) : Nat :=
    let n := c.toNat / 16 ^ i % 16
    let v := byte (n % 8)
    if n / 8 == 1 then (if 128 ≤ v then 255 else 0) else v
  BitVec.ofNat 32 (out 0 + out 1 * 2 ^ 8 + out 2 * 2 ^ 16 + out 3 * 2 ^ 24)

def selBits (a b c : Word) : Word := (a &&& c) ||| (b &&& ~~~c)

/-! ## Floating point (R277 to R281); each answers the code and its flags -/

def rnd (t : Fp.Fmt) (mode : BitVec 2) (r : Fp.Num × Nat) : Nat × Nat :=
  let q := Fp.round t mode.toNat false r.1
  (q.1, q.2 ||| r.2)

def add (t : Fp.Fmt) (mode : BitVec 2) (a b : Nat) : Nat × Nat :=
  rnd t mode (Fp.sum mode.toNat [Fp.decode t a, Fp.decode t b])
def sub (t : Fp.Fmt) (mode : BitVec 2) (a b : Nat) : Nat × Nat :=
  rnd t mode (Fp.sum mode.toNat [Fp.decode t a, (Fp.decode t b).neg])
def mul (t : Fp.Fmt) (mode : BitVec 2) (a b : Nat) : Nat × Nat := rnd t mode (Fp.mul (Fp.decode t a) (Fp.decode t b))
/-- a × b + c rounded once; an invalid product sets NV even when c is a NaN (R251). -/
def fma (t : Fp.Fmt) (mode : BitVec 2) (a b c : Nat) : Nat × Nat :=
  let p := Fp.mul (Fp.decode t a) (Fp.decode t b)
  let r := Fp.sum mode.toNat [p.1, Fp.decode t c]
  rnd t mode (r.1, r.2 ||| p.2)
def rcp (t : Fp.Fmt) (mode : BitVec 2) (a : Nat) : Nat × Nat :=
  rnd t mode (Fp.quo (t.frac + 3) (Fp.numOfInt 1) (Fp.decode t a))
def sqrt (t : Fp.Fmt) (mode : BitVec 2) (a : Nat) : Nat × Nat := rnd t mode (Fp.sqrt (t.frac + 3) (Fp.decode t a))
def rsq (t : Fp.Fmt) (mode : BitVec 2) (a : Nat) : Nat × Nat := rnd t mode (Fp.rsqrt (t.frac + 3) (Fp.decode t a))
def ex2 (t : Fp.Fmt) (mode : BitVec 2) (a : Nat) : Nat × Nat := rnd t mode (Fp.exp2 (Fp.decode t a))
def lg2 (t : Fp.Fmt) (mode : BitVec 2) (a : Nat) : Nat × Nat := rnd t mode (Fp.log2 (Fp.decode t a))

/-- FCLASS: one bit of ten (R279). -/
def classOf (t : Fp.Fmt) (c : Nat) : Nat :=
  match Fp.decode t c with
  | .nan s => if s then 2 ^ 8 else 2 ^ 9
  | .inf n => if n then 2 ^ 0 else 2 ^ 7
  | .fin n m _ _ =>
    if m == 0 then (if n then 2 ^ 3 else 2 ^ 4)
    else if m < 2 ^ t.frac then (if n then 2 ^ 2 else 2 ^ 5)
    else if n then 2 ^ 1 else 2 ^ 6

/-- The packed type's format. -/
def packed (ty : BitVec 4) : Fp.Fmt := if ty == 9 then Fp.f16 else Fp.bf16

/-- An operation on each half of a register; the flags are ORed (R281). -/
def halves (f : Nat → Nat × Nat) : Nat × Nat :=
  let lo := f 0
  let hi := f 1
  (lo.1 % 2 ^ 16 + hi.1 % 2 ^ 16 * 2 ^ 16, lo.2 ||| hi.2)

/-- Half k of a source, its modifiers applied. -/
def half (t : Fp.Fmt) (abs neg : Bool) (v : Word) (k : Nat) : Nat := modify t abs neg (v.toNat / 2 ^ (16 * k) % 2 ^ 16)

/-! ## Conversions (R283 to R287) -/

/-- The value that a code of type `ty` has, an integer or a floating-point format. -/
def valueOf (ty : Nat) (c : Nat) : Fp.Num :=
  match Fp.Fmt.ofCode ty with
  | some t => Fp.decode t (c % 2 ^ Fp.widthOf ty)
  | none => Fp.numOfInt (Fp.intOf ty c)

def pack (dst src mode : Nat) (sat : Bool) (old a b : Word) : Nat × Nat :=
  let w := Fp.widthOf dst
  let ca := Fp.convert dst src mode sat a.toNat
  let cb := Fp.convert dst src mode sat b.toNat
  (old.toNat / 2 ^ (2 * w) ||| ca.1 * 2 ^ (32 - 2 * w) ||| cb.1 * 2 ^ (32 - w), ca.2 ||| cb.2)

def unpk (dst src mode : Nat) (sat : Bool) (a b : Word) : Nat × Nat :=
  let w := Fp.widthOf src
  Fp.convert dst src mode sat (a.toNat / 2 ^ (w * (b.toNat % (32 / w))) % 2 ^ w)

/-! ## Across lanes (16 R301 to R304): `m` is the mask of participating lanes -/

/-- SHFL at one lane: the value and whether the source lane participates. -/
def shfl (m : Mask) (a : Nat → Word) (src l : Nat) : Word × Bool :=
  if m.has (src % 128) then (a (src % 128), true) else (a l, false)

/-- The terms of lane l's combination. -/
def terms (m : Mask) (a : Nat → Word) (upto : Nat) : List Word := ((m.list).filter (· < upto)).map a

/-- FMIN or FMAX over a set of terms (R303). -/
def foldMinMax (max : Bool) (l : List Word) : Nat × Nat :=
  let t := Fp.f32
  let nv := if l.any (fun x => (Fp.decode t x.toNat).isSnan) then Fp.NV else 0
  let nums := l.filter (fun x => !(Fp.decode t x.toNat).isNan)
  match nums with
  | [] => (t.nan, nv)
  | x :: r => (r.foldl (fun b y => (Fp.minMax t max b y.toNat).1) x.toNat, nv)

/-- The combination of a nonempty list of terms (R303). -/
def combine (op : Nat) (ty : BitVec 4) (mode : BitVec 2) (l : List Word) : Nat × Nat :=
  let ints := l.map (intVal ty)
  match op with
  | 0 =>
    if ty == 3 then rnd Fp.f32 mode (Fp.sum mode.toNat (l.map (fun x => Fp.decode Fp.f32 x.toNat)))
    else (Fp.wrap 32 ints.sum, 0)
  | 1 => if ty == 3 then foldMinMax false l else (Fp.wrap 32 (ints.foldl min (ints.headD 0)), 0)
  | 2 => if ty == 3 then foldMinMax true l else (Fp.wrap 32 (ints.foldl max (ints.headD 0)), 0)
  | 3 => ((l.foldl (· &&& ·) (0xFFFFFFFF : Word)).toNat, 0)
  | 4 => ((l.foldl (· ||| ·) (0 : Word)).toNat, 0)
  | _ => ((l.foldl (· ^^^ ·) (0 : Word)).toNat, 0)

/-- The identity an exclusive SCAN writes where no lane comes before (R303). -/
def scanIdentity (op : Nat) (ty : BitVec 4) : Nat :=
  match op with
  | 1 => if ty == 3 then 0x7F800000 else if ty == 1 then 0x7FFFFFFF else 0xFFFFFFFF
  | 2 => if ty == 3 then 0xFF800000 else if ty == 1 then 0x80000000 else 0
  | 3 => 0xFFFFFFFF
  | _ => 0

def scan (op : Nat) (ty : BitVec 4) (mode : BitVec 2) (excl : Bool) (m : Mask) (a : Nat → Word) (l : Nat) : Nat × Nat :=
  match terms m a (if excl then l else l + 1) with
  | [] => (scanIdentity op ty, 0)
  | t => combine op ty mode t

/-- The lowest participating lane that holds lane l's value (R304). -/
def matchLane (m : Mask) (a : Nat → Word) (l : Nat) : Nat := ((m.list).find? (fun j => a j == a l)).getD l

end Sys2Proof.Machine.Alu
end

