-- ==== Sys2Proof/Machine/Regs.lean ====
section
/-! DEFINITION. The registers of BAR0 as plain 64-bit words by offset, with their reset values (01 R12, R13, R19;
04; 10 R205; 11). A register that no entry of State lists holds its reset value. -/

namespace Sys2Proof.Machine
open Sys2Proof

/-- The default hash: mask k sets PA bits 6 + k and 24 + k (01 R12). -/
def defaultMask (k : Nat) : Nat := 2 ^ (6 + k) + 2 ^ (24 + k)

/-! Bases of the blocks (04 R61). -/

def chmapBase : Nat := 0x10000
def counterBase : Nat := 0x18000
def cntctlOff : Nat := 0x17FF8
def dwetexBase : Nat := 0x20000
def residBase (die : Nat) : Nat := 0x30000 + 0x1000 * die
def obsBase (die : Nat) : Nat := 0x40000 + 0x4000 * die
def ueBase : Nat := 0x80000

/-! Registers of the Dwetex block (02 R41). -/

def pstatOff (p : Nat) : Nat := dwetexBase + 0x40 * p
def pctlOff (p : Nat) : Nat := dwetexBase + 0x40 * p + 8
def nstateOff (n : Nat) : Nat := dwetexBase + 0x400 + 8 * n

/-- Reset values of BAR0 by offset (the rules of each block). -/
def bar0Reset (off : Nat) : Nat :=
  if off == 0 then 0x00092048                            -- IDENT (04 R61)
  else if off == 0x10 then 63                            -- MBOXBASE (04 R63)
  else if 0x1000 ≤ off && off < 0x1400 && off % 16 == 8 then 2 ^ 32     -- MSI-X entries are masked (log 81)
  else if chmapBase ≤ off && off < chmapBase + 0x400 then -- channel maps (01 R12, R13)
    (let r := off % 0x80 / 8
     if r < 14 then defaultMask r else if r == 14 then 1 else 0)
  else if off == ueBase then 64 * 2 ^ 32 + 16 * 2 ^ 24 + 100 * 2 ^ 8 + 2 * 2 ^ 4      -- ENGCTL (03 R54)
  else if off == ueBase + 8 then 0x400000 * 2 ^ 32 + 0x1000                          -- NSCCWIN (03 R54)
  else if 0x30000 ≤ off && off < 0x38000 && off % 0x1000 == 0x18 then 2 ^ 16 + 4096   -- SWEEPCTL (09 R187)
  else if 0x40000 ≤ off && off < 0x60000 && 0x2000 ≤ off % 0x4000 && off % 0x80 == 8 then 2 ^ 32 - 1  -- MIN (11 R222)
  else 0

namespace State

/-- A BAR0 register. -/
def reg (s : State) (off : Nat) : Nat :=
  match s.host.bar0.get none off with
  | some v => v.toNat
  | none => bar0Reset off
def setReg (s : State) (off v : Nat) : State :=
  { s with host := { s.host with bar0 := s.host.bar0.set none off (some (BitVec.ofNat 64 v)) } }

/-- BOOTSTAT's STAGE and STATUS (04 R66). -/
def bootStage (s : State) : Nat := s.reg 8 % 16
def bootStatus (s : State) : Nat := bits (s.reg 8) 15 8
/-- Both images failed: the port enumerates in recovery mode, in which BAR0 decodes only IDENT and BOOTSTAT (04 R66). -/
def recovery (s : State) : Bool := s.bootStage == 1 && s.bootStatus != 0

/-- Mask k of channel map m (01 R13). -/
def mask (s : State) (m k : Nat) : Nat := s.reg (chmapBase + 0x80 * m + 8 * k)
/-- Channel map m is in force. -/
def mapValid (s : State) (m : Nat) : Bool := s.reg (chmapBase + 0x80 * m + 0x70) % 2 == 1

/-- The table entry of MSI-X vector v masks it: bit 0 of its vector control (04 R61; the PCIe layout, log 81). -/
def msixMasked (s : State) (v : Nat) : Bool := bits (s.reg (0x1008 + 16 * v)) 32 32 == 1
/-- Raises MSI-X vector v (04 R62): its message is sent, or, while it is masked, its pending bit is set (04 R61). -/
def msix (s : State) (v : Nat) : State :=
  if s.msixMasked v then s.setReg 0x1800 (setBits (s.reg 0x1800) (v % 64) (v % 64) 1)
  else { s with host := { s.host with msix := s.host.msix ++ [v] } }

/-- The world of a physical address: true for secure (04 R69). -/
def secureAt (s : State) (pa : Nat) : Bool :=
  match (List.range 64).find? (fun i =>
      let b := s.reg (0x4000 + 16 * i)
      let l := s.reg (0x4008 + 16 * i)
      b % 2 == 1 && bits b 51 16 ≤ pa / 65536 && pa / 65536 ≤ bits l 51 16) with
  | some i => s.reg (0x4000 + 16 * i) / 2 % 2 == 1
  | none => false

/-- NSTATE of a node: 0 absent, 1 up, 2 down, 3 reset seen (02 R41). -/
def nstate (s : State) (n : Nat) : Nat := s.reg (dwetexBase + 0x400 + 8 * n) % 4
/-- The sub-code of FABRIC that an access to a node raises while it is not up (02 R40). R40 names sub-codes for a node
that is down and one that is reset; for an absent one the model takes that of a node that is down (log 82). -/
def nodeFault (s : State) (n : Nat) : Option Nat :=
  match s.nstate n with
  | 1 => none
  | 3 => some 2
  | _ => some 1

/-! ### Dwetex ports (02 R27, R28, R41) -/

def port (s : State) (p : Nat) : Port := s.host.ports.get {} p
def setPort (s : State) (p : Nat) (x : Port) : State := { s with host := { s.host with ports := s.host.ports.set {} p x } }
/-- A field of PSTAT. -/
def pstat (s : State) (p hi lo : Nat) : Nat := bits (s.reg (pstatOff p)) hi lo
def setPstat (s : State) (p hi lo v : Nat) : State := s.setReg (pstatOff p) (setBits (s.reg (pstatOff p)) hi lo v)
/-- STATE: 0 down, 1 training, 2 up, 3 failed. -/
def portState (s : State) (p : Nat) : Nat := s.pstat p 1 0
def portDown (s : State) (p : Nat) : Bool := s.portState p == 0 || s.portState p == 3

/-- XMIT at which a port holds all transmission, and at which it warns (R36, R38). -/
def xmitLimit : Nat := 2 ^ 32 - 1
def xmitWarn : Nat := 0xF0000000
/-- The port sends nothing for now: it trains, or holds until a KEYSWAP. -/
def portWaits (s : State) (p : Nat) : Bool := s.portState p == 1 || decide (xmitLimit ≤ (s.port p).xmit)

/-- Nodes of the pod, 1, 2, 4, 8 or 16; 0 for a package in no pod (R27). -/
def nodes (s : State) : Nat := if [1, 2, 4, 8, 16].contains s.host.podNodes then s.host.podNodes else 0
/-- Port p connects to node n (R27). -/
def reaches (s : State) (p n : Nat) : Bool := s.nodes != 0 && p % s.nodes == n
/-- The port by which core `c` reaches node `n` (R28). -/
def portFor (s : State) (n c : Nat) : Nat := n + s.nodes * (c % (16 / s.nodes))

/-- The sub-code of FABRIC that an access to a node by a port raises: the node is not up, or its port is down, and no
traffic fails over to another port (R40). -/
def linkFault (s : State) (n p : Nat) : Option Nat :=
  match s.nodeFault n with
  | some sub => some sub
  | none => if s.portDown p then some 1 else none

def pkgid (s : State) : Nat := s.reg (dwetexBase + 0x500) % 64

/-- Die and scratch offset of the mailbox window (04 R63). -/
def mbox (s : State) : Nat × Nat := (bits (s.reg 0x10) 8 6, s.reg 0x10 % 64 * 2 ^ 20)
/-- MBOXFULL bit of a slot (04 R61). -/
def mboxFull (s : State) (n : Nat) : Bool := s.reg (0x20 + 8 * (n / 64)) / 2 ^ (n % 64) % 2 == 1
def setMboxFull (s : State) (n : Nat) (b : Bool) : State :=
  let o := 0x20 + 8 * (n / 64)
  s.setReg o (setBits (s.reg o) (n % 64) (n % 64) b.toNat)

/-- Pins of the Assay engine's snapshots (06 R114). -/
def pins (s : State) : List Nat := s.assay.snaps.cells.filterMap (fun c => c.2.map (·.at_))

end State

end Sys2Proof.Machine
end

