-- ==== Sys2Proof/Machine/Mem.lean ====
section
/-! DEFINITION. Memory: the physical map and homes (01 R8 to R17), versions and what a load returns (08 R155 to
R163, 06 R96 to R100), team memory and scratch with their full/empty bits and conflict filters (08 R150 to R154,
06 R95), and node memory (02 R32). -/

namespace Sys2Proof.Machine
open Sys2Proof

/-! ## The physical map (R8) -/

inductive Tier where
  | hbmA | hbmB | lpddr | host | fabric | none
  deriving DecidableEq, Repr

def tierOf (pa : Nat) : Tier :=
  if pa < 0x8000000000 then .hbmA
  else if pa < 0x9000000000 then .hbmB
  else if 0x10000000000 ≤ pa && pa < 0x30000000000 then .lpddr
  else if 0x40000000000 ≤ pa && pa < 0x80000000000 then .host
  else if 0x80000000000 ≤ pa && pa < 0x100000000000 then .fabric
  else .none

/-- XOR of the selected bits. -/
def parity (v : Nat) : Nat → Nat
  | 0 => 0
  | n + 1 => (v / 2 ^ n + parity v n) % 2

/-- Derived bit k of a region A line under the masks of a map (R9). -/
def derived (mask : Nat → Nat) (pa k : Nat) : Nat := parity (pa &&& mask k) 39

/-- n derived bits from k as a number, the first lowest. -/
def derivedN (mask : Nat → Nat) (pa k : Nat) : Nat → Nat
  | 0 => 0
  | n + 1 => derivedN mask pa k n + 2 ^ n * derived mask pa (k + n)

/-- The pivot of a mask: its highest set bit (R10). -/
def pivot (v : Nat) : Nat := Nat.log2 v

/-- Bits 38:6 that no mask has as its pivot, in ascending order (R10). -/
def rowBits (mask : Nat → Nat) : List Nat :=
  ((List.range 33).map (· + 6)).filter (fun b => !((List.range 14).any (fun k => pivot (mask k) == b)))

/-- The bits of v at these places as a number, the first lowest. -/
def gatherBits (v : Nat) : List Nat → Nat
  | [] => 0
  | b :: t => v / 2 ^ b % 2 + 2 * gatherBits v t

/-- Where an HBM line lies: stack, channel, pseudo-channel, bank group, bank, and line within the bank (R9 to R11). -/
structure Place where
  stack : Nat
  channel : Nat
  pseudo : Nat
  group : Nat
  bank : Nat
  row : Nat
  deriving DecidableEq, Repr

/-- The place of a region A line under a map (R9, R10). -/
def placeBy (mask : Nat → Nat) (pa : Nat) : Place :=
  { stack := derivedN mask pa 0 4, channel := derivedN mask pa 4 5, pseudo := derived mask pa 9,
    group := derivedN mask pa 10 2, bank := derivedN mask pa 12 2, row := gatherBits pa (rowBits mask) }

/-- The place of a region B line, under fixed map F (R11). -/
def placeF (pa : Nat) : Place :=
  { stack := bits pa 9 6, channel := bits pa 15 11, pseudo := bits pa 10 10, group := bits pa 17 16, bank := bits pa 19 18,
    row := bits pa 35 20 }

/-- The region A line that the default hash puts at a place: 18 row bits are its bits 23:6 and the last its bit 38, and
its bits 37:24 are derived bits against bits 19:6. -/
def lineAt (p : Place) : Nat :=
  let low := p.row % 2 ^ 18
  let d := p.stack + 2 ^ 4 * p.channel + 2 ^ 9 * p.pseudo + 2 ^ 10 * p.group + 2 ^ 12 * p.bank
  low * 64 + (d ^^^ low % 2 ^ 14) * 2 ^ 24 + p.row / 2 ^ 18 % 2 * 2 ^ 38

/-- The map holds the default hash. -/
def State.hashed (s : State) (m : Nat) : Bool := (List.range 14).all (fun k => s.mask m k == defaultMask k)

/-- The storage that physical address `pa` names under channel map `cm`, as the address that names it under the default
hash. Memory is kept by place, so bytes stay where they are when a map or a PTE's CM changes (R10, R14). -/
def State.at (s : State) (cm pa : Nat) : Nat :=
  if tierOf pa = .hbmA && !s.hashed cm then lineAt (placeBy (s.mask cm) pa) + pa % 64 else pa

/-- The place of an HBM line, by its address under the default hash. -/
def placeOf (pa : Nat) : Place := if tierOf pa = .hbmB then placeF pa else placeBy defaultMask pa

/-- LPDDR channel (R17). -/
def lpddrChannel (pa : Nat) : Nat := bits pa 16 12 ^^^ bits pa 25 21

/-- The global channel that counts an access: HBM stack × 32 + channel, LPDDR 512 + channel (R18). -/
def channelOf (pa : Nat) : Option Nat :=
  match tierOf pa with
  | .hbmA | .hbmB => let x := placeOf pa; some (x.stack * 32 + x.channel)
  | .lpddr => some (512 + lpddrChannel pa)
  | _ => none

/-- Home die and slice of a line (R15). -/
def homeOf (pa : Nat) : Nat × Nat :=
  match tierOf pa with
  | .hbmA | .hbmB => let x := placeOf pa; (x.stack / 2, x.stack % 2 * 32 + x.channel)
  | .lpddr => (lpddrChannel pa / 4, bits pa 11 6)
  | _ => (0, bits pa 11 6)

/-! ## The mesh (R5, R6) -/

/-- Column and row of a C-die. -/
def meshColumn (d : Nat) : Nat := d % 4
def meshRow (d : Nat) : Nat := d / 4

/-- The C-dies that a request from `a` to `b` passes, after `a`: along its row, then along the column. -/
def meshRoute (a b : Nat) : List Nat :=
  let ca := meshColumn a
  let cb := meshColumn b
  let n := if ca ≤ cb then cb - ca else ca - cb
  (List.range n).map (fun k => meshRow a * 4 + (if ca ≤ cb then ca + k + 1 else ca - k - 1)) ++
    (if meshRow a = meshRow b then [] else [b])

/-- Edges that a request between C-dies crosses. -/
def hops (a b : Nat) : Nat := (meshRoute a b).length

/-- The C-dies that I-die 0 or 1 attaches to. -/
def attached (i : Nat) : List Nat := if i = 0 then [0, 4] else [3, 7]

/-! ## Versions (08 R156 to R159) -/

/-- Who commits: grid, team and group in team; grid 0 for an agent that is no group. -/
structure Owner where
  grid : Nat := 0
  team : Nat := 0
  num : Nat := 0
  lclk : Nat := 0
  deriving DecidableEq, Repr

def Group.owner (g : Group) (lclk : Nat) : Owner := { grid := g.grid, team := g.team, num := g.num, lclk }

def Ver.time (v : Ver) : Nat := v.stamp / 1024

/-- The committed versions of a byte, newest first. -/
def State.versOf (s : State) (pa : Nat) : List Ver := s.mem.vers.get [] pa
/-- The newest committed byte, whatever the cut (R163). -/
def State.newest (s : State) (pa : Nat) : Byte :=
  match s.versOf pa with
  | v :: _ => v.val
  | [] => s.mem.base.get 0 pa
def State.newestN (s : State) (pa n : Nat) : Nat := natOfBytes ((List.range n).map (fun k => s.newest (pa + k)))

/-- A stamp not used before, whose lead die is `die` (R156): a die makes at most 128 commits visible in a clock. -/
def State.stamp (s : State) (die : Nat) : Nat × State :=
  let k := s.mem.serials.get 0 (s.clock * 8 + die)
  if k < 128 then
    (s.clock * 1024 + die * 128 + k, { s with mem := { s.mem with serials := s.mem.serials.set 0 (s.clock * 8 + die) (k + 1) } })
  else
    let c := s.clock + 1
    let k := s.mem.serials.get 0 (c * 8 + die)
    (c * 1024 + die * 128 + k % 128,
     { s with clock := c, mem := { s.mem with serials := s.mem.serials.set 0 (c * 8 + die) (k + 1) } })

/-- Installs one byte as the newest version. -/
def MemSys.addVer (m : MemSys) (o : Owner) (stamp pa : Nat) (v : Byte) : MemSys :=
  let x : Ver := { val := v, stamp := stamp, grid := o.grid, team := o.team, num := o.num, lclk := o.lclk }
  { m with vers := m.vers.set [] pa (x :: m.vers.get [] pa),
           dirty := if m.dirty.contains (pa / 64) then m.dirty else pa / 64 :: m.dirty }

def MemSys.addVers (m : MemSys) (o : Owner) (stamp : Nat) : List (Nat × Byte) → MemSys
  | [] => m
  | (pa, v) :: t => (m.addVer o stamp pa v).addVers o stamp t

/-! ## Channel counters (01 R18) -/

/-- Counts one access: READS is counter 0, WRITES 1 of its channel. Whether it finds another row open, and how long it
waits for a refresh, are free values (log 78). -/
def State.countOnly (s : State) (pa which : Nat) : State :=
  if s.reg cntctlOff % 2 == 1 then s
  else match channelOf pa with
    | some c =>
      let off := counterBase + 0x20 * c
      let n := s.reg off + s.reg (off + 8)
      let up (s : State) (k d : Nat) : State := s.setReg (off + 8 * k) ((s.reg (off + 8 * k) + d) % 2 ^ 48)
      up (up (up s which 1) 2 (Config.rowConflict c n).toNat) 3 (Config.refreshStall c n)
    | none => s

/-- A controller corrects a line and counts it (R23). -/
def State.correct (s : State) (line : Nat) : State :=
  if !s.mem.weakLines.contains line then s
  else match channelOf (line * 64) with
    | none => s
    | some c =>
      let m := s.mem
      { s with mem := { m with weakLines := m.weakLines.filter (· != line),
                               corrected := m.corrected.set 0 c (m.corrected.get 0 c + 1),
                               lastCorrected := m.lastCorrected.set 0 c (line * 64) } }

/-- An access counts, and a line with a correctable error is corrected on the way. -/
def State.count (s : State) (pa which : Nat) : State := (s.countOnly pa which).correct (pa / 64)

/-- The first byte in each line of [pa, pa + n). -/
def lineStarts (pa n : Nat) : List Nat :=
  (List.range ((pa + n - 1) / 64 - pa / 64 + 1)).map (fun k => max pa ((pa / 64 + k) * 64))

/-- Every line of these bytes counts as one access. -/
def State.countAll (s : State) (l : List Nat) (which : Nat) : State :=
  (uniq (l.map (· / 64))).foldl (fun s n => s.count (n * 64) which) s

/-- Every line of [pa, pa + n) of a page of map `cm` counts as one access. -/
def State.countLines (s : State) (cm pa n which : Nat) : State :=
  (lineStarts pa n).foldl (fun s a => s.count (s.at cm a) which) s

/-- A write of a whole line clears it (R25, R26). -/
def State.wholeLines (s : State) (l : List (Nat × Byte)) : State :=
  let ls := (uniq (l.map (·.1 / 64))).filter (fun n => (List.range 64).all (fun k => l.any (fun x => x.1 == n * 64 + k)))
  if ls.isEmpty then s else
    { s with mem := { s.mem with
      badLines := s.mem.badLines.filter (fun n => !ls.contains n),
      badTable := s.mem.badTable.mapV [] (fun l => l.filter (fun n => !ls.contains n)) } }

/-- The L1s that the directories list for lines have been noticed, and hold them no longer (R160; log 57). -/
def State.noticed (s : State) (ls : List Nat) : State :=
  { s with mem := { s.mem with dir := ls.foldl (fun d n => d.set [] n []) s.mem.dir } }

/-- A write performed at a home as a commit of its own (R163): a walker's update or an agent's record. -/
def State.commitNow (s : State) (o : Owner) (l : List (Nat × Byte)) : State :=
  match l with
  | [] => s
  | (pa, _) :: _ =>
    let low := l.foldl (fun a x => min a x.1) pa
    let r := s.stamp (homeOf low).1
    let s : State := { r.2 with mem := r.2.mem.addVers o r.1 l }
    ((s.wholeLines l).noticed (uniq (l.map (·.1 / 64)))).countAll (l.map (·.1)) 1

/-- The bytes of [pa, pa + n) of a page of map `cm`, newest committed. -/
def State.newestAt (s : State) (cm pa n : Nat) : List Byte := (List.range n).map (fun k => s.newest (s.at cm (pa + k)))
/-- Bytes from `pa` of a page of map `cm` on, at their storage. -/
def State.stored (s : State) (cm pa : Nat) (l : List Byte) : List (Nat × Byte) :=
  (List.range l.length).map (fun k => (s.at cm (pa + k), l.getD k 0))

/-- Bytes of a little-endian value at consecutive addresses. -/
def bytesAt (pa n v : Nat) : List (Nat × Byte) := (List.range n).map (fun k => (pa + k, BitVec.ofNat 8 (v / 256 ^ k)))
def bytesFrom (pa : Nat) (l : List Byte) : List (Nat × Byte) := (List.range l.length).map (fun k => (pa + k, l.getD k 0))

/-- Overwrites the newest version of a byte in place, keeping no superseded version (R178, R187). -/
def State.patch (s : State) (pa : Nat) (v : Byte) : State :=
  match s.versOf pa with
  | x :: t => { s with mem := { s.mem with vers := s.mem.vers.set [] pa ({ x with val := v } :: t) } }
  | [] => { s with mem := { s.mem with base := s.mem.base.set 0 pa v } }
def State.patchN (s : State) (pa n v : Nat) : State :=
  (bytesAt pa n v).foldl (fun s x => s.patch x.1 x.2) s

/-- A cut that the group took after it had observed its predecessor's completion record (R99). -/
def Group.cutLate (g : Group) (cut : Nat) : Bool := g.cutAfter && g.lateFrom ≤ cut

/-- The filter of R159 on another group's version, for a read of group `g` under `cut`. -/
def State.filter (s : State) (g : Group) (cut : Nat) (v : Ver) : Bool :=
  let gr := s.grid g.grid
  match gr.launch.mode with
  | 2 => v.grid == g.grid || v.time ≤ gr.cut
  | 1 =>
    if v.grid == g.grid then
      let t := s.team g.teamKey
      v.team == g.team || v.team < t.horizon1 || t.view.any (fun x => x.1 == v.team && v.time ≤ x.2)
    else if gr.pred == some v.grid && gr.launch.deptrig then
      match (s.team (teamKey v.grid v.team)).trigTime with
      | some t => v.time ≤ t || g.cutLate cut
      | none => g.cutLate cut
    else v.time ≤ gr.cut
  | _ => true

/-- The parts of [va, va + n) in each 64 KiB page. -/
def pieces (va n : Nat) : List (Nat × Nat) :=
  if n = 0 then []
  else (List.range ((va + n - 1) / 65536 - va / 65536 + 1)).map (fun k =>
    let lo := max va ((va / 65536 + k) * 65536)
    (lo, min (va + n) ((va / 65536 + k + 1) * 65536) - lo))

/-- The version that a load of group `g` under `cut` returns; none for the initial version (R159). -/
def State.bestVer (s : State) (g : Group) (cut pa : Nat) : Option Ver :=
  (s.versOf pa).find? (fun v =>
    (v.grid == g.grid && v.team == g.team && v.num == g.num) || (v.time ≤ cut && s.filter g cut v))

/-- One byte of a global load at virtual address `va`, whose storage is `pa` (R159, R179). -/
def State.loadByte (s : State) (g : Group) (cut va pa : Nat) : Byte :=
  match (g.unpub.get none va).or (g.pend.get none va) with
  | some b => b
  | none =>
    match s.bestVer g cut pa with
    | some v => v.val
    | none => s.mem.base.get 0 pa

def State.loadAt (s : State) (g : Group) (cut va cm pa n : Nat) : List Byte :=
  (List.range n).map (fun k => s.loadByte g cut (va + k) (s.at cm (pa + k)))
def State.loadN (s : State) (g : Group) (cut va cm pa n : Nat) : Nat := natOfBytes (s.loadAt g cut va cm pa n)

/-- In free mode, a load of this byte returns a version of a predecessor committed after its team's TRIGGER (R93,
0x0A). -/
def State.lateVer (s : State) (g : Group) (cut va pa : Nat) : Bool :=
  match (g.unpub.get none va).or (g.pend.get none va), s.bestVer g cut pa with
  | none, some v =>
    let gr := s.grid g.grid
    gr.launch.mode == 0 && gr.pred == some v.grid &&
      (match (s.team (teamKey v.grid v.team)).trigTime with
       | some t => t < v.time
       | none => false)
  | _, _ => false

/-! ## Retention (01 R16, 08 R161, R162) -/

/-- Open cuts of the package. -/
def State.openCuts (s : State) : List Nat :=
  (s.groups.cells.filter (fun c => c.2.status != .gone && c.2.status != .draining)).flatMap (fun c =>
    c.2.cut :: (if c.2.sliced then [c.2.a.cut] else []) ++ (c.2.queues.get [] 5).map (·.cut)) ++
  (s.grids.cells.filter (fun c => c.2.status == .running && c.2.started && c.2.next < c.2.launch.teams)).map (·.2.cut)
  ++ s.pins

/-- Superseded versions of one byte that R161 keeps: the stamps of versions whose successor lies after H. -/
def keptOf (h : Nat) : List Ver → List Nat
  | [] => []
  | [v] => if h < v.time then [0] else []
  | v :: w :: t => (if h < v.time then [w.stamp] else []) ++ keptOf h (w :: t)

/-- Entries in use at a home: distinct (line, superseded stamp). -/
def State.retained (s : State) (home : Nat × Nat) : Nat :=
  (uniq ((s.mem.vers.cells.filter (fun c => homeOf c.1 == home)).flatMap (fun c =>
    (keptOf s.mem.unpinned c.2).map (fun st => (c.1 / 64, st))))).length

/-- Entries a set of new bytes needs at a home. -/
def State.needed (s : State) (home : Nat × Nat) (l : List (Nat × Byte)) : Nat :=
  (uniq ((l.filter (fun c => homeOf c.1 == home)).map (fun c =>
    (c.1 / 64, match s.versOf c.1 with | v :: _ => v.stamp | [] => 0)))).length

/-- Every home of the bytes has retention for them (R162): a step of 16 KiB holds 256 lines (R16, log 7). -/
def State.retentionOk (s : State) (l : List (Nat × Byte)) : Bool :=
  (uniq (l.map (fun c => homeOf c.1))).all (fun h => s.retained h + s.needed h l ≤ s.mem.share * 256)

/-! ## Bad lines (01 R24, R25) -/

/-- Bytes that cannot be read: a line with uncorrectable data, or one in a bad-line table. -/
def State.badByte (s : State) (pa : Nat) : Bool :=
  s.mem.badLines.contains (pa / 64) || s.mem.badTable.cells.any (fun c => c.2.contains (pa / 64))

/-- The first byte of [pa, pa + n) of a page of map `cm` that cannot be read. -/
def State.badIn (s : State) (cm pa n : Nat) : Option Nat := (lineStarts pa n).find? (fun a => s.badByte (s.at cm a))

/-! ## Team memory and scratch (08 R150 to R154, 01 R386) -/

/-- A byte of team memory (space 1, place a team key) or scratch (space 2, place a die). -/
def State.winByte (s : State) (space place off : Nat) : Byte :=
  if space == 1 then (s.team place).tmem.get 0 off else s.mem.scratch.get 0 (place * 2 ^ 26 + off)
def State.setWinByte (s : State) (space place off : Nat) (b : Byte) : State :=
  if space == 1 then
    let t := s.team place
    s.setTeam place { t with tmem := t.tmem.set 0 off b }
  else { s with mem := { s.mem with scratch := s.mem.scratch.set 0 (place * 2 ^ 26 + off) b } }
def State.winN (s : State) (space place off n : Nat) : Nat :=
  natOfBytes ((List.range n).map (fun k => s.winByte space place (off + k)))
def State.putWin (s : State) (space place off : Nat) (l : List Byte) : State :=
  match l with
  | [] => s
  | b :: t => (s.setWinByte space place off b).putWin space place (off + 1) t

/-! Their 64-bit words are SEC-DED (01 R22 to R24). -/

/-- The SRAM word of a window that holds `off`. -/
def sramWord (space place off : Nat) : Nat := off / 8 + (if space == 1 then place * 2 ^ 15 else 2 ^ 90 + place * 2 ^ 23)
/-- The SRAM block of `off`: a scratch slice, or 4096 + a core's team memory. -/
def State.sramBlock (s : State) (space place off : Nat) : Nat :=
  if space == 1 then 4096 + coreKey (s.team place).die (s.team place).core else place * 64 + off / 64 % 64
/-- The first byte of each word in [off, off + n). -/
def wordStarts (off n : Nat) : List Nat :=
  (List.range ((off + n - 1) / 8 - off / 8 + 1)).map (fun k => max off ((off / 8 + k) * 8))

/-- The first byte of a window access whose word is uncorrectable. -/
def State.winBad (s : State) (space place off n : Nat) : Option Nat :=
  if s.mem.badWords.isEmpty then none
  else (wordStarts off n).find? (fun a => s.mem.badWords.contains (sramWord space place a))

/-- A read corrects the words with a correctable error, counts them and keeps the last one's address (R23). -/
def State.winCorrect (s : State) (space place off n : Nat) : State :=
  if s.mem.weakWords.isEmpty then s
  else (wordStarts off n).foldl (fun s a =>
    let w := sramWord space place a
    if !s.mem.weakWords.contains w then s
    else
      let k := s.sramBlock space place a
      { s with mem := { s.mem with
        weakWords := s.mem.weakWords.filter (· != w), sramCount := s.mem.sramCount.set 0 k (s.mem.sramCount.get 0 k + 1),
        sramLast := s.mem.sramLast.set 0 k (a / 8 * 8) } }) s

/-- A write of whole words leaves no error in them. -/
def State.freshWords (s : State) (space place off n : Nat) : State :=
  if s.mem.badWords.isEmpty && s.mem.weakWords.isEmpty then s
  else
    let ws := ((wordStarts off n).filter (fun a => a % 8 == 0 && a + 8 ≤ off + n)).map (sramWord space place)
    { s with mem := { s.mem with badWords := s.mem.badWords.filter (fun w => !ws.contains w),
                                 weakWords := s.mem.weakWords.filter (fun w => !ws.contains w) } }

def State.setWinN (s : State) (space place off : Nat) (l : List Byte) : State :=
  (s.freshWords space place off l.length).putWin space place off l

/-- The full bit of the granule that holds `off`. -/
def State.isFull (s : State) (space place off : Nat) : Bool :=
  if space == 1 then (s.team place).full.get false (off / 16)
  else s.mem.sfull.get false (place * 2 ^ 22 + off / 16)
def State.setFull (s : State) (space place off : Nat) (b : Bool) : State :=
  if space == 1 then
    let t := s.team place
    s.setTeam place { t with full := t.full.set false (off / 16) b }
  else { s with mem := { s.mem with sfull := s.mem.sfull.set false (place * 2 ^ 22 + off / 16) b } }

/-! ## Conflict filters (06 R95) -/

/-- A BAR generation of the team separates an earlier access of group `a` at clock `t` from one of `b` now. -/
def Team.separated (t : Team) (a tm b now : Nat) : Bool :=
  t.passes.any (fun x => x.group == a && tm ≤ x.arrive &&
    t.passes.any (fun y => y.group == b && y.bar == x.bar && y.gen == x.gen &&
      (match y.ret with | some r => r ≤ now | none => false)))

def State.conflictKey (space place off : Nat) : Nat :=
  if space == 1 then place * 2 ^ 14 + off / 16 else place * 2 ^ 22 + off / 16

/-- Granules in use of a conflict filter: unit `k` is a core's team memory, or 4096 + a scratch slice. -/
def State.filterUsed (s : State) (k : Nat) : Nat :=
  if k < 4096 then
    (s.mem.tfilter.cells.filter (fun c => let t := s.team (c.1 / 2 ^ 14); coreKey t.die t.core == k)).length
  else (s.mem.sfilter.cells.filter (fun c => c.1 / 2 ^ 22 * 64 + c.1 / 4 % 64 == k - 4096)).length

/-- Notes an access of a group and records a conflict: 0x03 or 0x04, and 0x0D in a steered grid (R95, R111). -/
def State.noteAccess (s : State) (gid pc space place off : Nat) (write : Bool) : State :=
  let g := s.group gid
  let key := State.conflictKey space place off
  let f := if space == 1 then s.mem.tfilter else s.mem.sfilter
  let l := f.get [] key
  let hit := l.any (fun a => a.grid == g.grid && !(a.team == g.team && a.group == g.num) && (a.write || write) &&
    !(a.team == g.team && (s.team g.teamKey).separated a.group a.at_ g.num s.clock))
  let code := if (s.grid g.grid).steered then 0xD else if space == 1 then 3 else 4
  let obj := if space == 1 then off / 16 * 16 else place * 2 ^ 26 + off / 16 * 16
  let s := if hit then s.cause gid code pc obj else s
  let unit := if space == 1 then g.coreKey else 4096 + place * 64 + off / 64 % 64
  if l.isEmpty && 4096 ≤ s.filterUsed unit then
    if s.mem.filterFull.contains unit then s
    else { s.causeGrid g.grid code 0 with mem := { s.mem with filterFull := unit :: s.mem.filterFull } }
  else
    let a : Access := { grid := g.grid, team := g.team, group := g.num, write, at_ := s.clock }
    let l := a :: l.filter (fun x => !(x.grid == a.grid && x.team == a.team && x.group == a.group && x.write == a.write))
    if space == 1 then { s with mem := { s.mem with tfilter := f.set [] key l } }
    else { s with mem := { s.mem with sfilter := f.set [] key l } }

/-- The grid of an Assay run writes scratch of a die: the snapshots to come hold these 64 KiB pages (06 R114). -/
def State.scratchPages (s : State) (grid die off n : Nat) : State :=
  let g := s.grid grid
  if g.assay && n ≠ 0 then
    let ps := (List.range ((off + n - 1) / 65536 - off / 65536 + 1)).map (fun k => die * 1024 + off / 65536 + k)
    s.setGrid grid { g with steer := { g.steer with pages := uniq (g.steer.pages ++ ps) } }
  else s

/-- Notes an access to every granule of [off, off + n). -/
def State.noteRange (s : State) (gid pc space place off n : Nat) (write : Bool) : State :=
  let s := if write && space == 2 then s.scratchPages (s.group gid).grid place off n else s
  (List.range ((off + n - 1) / 16 - off / 16 + 1)).foldl
    (fun s k => s.noteAccess gid pc space place ((off / 16 + k) * 16) write) s

/-! ## Node memory (02 R32) -/

def State.node (s : State) (n : Nat) : Node := s.mem.nodes.get {} n
def State.setNode (s : State) (n : Nat) (x : Node) : State := { s with mem := { s.mem with nodes := s.mem.nodes.set {} n x } }
/-- A byte of a node; one that nothing has written is a free value (log 8). -/
def State.nodeByte (s : State) (n a : Nat) : Byte := ((s.node n).mem.get none a).getD (Config.nodeByte (n + 16 * (s.node n).epoch) a)
def State.setNodeByte (s : State) (n a : Nat) (b : Byte) : State :=
  let x := s.node n
  s.setNode n { x with mem := x.mem.set none a (some b) }
def State.nodeN (s : State) (n a k : Nat) : Nat := natOfBytes ((List.range k).map (fun i => s.nodeByte n (a + i)))
/-- The node refuses an access outside its installed memory or outside every window that it grants (R31); with no window
set, it grants all (log 52). -/
def State.nodeRefuses (s : State) (n a len : Nat) : Bool :=
  let x := s.node n
  decide (x.ddr < a + len) || (!x.windows.isEmpty && !(x.windows.any (fun w => w.1 ≤ a && a + len ≤ w.2)))

/-- Granules that a node's conflict filter holds for a port (R34). -/
def State.nodeUsed (s : State) (n port : Nat) : Nat :=
  ((s.node n).filter.cells.filter (fun c => c.2.any (fun a => a.port == port))).length
def State.setNodeN (s : State) (n a : Nat) (l : List Byte) : State :=
  match l with
  | [] => s
  | b :: t => (s.setNodeByte n a b).setNodeN n (a + 1) t

end Sys2Proof.Machine
end

