-- ==== Sys2Proof/Machine/Translate.lean ====
section
/-! DEFINITION. Translation and residency: page table entries and walks (09 R171 to R175), the TLBs (R176 to R179),
page-in requests (R180 to R183), worlds (04 R69, R70) and watches (10 R205, R206). -/

namespace Sys2Proof.Machine
open Sys2Proof

/-! ## Page table entries (R173) -/

def pteV (p : Nat) : Bool := p % 2 == 1
def pteLeaf (p : Nat) : Bool := p / 4 % 2 == 1
def pteRes (p : Nat) : Nat := bits p 4 3
def pteTier (p : Nat) : Nat := bits p 6 5
def pteWorld (p : Nat) : Bool := p / 2 ^ 7 % 2 == 1
def pteR (p : Nat) : Bool := p / 2 ^ 8 % 2 == 1
def pteW (p : Nat) : Bool := p / 2 ^ 9 % 2 == 1
def pteX (p : Nat) : Bool := p / 2 ^ 10 % 2 == 1
def pteA (p : Nat) : Bool := p / 2 ^ 11 % 2 == 1
def pteD (p : Nat) : Bool := p / 2 ^ 12 % 2 == 1
def pteCm (p : Nat) : Nat := bits p 15 13
/-- FRAME as an address: PA, or node address, of the page or table. -/
def pteFrame (p : Nat) : Nat := bits p 51 16 * 65536
def pteNode (p : Nat) : Nat := bits p 55 52

/-- 56-bit virtual addresses, sign-extended (R171). -/
def canonical (va : Nat) : Bool := va / 2 ^ 55 == 0 || va / 2 ^ 55 == 511

/-- VA bits 55:0, by which pages and entries are found. -/
def va56 (va : Nat) : Nat := va % 2 ^ 56
/-- VA bits 55:16. -/
def pageOf (va : Nat) : Nat := va56 va / 65536

inductive WalkRes where
  /-- The leaf, its PTE's address, and log2 of its page's size. -/
  | leaf (pte addr size : Nat)
  /-- MEMORY sub-code: 1 unmapped, 6 bad entry, 8 uncorrectable. -/
  | bad (sub : Nat)
  deriving DecidableEq, Repr

/-- A frame that may hold a table: HBM or LPDDR 6 (R172). -/
def tableFrameOk (pa : Nat) : Bool :=
  match tierOf pa with
  | .hbmA | .hbmB | .lpddr => true
  | _ => false

/-- The index bits of a level and the size of a leaf there. -/
def levelIndex (level va : Nat) : Nat :=
  match level with
  | 3 => bits va 55 43
  | 2 => bits va 42 30
  | 1 => bits va 29 25
  | _ => bits va 24 16
def levelSize (level : Nat) : Nat :=
  match level with
  | 2 => 30
  | 1 => 25
  | _ => 16

/-- A leaf that R174 refuses. -/
def badLeaf (level p : Nat) : Bool :=
  let sz := levelSize level
  let f := pteFrame p
  level == 3 || p / 2 ^ 56 != 0 || p / 2 % 2 == 1 || pteRes p == 3 || (pteTier p != 2 && pteNode p != 0) ||
  f % 2 ^ sz != 0 ||
  (match pteTier p with
   | 0 => !(tierOf f == .hbmA && tierOf (f + 2 ^ sz - 1) == .hbmA) && !(tierOf f == .hbmB && tierOf (f + 2 ^ sz - 1) == .hbmB)
   | 1 => !(tierOf f == .lpddr && tierOf (f + 2 ^ sz - 1) == .lpddr)
   | 2 => f / 2 ^ 42 != 0
   | _ => !(tierOf f == .host && tierOf (f + 2 ^ sz - 1) == .host))

/-- A table entry that R174 refuses: any field but V, LEAF and FRAME is nonzero, or the frame may hold no table. -/
def badTable (level p : Nat) : Bool :=
  level == 0 || p / 2 ^ 52 != 0 || p % 65536 != 1 || !tableFrameOk (pteFrame p)

/-- The descent from `level` (R172, R174); walks read newest committed versions (R177). A table entry names no channel
map; the model reads a table in region A under map 0 (log 79). -/
def State.walkFrom (s : State) (va : Nat) : Nat → Nat → WalkRes
  | 0, _ => .bad 6
  | n + 1, table =>
    let a := table + 8 * levelIndex n va
    if s.badByte (s.at 0 a) then .bad 8
    else
      let p := s.newestN (s.at 0 a) 8
      if !pteV p then .bad 1
      else if pteLeaf p then (if badLeaf n p then .bad 6 else .leaf p a (levelSize n))
      else if badTable n p then .bad 6
      else s.walkFrom va n (pteFrame p)

def State.walk (s : State) (root va : Nat) : WalkRes :=
  if tableFrameOk root then s.walkFrom (va56 va) 4 root else .bad 6

/-- The entries that a descent reads. -/
def State.walkReads (s : State) (va : Nat) : Nat → Nat → List Nat
  | 0, _ => []
  | n + 1, table =>
    let a := s.at 0 (table + 8 * levelIndex n va)
    let p := s.newestN a 8
    a :: (if s.badByte a || !pteV p || pteLeaf p || badTable n p then [] else s.walkReads va n (pteFrame p))
/-- A walk's reads count at their channels (01 R18). -/
def State.countWalk (s : State) (root va : Nat) : State :=
  if tableFrameOk root then (s.walkReads (va56 va) 4 root).foldl (fun s a => s.count a 0) s else s

/-! ## TLBs (R176): agent keys are a core key, 2048 + core key for its TAE, 4096 to 4103 for the network, Reflow and
Assay engines, and from 4104 on the launch unit and the sequencers, which keep no translation (R188) -/

def tlbSize (agent : Nat) : Nat := if agent < 2048 then 4096 else if agent < 4104 then 1024 else 0

def State.tlbFind (s : State) (agent asid va : Nat) : Option TlbEntry :=
  (s.xlat.tlbs.get [] agent).find? (fun e => e.asid == asid && va56 va / 2 ^ e.size == e.va / 2 ^ e.size)

/-- Adds an entry; the oldest leaves a full TLB (log 11). -/
def State.tlbFill (s : State) (agent : Nat) (e : TlbEntry) : State :=
  let l := s.xlat.tlbs.get [] agent
  { s with xlat := { s.xlat with tlbs := s.xlat.tlbs.set [] agent ((e :: l).take (tlbSize agent)) } }

/-- Sets bits of a PTE at its home, keeping no superseded version (R178). -/
def State.orPte (s : State) (addr bits : Nat) : State :=
  let a := s.at 0 addr
  (s.patchN a 8 (s.newestN a 8 ||| bits)).count a 1

/-- The leaf for an access: from the TLB, or by a walk that fills it (R176 to R178). -/
def State.leafFor (s : State) (agent root asid va : Nat) : WalkRes × State :=
  match s.tlbFind agent asid va with
  | some e => (.leaf e.pte e.pteAddr e.size, s)
  | none =>
    let s := s.countWalk root va
    match s.walk root va with
    | .leaf p a sz =>
      if pteRes p == 0 then
        let s := if pteA p then s else s.orPte a (2 ^ 11)
        (.leaf p a sz, s.tlbFill agent { asid, va := va56 va / 2 ^ sz * 2 ^ sz, size := sz, pte := p ||| 2 ^ 11, pteAddr := a })
      else (.leaf p a sz, s)
    | r => (r, s)

/-- The first store through an entry with D = 0 sets D, in the PTE and in the entry (R178). -/
def State.markDirty (s : State) (agent asid va pte addr : Nat) : State :=
  if pteD pte then s
  else
    let s := s.orPte addr (2 ^ 12)
    let l := (s.xlat.tlbs.get [] agent).map (fun e =>
      if e.asid == asid && va56 va / 2 ^ e.size == e.va / 2 ^ e.size then { e with pte := e.pte ||| 2 ^ 12 } else e)
    { s with xlat := { s.xlat with tlbs := s.xlat.tlbs.set [] agent l } }

/-! ## The checks of an access, in the order of 16 R289 -/

inductive Acc where
  | load | store | atomic | fetch
  deriving DecidableEq, Repr

inductive XRes where
  /-- Physical address and channel map. -/
  | ok (pa cm : Nat)
  /-- Fabric page: node and node address. -/
  | node (n a : Nat)
  /-- MEMORY with this sub-code. -/
  | fault (sub : Nat)
  /-- The page is not resident. -/
  | absent
  /-- A non-secure master meets a secure target (04 R70). -/
  | freeze (pa : Nat)
  deriving DecidableEq, Repr

def permitted (a : Acc) (p : Nat) : Bool :=
  match a with
  | .load => pteR p
  | .store => pteW p
  | .atomic => pteR p && pteW p
  | .fetch => pteX p

/-- The address in a fabric window of byte `a` of node `n` (02 R30): none where the window does not show it. -/
def State.windowPa (s : State) (n a : Nat) : Option Nat :=
  if a / 0x8000000000 = s.reg (dwetexBase + 0x480 + 8 * n) % 8 then some (0x80000000000 + n * 0x8000000000 + a % 0x8000000000)
  else none

/-- The world of what a leaf names: of a node's byte, that of its place in the node's window (04 R69, log 79). -/
def State.leafSecure (s : State) (p pa : Nat) : Bool :=
  if pteTier p == 2 then (match s.windowPa (pteNode p) pa with | some w => s.secureAt w | none => false) else s.secureAt pa

/-- Checks 2 to 6 of R289 at one virtual address, by one agent in one address space. -/
def State.translate (s : State) (agent root asid : Nat) (a : Acc) (va : Nat) : XRes × State :=
  if !canonical va then (.fault 2, s)
  else
    match s.leafFor agent root asid va with
    | (.bad sub, s) => (.fault sub, s)
    | (.leaf p addr sz, s) =>
      let pa := pteFrame p + va56 va % 2 ^ sz
      if pteTier p == 0 && tierOf pa == .hbmA && !s.mapValid (pteCm p) then (.fault 7, s)
      else if !permitted a p then (.fault 3, s)
      else if pteWorld p != s.leafSecure p pa then (.fault 4, s)
      else if s.leafSecure p pa && !s.host.secure.contains agent then (.freeze pa, s)
      else if pteRes p != 0 then (.absent, s)
      else
        let s := if a == .store || a == .atomic then s.markDirty agent asid va p addr else s
        if pteTier p == 2 then (.node (pteNode p) pa, s)
        else (.ok pa (if pteTier p == 0 && tierOf pa == .hbmA then pteCm p else 0), s)

/-- An access by the current group's core in its address space. -/
def State.xlate (s : State) (a : Acc) (va : Nat) : XRes × State :=
  s.translate s.g.coreKey s.launch.root s.asid a va

/-! ## Frozen masters (04 R70) -/

/-- Keys of masters: a core's key, 4096 + it for its TAE, and the others. -/
def taeMaster (ck : Nat) : Nat := 4096 + ck
def netMaster : Nat := 8192
def reflowMaster : Nat := 8193
def assayMaster : Nat := 8194
def launchMaster : Nat := 8195

def State.isFrozen (s : State) (k : Nat) : Bool := s.host.frozen.any (fun f => f.1 == k)

/-- Master `k` is frozen at an access of `who` at `pc`, and the monitor gets a log entry. -/
def State.freeze (s : State) (k who pc pa : Nat) : State :=
  { s with host := { s.host with frozen := s.host.frozen ++ [(k, who, pc, pa)],
                                 monlog := s.host.monlog ++ [(k, pa, s.clock)] } }

/-- The monitor has released the freeze of this access. -/
def State.isReleased (s : State) (who pc : Nat) : Bool := s.host.released.contains (who, pc)

/-! ## Page-in requests (R180, R182) -/

/-- Enters a request; one for the same page is merged. A die queues at most 1024. A page being moved (RES = 2) is waited
for without a request (R180). -/
def State.pageIn (s : State) (root asid page kind die : Nat) : State :=
  if s.xlat.reqs.any (fun r => r.asid == asid && r.page == page) then s
  else
    let dele := s.xlat.delegated.contains asid
    let queued := (s.xlat.reqs.filter (fun r => r.die == die && r.stage == 1)).length
    let moving := match s.walk root (page * 65536) with | .leaf p _ _ => pteRes p == 2 | _ => false
    let stage := if moving then 3 else if queued < 1024 then 1 else 0
    let inPinq := (s.xlat.reqs.filter (fun r => r.die == die && r.stage == 1 && !r.dele)).isEmpty
    let s := { s with xlat := { s.xlat with reqs := s.xlat.reqs ++ [{ asid, page, kind, die, stage, dele }] } }
    if !dele && inPinq && stage == 1 then s.msix 0 else s

/-- An engine operation waits for a page. -/
def State.pageWaiter (s : State) (asid page id : Nat) : State :=
  { s with xlat := { s.xlat with reqs := s.xlat.reqs.map (fun r =>
      if r.asid == asid && r.page == page && !r.who.contains id then { r with who := r.who ++ [id] } else r) } }

/-- Who asks: a group's C-slice under its number, its A-slice under another. -/
def sliceId (gid : Nat) (aslice : Bool) : Nat := gid + (if aslice then 2 ^ 61 else 0)
def State.me (s : State) : Nat := sliceId s.cur.gid s.cur.aslice

/-- The page-in of (asid, page) failed for this slice or command: its next access there faults (R183). -/
def State.pageFailed (s : State) (who asid page : Nat) : Bool := s.xlat.failed.contains (who, asid, page)
/-- The marks of failed page-ins and released freezes of a slice or command have been used. -/
def State.clearFailed (s : State) (who : Nat) : State :=
  { s with xlat := { s.xlat with failed := s.xlat.failed.filter (fun x => x.1 != who) },
           host := { s.host with released := s.host.released.filter (fun x => x.1 != who) } }

/-! ## Watches (10 R205, R206) -/

/-- The watches that match bytes [pa, pa + n): index and action. `kind` 0 load, 1 store, 2 atomic, 3 engine write. -/
def State.watchHits (s : State) (kind pa n : Nat) : List (Nat × Nat) :=
  (List.range 16).filterMap (fun i =>
    let c := s.reg (0x3010 + 32 * i)
    let lo := s.reg (0x3000 + 32 * i) % 2 ^ 52
    let hi := s.reg (0x3008 + 32 * i) % 2 ^ 52
    let want := match kind with
      | 0 => c / 4 % 2 == 1
      | 1 => c / 8 % 2 == 1
      | 2 => c / 4 % 4 != 0
      | _ => c / 16 % 2 == 1
    if c % 2 == 1 && want && pa ≤ hi && lo ≤ pa + n - 1 then some (i, bits c 6 5) else none)

/-- Writes one entry of the watch log and advances its pointer. -/
def State.watchLog (s : State) (gid pc pa : Nat) : State :=
  let g := s.group gid
  let n := s.reg 0x3210 % 16
  let b := 0x3400 + 32 * n
  let drain := if g.status == .draining then 128 else 0
  let s := s.setReg b (g.spec.name + g.team % 2 ^ 24 * 2 ^ 32 + (g.num + drain) * 2 ^ 56)
  let s := s.setReg (b + 8) pc
  let s := s.setReg (b + 16) pa
  let s := s.setReg (b + 24) s.clock
  s.setReg 0x3210 ((n + 1) % 16)

end Sys2Proof.Machine
end

