-- ==== Sys2Proof/Machine/Grid.lean ====
section
/-! DEFINITION. Grids as a whole: the DCAUSE image (06 R94), completion (05 R76), the release of what a group and a
team hold (05 R90, 07 R141), and stopping a grid early (10 R192, 05 R76). -/

namespace Sys2Proof.Machine
open Sys2Proof

/-! ## The completion record and the DCAUSE image -/

def causeBytes : Option Cause → List Byte
  | none => bytesOfNat 32 0
  | some c =>
    bytesOfNat 8 c.pc ++ bytesOfNat 4 c.name ++ bytesOfNat 3 c.count ++ bytesOfNat 1 c.code ++ bytesOfNat 3 c.team ++
      bytesOfNat 1 (c.grp % 16 + (if c.named then 128 else 0)) ++ bytesOfNat 8 c.obj ++ bytesOfNat 4 0

/-- The 528 bytes of R94. -/
def Grid.image (g : Grid) : List Byte :=
  bytesOfNat 2 g.seen ++ bytesOfNat 2 g.missed ++ bytesOfNat 1 g.flags ++ bytesOfNat 11 0 ++
    (List.range 16).flatMap (fun n => causeBytes (g.dcause.get none n))

/-- The launch unit's agent key for translation. -/
def launchAgent : Nat := 4104

/-- Who asks in the launch unit and the sequencers: grid k (04 R70). -/
def gridWho (k : Nat) : Nat := 2 ^ 59 + k

/-- What an access of the launch unit or a sequencer to virtual bytes meets: their storage, a failure, or a freeze. -/
inductive Found where
  | ok (locs : List Nat)
  | failed
  | freeze (pa : Nat)
  deriving DecidableEq, Repr

/-- The storage of the bytes of pieces of virtual memory, translated page by page. -/
def State.resolve (s : State) (agent root asid : Nat) (a : Acc) : List (Nat × Nat) → Found × State
  | [] => (.ok [], s)
  | (va, n) :: t =>
    match s.translate agent root asid a va with
    | (.ok pa cm, s) =>
      (match s.resolve agent root asid a t with
       | (.ok l, s) => (.ok ((List.range n).map (fun k => s.at cm (pa + k)) ++ l), s)
       | x => x)
    | (.freeze pa, s) => (.freeze pa, s)
    | (_, s) => (.failed, s)

/-- Bytes laid at a list of addresses. -/
def layAt (locs : List Nat) (l : List Byte) : List (Nat × Byte) :=
  (List.range l.length).map (fun k => (locs.getD k 0, l.getD k 0))

/-- Granules still held by a conflict filter, now that a grid's are gone: one with room has not reported full (R95). -/
def State.filtersOpen (s : State) : State :=
  { s with mem := { s.mem with filterFull := s.mem.filterFull.filter (fun k =>
      if k < 2 ^ 20 then 4096 ≤ s.filterUsed k else 65536 ≤ s.nodeUsed ((k - 2 ^ 20) / 16) ((k - 2 ^ 20) % 16)) } }

/-- The grid has completed: its vector is raised, and its filters empty (05 R76, 06 R95). -/
def State.gridDone (s : State) (k status : Nat) : State :=
  let r := (s.grid k).launch
  let s := if r.msiv = 0 then s else s.msix r.msiv
  let drop (f : FMap (List Access)) : FMap (List Access) :=
    ⟨(f.cells.map (fun c => (c.1, c.2.filter (fun a => a.grid != k)))).filter (fun c => !c.2.isEmpty)⟩
  let s := { s with mem := { s.mem with
    tfilter := drop s.mem.tfilter, sfilter := drop s.mem.sfilter,
    nodes := s.mem.nodes.mapV {} (fun n => { n with filter := drop n.filter }) } }
  s.filtersOpen.setGrid k { s.grid k with status := .done, inStore := false, code := status, ending := none,
                                          completedAt := s.clock }

/-- The grid completes: record and DCAUSE image under one stamp, then vector (05 R76, 06 R94). The record's commit waits
for retention (08 R162), and for a frozen launch unit (04 R70); a record whose bytes do not translate is not written
(log 19). -/
def State.completeGrid (s : State) (k status : Nat) : State :=
  let g := s.grid k
  let r := g.launch
  let wait (s : State) : State := s.setGrid k { s.grid k with ending := some status }
  if r.doneaddr = 0 then s.gridDone k status
  else if s.isFrozen launchMaster then wait s
  else
    let l := bytesOfNat 8 s.clock ++ bytesOfNat 4 g.retired ++ bytesOfNat 4 status ++ g.image
    match s.resolve launchAgent r.root r.asid .store (pieces r.doneaddr l.length) with
    | (.failed, s) => s.gridDone k status
    | (.freeze pa, s) =>
      if s.isReleased (gridWho k) 0 then (s.clearFailed (gridWho k)).gridDone k status
      else wait (s.freeze launchMaster (gridWho k) 0 pa)
    | (.ok locs, s) =>
      let b := layAt locs l
      if s.retentionOk b then
        let s := s.commitNow { grid := k, team := 2 ^ 24 } b
        (s.setGrid k { s.grid k with donePa := locs.headD 0 + 1 }).gridDone k status
      else wait s

/-- Completion records that wait are tried again. -/
def State.retryEndings (s : State) : State :=
  s.grids.cells.foldl (fun s c => match c.2.ending with | some st => s.completeGrid c.1 st | none => s) s

/-! ## Names (07 R141) -/

/-- Retires a group's name: its index is freed and its generation advances, 255 to 1. -/
def State.retireName (s : State) (gid : Nat) : State :=
  let g := s.group gid
  if g.nameIdx = 0 then s
  else
    let n := s.names
    let gen := n.gens.get 0 g.nameIdx
    { s with names := { n with gens := n.gens.set 0 g.nameIdx (if gen = 254 then 0 else gen + 1),
                               holder := n.holder.set 0 g.nameIdx 0, freed := n.freed ++ [g.nameIdx] } }

/-! ## Slots and teams (05 R90) -/

/-- Frees what a group holds of its core: handler set, XACQ wait, latch entries. -/
def State.releaseCore (s : State) (gid : Nat) : State :=
  let g := s.group gid
  let p := s.part g.partKey
  s.setPart g.partKey
    { p with owner := if p.owner == some gid then none else p.owner,
             xacq := p.xacq.filter (fun x => x.1 != gid), latch := p.latch.filter (fun x => x.1 != gid) }

/-- The accumulator files that a team holds are released (18 R356). -/
def State.releaseAcc (s : State) (tk : Nat) : State :=
  { s with quads := s.quads.mapV {} (fun q => if q.holder == some tk then { q with holder := none, marks := [] } else q) }

/-- The group leaves its slot for good (R90). What says who it was stays, for its operations still under way. -/
def State.freeGroup (s : State) (gid : Nat) : State :=
  let g := s.group gid
  (s.releaseCore gid).setGroup gid { grid := g.grid, team := g.team, num := g.num, triggered := g.triggered, spec := { name := g.spec.name } }

/-- The last group of a team has left: team memory is freed and the team retires, unless it was stopped; the last team,
or the last group of a grid that stops, completes the grid. -/
def State.retireTeam (s : State) (tk : Nat) : State :=
  let t := s.team tk
  let gr := s.grid t.grid
  let n := gr.retired + (!t.stopped).toNat
  let s := s.releaseAcc tk
  let s := s.setTeam tk { grid := t.grid, idx := t.idx, retired := !t.stopped, stopped := t.stopped, trigTime := t.trigTime }
  let s := s.setGrid t.grid { gr with retired := n }
  if gr.ending.isSome then s
  else if (if gr.stopping then (s.gridGids t.grid).isEmpty else n == gr.launch.teams) then s.completeGrid t.grid gr.code
  else s

/-! ## Stopping a grid (10 R192, 05 R76) -/

/-- In the middle of an instruction that a commit, or an operation at a home, still has to end. -/
def Sub.mid (x : Sub) : Bool :=
  x.stage ≠ 0 && (match x.wait with
    | .commit _ | .writes _ | .homeOp _ | .none => true
    | _ => false)

/-- A group of a grid that stops is at an instruction boundary: it issues no more, and leaves its slot when what it has
under way is done, as a draining group does. An evicted group leaves at once. -/
def State.stopGroup (s : State) (gid : Nat) : State :=
  let g := s.group gid
  let stay := g.status == .running && g.subs.any (·.mid)
  if g.status == .gone || g.status == .draining then s
  else if stay then s.setGroup gid { g with subs := g.subs.filter (·.mid), wake := none, joining := [] }
  else
    let s := (s.retireName gid).releaseCore gid
    let s := s.setMem { s.mem with feWaits := s.mem.feWaits.filter (fun w => w.gid != gid),
                                   commits := s.mem.commits.filter (fun c => c.gid != gid || c.installed) }
    let s := { s with eng := { s.eng with ops := s.eng.ops.filter (fun o => !(o.gid == gid && o.latched)) } }
    let s := s.setTeam g.teamKey { s.team g.teamKey with stopped := true }
    if g.status == .running then
      s.setGroup gid { g with status := .draining, stopped := true, subs := [], joining := [], wake := none, trap := none,
                              parked := [], nameIdx := 0 }
    else
      let s := s.freeGroup gid
      if (s.team g.teamKey).gids.all (fun k => (s.group k).status == .gone) then s.retireTeam g.teamKey else s

/-- Every group of the grid stops at its next instruction boundary, and the grid then completes with `status`. Engine
commands in flight are left to finish; operations at the sites of a steered grid are never performed (06 R104, R108).
Names of one clock are retired in ascending index (07 R141). -/
def State.stopGrid (s : State) (k status : Nat) : State :=
  let gr := s.grid k
  if gr.status = .done || gr.status = .none || gr.stopping || gr.ending.isSome then s
  else
    let gs := FMap.sortBy (fun g => (s.group g).nameIdx) (s.gridGids k)
    let s := s.setGrid k { gr with stopping := true, code := status }
    let here (g : Nat) : Bool := gr.steered && gs.contains g
    let s := s.setMem { s.mem with commits := s.mem.commits.filter (fun c => !here c.gid),
                                   homeOps := s.mem.homeOps.filter (fun o => !here o.gid),
                                   fabric := s.mem.fabric.filter (fun o => !here o.gid) }
    let s := { s with eng := { s.eng with deliveries := s.eng.deliveries.filter (fun d => !(gr.steered && d.grid == k)) } }
    let s := s.setGrid k { s.grid k with steer := { (s.grid k).steer with ops := [] } }
    let s := if gr.steered then
        gs.foldl (fun s g => s.setGroup g { s.group g with subs := (s.group g).subs.map (fun x => { x with stage := 0 }), posted := 0 }) s
      else s
    let s := gs.foldl (fun s g => s.stopGroup g) s
    if (s.gridGids k).isEmpty && (s.grid k).status != .done && (s.grid k).ending.isNone then s.completeGrid k status else s

end Sys2Proof.Machine
end

