-- ==== Sys2Proof/Machine/Ops.lean ====
section
/-! DEFINITION. The named operations that every meaning is built from: taking an exception and returning from one
(10 R191 to R197), parking and waiting (05 R87), the budget, pending and hold checks (07 R124, R128, R144), and the
two ways an instruction is issued (07 R119, 17 R314). -/

namespace Sys2Proof.Machine
open Sys2Proof

/-! ## Trap classes (R191) -/

def ILLEGAL : Nat := 0
def UNIFORM : Nat := 1
def SEGMENT : Nat := 2
def MEMORY : Nat := 3
def BOUND : Nat := 4
def BUDGET : Nat := 5
def QUEUE : Nat := 6
def GANG : Nat := 7
def NAME : Nat := 8
def FABRIC : Nat := 9
def MATRIX : Nat := 10
def STEER : Nat := 11
def DEBUG : Nat := 12
def SOFT : Nat := 13

/-! ## The side buffer (R196) -/

def bytesOfMask (m : Mask) : List Byte := bytesOfNat 16 m.toNat

def sideHeader (t : Trap) : List Byte :=
  bytesOfNat 8 t.pc ++ bytesOfNat 8 t.npc ++ bytesOfNat 8 t.apc ++ bytesOfNat 1 t.cls ++ bytesOfNat 1 t.sub ++
    bytesOfNat 1 t.flags ++ bytesOfNat 1 t.mslot ++ bytesOfNat 1 t.mop ++ bytesOfNat 1 t.regcls ++
    bytesOfNat 1 t.regnum ++ bytesOfNat 1 0 ++ bytesOfMask t.lanes ++ bytesOfNat 4 t.insn ++ bytesOfNat 4 t.ext ++
    bytesOfNat 8 t.engpc ++ bytesOfNat 64 0

def sideLane (t : Trap) (l : Nat) : List Byte :=
  if t.lanes.has l then
    let r := t.recs.get {} l
    bytesOfNat 8 r.addr.toNat ++ bytesOfNat 1 r.sub ++ bytesOfNat 1 r.space ++ bytesOfNat 2 0 ++
      bytesOfNat 4 r.operand.toNat
  else bytesOfNat 16 0

/-- The side buffer of a trap; the continuation area keeps its bytes. -/
def sideBuffer (t : Trap) (old : FMap Byte) : FMap Byte :=
  let front := FMap.ofBytes 0 (sideHeader t ++ (List.range 128).flatMap (sideLane t))
  ⟨front.cells ++ old.range 0x880 0x40⟩

/-! ## Entering a handler (R194) -/

/-- The trap subgroups of a partition that wait for the handler set, first served first: (since, slot, group). -/
def State.trapQueue (s : State) (pk : Nat) : List (Nat × Nat × Nat) :=
  s.groups.cells.filterMap (fun c =>
    match c.2.trap with
    | some t => if c.2.partKey == pk && !t.entered && c.2.status == .running then some (t.since, c.2.slot, c.1) else none
    | none => none)

/-- The head of a queue: the least clock, ties to the lower slot. -/
def queueHead : List (Nat × Nat × Nat) → Option Nat
  | [] => none
  | x :: t => some (t.foldl (fun (b : Nat × Nat × Nat) y =>
      if y.1 < b.1 || (y.1 == b.1 && y.2.1 < b.2.1) then y else b) x).2.2

/-- What the handler registers of the trap lanes hold at entry. -/
def entryT (t : Trap) (r l : Nat) : Word :=
  let a := (t.recs.get {} l).addr.toNat
  match r with
  | 0 => BitVec.ofNat 32 (t.cls + t.sub * 2 ^ 8 + l * 2 ^ 16)
  | 1 => BitVec.ofNat 32 a
  | 2 => BitVec.ofNat 32 (a / 2 ^ 32)
  | _ => 0

/-- Enters the handler of group `gid`'s trap subgroup: side buffer, t0 to t15, PC (R194). -/
def State.enterHandler (s : State) (gid : Nat) : State :=
  let g := s.group gid
  match g.trap with
  | none => s
  | some t =>
    let p := s.part g.partKey
    let ts := (List.range 16).foldl (fun m r =>
      m.set ({} : Lanes) r ((m.get {} r).merge t.lanes (entryT t r))) p.t
    let bad := (p.bad.map (fun b => (b.1, b.2.diff t.lanes))).filter (fun b => b.2 != 0)
    let s := s.setPart g.partKey { p with t := ts, owner := some gid, bad }
    s.setGroup gid
      { g with side := sideBuffer t g.side, trap := some { t with entered := true },
               subs := g.subs ++ [{ lanes := t.lanes, pc := (g.spec.trapbase + 64 * t.cls) % 2 ^ 64, handler := true,
                                    since := s.clock }] }

/-- If the handler set of a partition is free, the head of its queue enters. -/
def State.serveHandler (s : State) (pk : Nat) : State :=
  match (s.part pk).owner with
  | some _ => s
  | none =>
    match queueHead (s.trapQueue pk) with
    | some gid => s.enterHandler gid
    | none => s

/-! ## Taking an exception (R192, R193, R195) -/

/-- A fatal trap: the side buffer of the slot is written and the grid stops with status 2. -/
def State.fatal (s : State) (gid : Nat) (t : Trap) : State :=
  let g := s.group gid
  let side := sideBuffer t g.side
  let s := s.stopGrid g.grid 2
  { s with host := { s.host with lastFatal := some (g.die, g.core, g.slot), fatalSide := side } }

/-- The lanes of `t` take the exception: they become the group's trap subgroup, or wait behind one it holds. -/
def State.takeTrap (s : State) (gid : Nat) (handler : Bool) (t : Trap) : State :=
  let g := s.group gid
  if handler || g.spec.trapbase = 0 then s.fatal gid t
  else
    let t := { t with since := s.clock }
    match g.trap with
    | some _ => s.setGroup gid { g with parked := g.parked ++ [t] }
    | none => (s.setGroup gid { g with trap := some t }).serveHandler g.partKey

/-- The detail that every trap of the current instruction shares. -/
def State.trapBase (s : State) (cls sub : Nat) (lanes : Mask) : Trap :=
  let c := s.cur
  { cls, sub, lanes, pc := c.pc, npc := c.npc, insn := c.w0, ext := if c.len = 8 then c.w1 else 0,
    flags := if c.micro.isSome then 2 else 0,
    mslot := (c.micro.getD (0, 0)).1, mop := (c.micro.getD (0, 0)).2, maux := c.maux,
    recs := ⟨lanes.list.map (fun l => (l, { sub }))⟩ }

/-! ## The handler ends (R194, R195, R197) -/

/-- The set is freed; a parked trap subgroup takes its place in the queue, and the head enters. -/
def State.freeHandler (s : State) (gid : Nat) : State :=
  let g := s.group gid
  let p := s.part g.partKey
  let s := s.setPart g.partKey { p with owner := none }
  let s := match g.parked with
    | [] => s.setGroup gid { g with trap := none }
    | t :: r => s.setGroup gid { g with trap := some { t with since := s.clock }, parked := r }
  s.serveHandler g.partKey

/-- Where RFT sends each lane of the trap subgroup: form 0 RETRY, 1 NEXT, 2 JUMP (R197). -/
def rftTarget (form : Nat) (t : Trap) (t15 : Lanes) (l : Nat) : Nat :=
  match form with
  | 0 => t.pc
  | 1 => t.npc
  | _ => t.pc / 2 ^ 32 * 2 ^ 32 ||| (t15.get l).toNat

/-- The return from an exception: the trap subgroup's lanes leave the handler, and the set is freed. -/
def State.rft (s : State) (gid form : Nat) : State :=
  let g := s.group gid
  match g.trap with
  | none => s
  | some t =>
    let lanes := t.lanes &&& g.live
    let t15 := (s.part g.partKey).t.get {} 15
    let base : Group := { g with subs := g.subs.filter (fun x => !x.handler),
                                 joining := (g.joining.map (fun j => (j.1.diff lanes, j.2))).filter (fun j => j.1 != 0) }
    let pcs := uniq (lanes.list.map (rftTarget form t t15))
    let g1 :=
      if form == 0 && t.flags / 2 % 2 == 1 then
        { base with subs := base.subs ++ [{ lanes, pc := t.pc, micro := some (t.mslot, t.mop), maux := t.maux,
                                             since := s.clock }] }
      else pcs.foldl (fun g pc =>
        g.arriveAt (Mask.of (fun l => lanes.has l && rftTarget form t t15 l == pc)) pc false s.clock) base
    let g2 := if form == 0 && t.flags % 2 == 1 then { g1 with a := { g1.a with fault := none } } else g1
    (s.setGroup gid g2).freeHandler gid

/-! ## Ends of an issue -/

/-- The subgroup moves on; the instruction counts as issued, and S parks the group (07 R127, R237). -/
def State.finish (s : State) (sbit : Bool) (mv : Moves) : State :=
  let s := if s.cur.aslice then s.aGoto s.cur.npc else s.leave mv
  let g := s.g
  if s.cur.aslice then s.setG { g with retired := g.retired + 1 }
  else s.setG { g with issued := g.issued + 1, retired := g.retired + 1, marker := g.marker || sbit, wake := none }

/-- The instruction raises a trap at `t.lanes`; the other lanes of the subgroup go where `mv` says. An A-slice
stops at the instruction instead (07 R139). -/
def State.raise (s : State) (sbit : Bool) (t : Trap) (mv : Moves) : State :=
  let s := s.clearFailed s.me
  if s.cur.aslice then
    let g := s.g
    s.setG { g with a := { g.a with fault := some { t with apc := s.cur.pc, flags := t.flags ||| 1 }, wait := .none } }
  else
    let h := s.cur.handler
    let gid := s.cur.gid
    let s := s.finish sbit { mv with gone := mv.gone ||| t.lanes }
    s.takeTrap gid h t

/-- A trap at every lane of `m`, with no lane record but the sub-code. -/
def State.raiseAll (s : State) (sbit : Bool) (cls sub : Nat) (m : Mask) : State :=
  s.raise sbit (s.trapBase cls sub m) {}

/-- The same, naming a register (R196). -/
def State.raiseReg (s : State) (sbit : Bool) (cls sub : Nat) (m : Mask) (regcls regnum : Nat) : State :=
  s.raise sbit { s.trapBase cls sub m with regcls, regnum } {}

/-- A trap at every lane of `m` whose lane records all hold one address. -/
def State.raiseAddr (s : State) (sbit : Bool) (cls sub : Nat) (m : Mask) (addr space : Nat) : State :=
  s.raise sbit { s.trapBase cls sub m with
    recs := ⟨m.list.map (fun l => (l, { addr := BitVec.ofNat 64 addr, sub, space }))⟩ } {}

/-- A fault of one lane. -/
structure LaneFault where
  lane : Nat
  cls : Nat
  sub : Nat
  addr : Nat := 0
  space : Nat := 0
  operand : Word := 0
  deriving DecidableEq, Repr

/-- The instruction ends with some lanes faulting: the class of the lowest is raised, lanes of another class stay,
and the rest go where `jumps` says (R193, 16 R290). -/
def State.endLanes (s : State) (sbit : Bool) (fs : List LaneFault) (mv : Moves) : State :=
  match fs with
  | [] => s.finish sbit mv
  | f :: t =>
    let low := t.foldl (fun (b : LaneFault) x => if x.lane < b.lane then x else b) f
    let here := fs.filter (fun x => x.cls == low.cls)
    let lanes := Mask.of (fun l => here.any (fun x => x.lane == l))
    let other := Mask.of (fun l => fs.any (fun x => x.lane == l && x.cls != low.cls))
    let recs : FMap LaneRec := ⟨lanes.list.map (fun l =>
      match here.find? (fun x => x.lane == l) with
      | some x => (l, { addr := BitVec.ofNat 64 x.addr, sub := x.sub, space := x.space, operand := x.operand })
      | none => (l, {}))⟩
    s.raise sbit { s.trapBase low.cls low.sub lanes with recs } { mv with stay := mv.stay ||| other }

/-! ## Waiting (R87 and the interlocks) -/

/-- The group parks at a blocking point; in a handler that is a double fault (R194). -/
def State.park (s : State) (sbit : Bool) (c : Cond) : State :=
  if s.cur.handler then s.raiseAll sbit ILLEGAL 4 s.cur.lanes
  else
    let since := match s.g.sub s.cur with | some x => if x.parkedAt = 0 then s.clock else x.parkedAt | none => s.clock
    let met := match c with | .page _ _ | .hold _ => false | _ => true
    let g := s.g.modSub s.cur (fun x => { x with wait := c, parkedAt := since, tested := x.tested || met })
    s.setG { g with wake := some { cond := c, lanes := s.cur.lanes, since } }

/-- The subgroup, or the A-slice, waits at an interlock and issues the instruction again. -/
def State.waitOn (s : State) (c : Cond) (stage : Nat := 0) (aux : Nat := 0) : State :=
  let g := s.g
  if s.cur.aslice then s.setG { g with a := { g.a with wait := c } }
  else s.setG (g.modSub s.cur (fun x => { x with wait := c, stage := stage, aux := aux }))

/-! ## The checks before an instruction acts -/

/-- Checks 2 to 6 of 13 R240: 0, or the sub-code of ILLEGAL. -/
def State.decodeCode (s : State) (i : Instr) (aOk sup needHandler : Bool) : Nat :=
  if s.cur.aslice && !aOk then 5
  else if sup && !s.supervisor then 6
  else if needHandler && !s.cur.handler then 4
  else i.wfCode

/-- The vector register that a footprint names above the budget (R124). -/
def Group.overBudget (g : Group) (f : Foot) : Option Nat := (f.vr ++ f.vw).find? (fun r => vLimit g.budget ≤ r)

/-- A pending register that a footprint reads or writes: sub-code, class, number (R128). -/
def Group.pendingHit (g : Group) (f : Foot) : Option (Nat × Nat × Nat) :=
  let find (sub cls : Nat) (l p : List Nat) : Option (Nat × Nat × Nat) :=
    (l.find? (fun r => p.contains r)).map (fun r => (sub, cls, r))
  ((find 1 0 f.vr g.pendV).or <| (find 1 1 f.sr g.pendS).or <| (find 1 2 f.pr g.pendP).or <| find 1 3 f.qr g.pendQ).or
    ((find 2 0 f.vw g.pendV).or <| (find 2 1 f.sw g.pendS).or <| (find 2 2 f.pw g.pendP).or <| find 2 3 f.qw g.pendQ)

/-- A held register that a footprint reads (R144). -/
def Group.heldHit (g : Group) (f : Foot) : Option Nat := f.vr.find? (fun r => g.holds.get 0 r != 0)

/-- A source word with uncorrectable data at the lanes m: SOFT sub-code and the lanes that read it (01 R24). -/
def Group.softHit (g : Group) (f : Foot) (m : Mask) : Option (Nat × Mask) :=
  let hit (cls : Nat) (l : List Nat) : Mask :=
    (g.bad.filter (fun b => b.1 == cls && l.contains b.2.1)).foldl (fun a b => a ||| b.2.2) 0
  let v := hit 0 f.vr &&& m
  let o := (hit 1 f.sr ||| hit 2 f.pr ||| hit 3 f.qr ||| hit 4 f.xr) &&& m
  if v != 0 then some (1, v) else if o != 0 then some (2, o) else none

/-- Registers written whole no longer hold bad words. -/
def Group.mend (g : Group) (f : Foot) (m : Mask) : Group :=
  if g.bad.isEmpty then g else
    { g with bad := (g.bad.map (fun b =>
        if (b.1 == 0 && f.vw.contains b.2.1) || (b.1 == 1 && f.sw.contains b.2.1) || (b.1 == 2 && f.pw.contains b.2.1)
            || (b.1 == 3 && f.qw.contains b.2.1) || (b.1 == 4 && f.xw.contains b.2.1) then (b.1, b.2.1, b.2.2.diff m) else b)).filter (fun b => b.2.2 != 0) }

/-- A completed read of a register ends its last delivery's claim on code 0x06 (06 R93). -/
def Group.noteReads (g : Group) (f : Foot) : Group :=
  if g.lastDelivery.cells.isEmpty then g
  else { g with lastDelivery := f.vr.foldl (fun m r => m.set 0 r 0) g.lastDelivery }

/-! ## The operand latch (07 R126): it changes timing only -/

/-- One source is held: renewed, or put in place of the least recently filled entry. -/
def latchHold (l : List (Nat × Nat × Nat)) (gid r : Nat) : List (Nat × Nat × Nat) :=
  if l.any (fun e => e.1 == gid && e.2.1 == r) then l.map (fun e => if e.1 == gid && e.2.1 == r then (gid, r, 2) else e)
  else (if 3 ≤ l.length then l.tail else l) ++ [(gid, r, 2)]

/-- The latch after an instruction: its sources use their entries, its writes free them, and its hold field fills
them. Only the LA format has a hold field: bit 31 is 0 and the opcode lies below 0x60. -/
def State.noteLatch (s : State) (f : Foot) : State :=
  let c := s.cur
  let pk := s.g.partKey
  let p := s.part pk
  let used := (p.latch.map (fun e => if e.1 == c.gid && f.vr.contains e.2.1 then (e.1, e.2.1, e.2.2 - 1) else e)).filter
    (fun e => e.2.2 ≠ 0 && !(e.1 == c.gid && f.vw.contains e.2.1))
  let la := c.w0 / 2 ^ 31 % 2 == 0 && c.w0 / 2 ^ 18 % 128 < 0x60
  let hold (bit r : Nat) (op : Option Nat) (l : List (Nat × Nat × Nat)) : List (Nat × Nat × Nat) :=
    if la && c.w0 / 2 ^ bit % 2 == 1 && op == some r && !f.vw.contains r then latchHold l c.gid r else l
  let l := hold 29 (c.w0 % 64) (f.vr.drop f.na).head? (hold 28 (c.w0 / 64 % 64) f.vr.head? used)
  if l == p.latch then s else s.setPart pk { p with latch := l }

/-- The lanes `l` of the current subgroup leave it for the trap `t`; the others are the subgroup. -/
def State.splitTrap (s : State) (l : Mask) (t : Trap) : State :=
  let c := s.cur
  let g := s.g.modSub c (fun x => { x with lanes := x.lanes.diff l })
  ({ s.setG g with cur := { c with lanes := c.lanes.diff l } } : State).takeTrap c.gid c.handler t

/-- SOFT at the lanes `l`: the other lanes of `m` complete the instruction (R193). -/
def State.soft (s : State) (sbit : Bool) (sub : Nat) (l m : Mask) (k : Mask → State → Out) : Out :=
  if m.diff l = 0 || s.cur.aslice then .next (s.raiseAll sbit SOFT sub l)
  else
    let t := s.splitTrap l (s.trapBase SOFT sub l)
    if t.g.status == .running then k (m.diff l) t else .next t

/-- Budget, pending, hold and soft-error checks at the lanes `m`; then `k` at the lanes that read no bad word. -/
def State.checked (s : State) (sbit : Bool) (f : Foot) (m : Mask) (k : Mask → State → Out) : Out :=
  match s.g.overBudget f with
  | some r => .next (s.raiseReg sbit BUDGET 1 m 0 r)
  | none =>
    match s.g.pendingHit f with
    | some (sub, cls, r) => .next (s.raiseReg sbit SEGMENT sub m cls r)
    | none =>
      match s.g.heldHit f with
      | some r => .next (s.park sbit (.hold r))
      | none =>
        let go (m : Mask) (s : State) : Out :=
          let g := s.g
          k m ((s.setG ((g.noteReads f).mend f m)).noteLatch f)
        match s.g.softHit f m with
        | some (sub, l) => s.soft sbit sub l m go
        | none => go m s

/-- Lanes of the subgroup whose guard holds (07 R119). -/
def State.active (s : State) (guard : BitVec 3) : Mask := s.cur.lanes &&& s.g.guardL guard

/-- The issue of an L-set instruction (at a later stage its checks have been made): guard, decoding checks, register checks, then `k` on the active lanes.
A subgroup with no active lane passes over the word (13 R240). -/
def laneIssue (i : Instr) (sbit : Bool) (guard : BitVec 3) (f : Foot) (needHandler : Bool) (s : State)
    (k : Mask → State → Out) : Out :=
  let m := s.active guard
  if s.cur.stage ≠ 0 then k m s
  else if s.cur.aslice then .next (s.raiseAll sbit ILLEGAL 5 Mask.full)
  else if m = 0 then .next (s.finish sbit {})
  else
    let c := s.decodeCode i false false needHandler
    if c ≠ 0 then .next (s.raiseAll sbit ILLEGAL c m)
    else s.checked sbit { f with pr := preds guard ++ f.pr } m k

/-- Register numbers of a G-set instruction above 15 in an A-slice (07 R132). -/
def aRegsOk (s : State) (f : Foot) : Bool := !s.cur.aslice || (f.sr ++ f.sw).all (fun r => r < 16)

/-- The issue of a G-set instruction (at a later stage its checks have been made): it executes once (17 R314). `aOk` says whether an A-slice may hold it. -/
def groupIssue (i : Instr) (sbit : Bool) (guard : BitVec 3) (f : Foot) (aOk sup needHandler : Bool) (s : State)
    (k : State → Out) : Out :=
  let m := s.cur.lanes
  if s.cur.stage ≠ 0 then k s
  else if !s.cur.aslice && !s.g.guardG guard then .next (s.finish sbit {})
  else
    let c := s.decodeCode i (aOk && guard == 7) sup needHandler
    if c ≠ 0 then .next (s.raiseAll sbit ILLEGAL c m)
    else if !aRegsOk s f then .next (s.raiseAll sbit ILLEGAL 3 m)
    else if s.cur.aslice then k s
    else s.checked sbit { f with qr := preds guard ++ f.qr } m (fun _ => k)

/-- Adds a long result: its registers are pending until it is written (07 R127). -/
def State.addLong (s : State) (x : Long) : State :=
  let (id, s) := s.fresh
  let g := s.g
  s.setG { g with longs := g.longs ++ [{ x with id := id, at_ := s.clock, pc := s.cur.pc }] }

end Sys2Proof.Machine
end

