-- ==== Sys2Proof/Machine/LaneArith.lean ====
section
/-! DEFINITION. The lane arithmetic and conversions (15): one meaning for each instruction, over two shared issues,
one that writes a vector register and one that writes a lane predicate. -/

namespace Sys2Proof.Machine
open Sys2Proof

/-- Writes `n` registers from d at the active lanes, now or as a long result, and ORs the flags (R265, R254). -/
def writeLanes (d n : Nat) (long : Bool) (m : Mask) (val : Nat → Nat × Nat) (s : State) : State :=
  let fl := orLanes m (fun l => (val l).2)
  if long then
    let word (j l : Nat) : Word := BitVec.ofNat 32 ((val l).1 / 2 ^ (32 * j))
    s.addLong { vs := (List.range n).map (fun j => (d + j, m, Lanes.make (word j))), flags := fl }
  else
    let g := s.g
    s.setG ((g.writeVN d m (fun l => (val l).1) n).orFlags fl)

/-- Writes a lane predicate at the active lanes. -/
def writePred (p : Nat) (long : Bool) (m : Mask) (val : Nat → Bool × Nat) (s : State) : State :=
  let fl := orLanes m (fun l => (val l).2)
  let x := Mask.of (fun l => (val l).1)
  if long then s.addLong { ps := [(p, m, x)], flags := fl }
  else
    let g := s.g
    s.setG ((g.writeP p m x).orFlags fl)

/-- An instruction that writes a vector register: `val` gives the value and flags of one active lane. -/
def aluIssue (i : Instr) (w : LA) (f : Foot) (n : Nat) (long : Bool) (val : Group → Mask → Nat → Nat × Nat)
    (s : State) : Out :=
  laneIssue i w.s w.guard { f with vw := regs w.d n ++ f.vw } false s (fun m s =>
    .next ((writeLanes w.d.toNat n long m (val s.g m) s).finish w.s {}))

/-- An instruction that writes the lane predicate pd. -/
def predIssue (i : Instr) (w : LA) (x : LXA) (f : Foot) (long : Bool) (val : Group → Mask → Nat → Bool × Nat)
    (s : State) : Out :=
  laneIssue i w.s w.guard { f with pw := preds x.pd ++ f.pw } false s (fun m s =>
    .next ((writePred x.pd.toNat long m (val s.g m) s).finish w.s {}))

/-! ## Moves (R268) -/

/-- NOP (R268). -/
def execNop (w : LA) (s : State) : Out :=
  laneIssue (.nop w) w.s w.guard {} false s (fun _ s => .next (s.finish w.s {}))

/-- MOV between v registers, and to and from the handler registers (R268, 13 R235). -/
def execMov (w : LA) (s : State) : Out :=
  match w.b.toNat with
  | 0 => aluIssue (.mov w) w { vr := regs w.a 1 } 1 false (fun g _ l => ((g.src w.a l).toNat, 0)) s
  | 1 =>
    laneIssue (.mov w) w.s w.guard { vr := regs w.a 1 } true s (fun m s =>
      let g := s.g
      let p := s.part g.partKey
      .next ((s.setPart g.partKey
        { p with t := p.t.set {} w.d.toNat ((p.t.get {} w.d.toNat).merge m (g.src w.a)),
                 bad := (p.bad.map (fun b => if b.1 == w.d.toNat then (b.1, b.2.diff m) else b)).filter (fun b => b.2 != 0) }).finish
        w.s {}))
  | _ =>
    laneIssue (.mov w) w.s w.guard { vw := regs w.d 1 } (w.b == 2) s (fun m s =>
      let p := s.part s.g.partKey
      let bad := (p.bad.filter (fun b => b.1 == w.a.toNat)).foldl (fun a b => a ||| b.2) 0 &&& m
      let go (m : Mask) (s : State) : Out :=
        .next ((s.setG (s.g.writeV w.d.toNat m (p.t.get {} w.a.toNat).get)).finish w.s {})
      if bad != 0 then s.soft w.s 1 bad m go else go m s)

/-- MOVI (R268). -/
def execMovi (w : LA) (lit : Word) (s : State) : Out :=
  aluIssue (.movi w lit) w {} 1 false (fun _ _ _ => (lit.toNat, 0)) s

/-! ## Integer arithmetic (R269, R270, R271) -/

/-- IADD: A + B (R269). -/
def execIadd (w : LA) (x : LXA) (s : State) : Out :=
  aluIssue (.iadd w x) w { vr := footAB 1 w x } 1 false (fun g _ l =>
    ((Alu.fit x.ty x.sat (intVal x.ty (g.src w.a l) + intVal x.ty (g.intB w x l))).toNat, 0)) s

/-- ISUB: A − B (R269). -/
def execIsub (w : LA) (x : LXA) (s : State) : Out :=
  aluIssue (.isub w x) w { vr := footAB 1 w x } 1 false (fun g _ l =>
    ((Alu.fit x.ty x.sat (intVal x.ty (g.src w.a l) - intVal x.ty (g.intB w x l))).toNat, 0)) s

/-- IMUL: A × B (R269). -/
def execImul (w : LA) (x : LXA) (s : State) : Out :=
  aluIssue (.imul w x) w { vr := footAB 1 w x } 1 false (fun g _ l =>
    ((Alu.fit x.ty x.sat (intVal x.ty (g.src w.a l) * intVal x.ty (g.intB w x l))).toNat, 0)) s

/-- IMULH: the high word of the product (R269). -/
def execImulh (w : LA) (x : LXA) (s : State) : Out :=
  aluIssue (.imulh w x) w { vr := footAB 1 w x } 1 false (fun g _ l =>
    ((Alu.imulh x.ty (g.src w.a l) (g.intB w x l)).toNat, 0)) s

/-- IMAD: A × B + C (R269). -/
def execImad (w : LA) (x : LXA) (s : State) : Out :=
  aluIssue (.imad w x) w { vr := footABC 1 w x } 1 false (fun g _ l =>
    ((Alu.fit x.ty x.sat (intVal x.ty (g.src w.a l) * intVal x.ty (g.src w.b l) + intVal x.ty (g.src x.c l))).toNat, 0)) s

/-- IMIN: the lesser (R269). -/
def execImin (w : LA) (x : LXA) (s : State) : Out :=
  aluIssue (.imin w x) w { vr := footAB 1 w x } 1 false (fun g _ l =>
    ((Alu.fit x.ty x.sat (min (intVal x.ty (g.src w.a l)) (intVal x.ty (g.intB w x l)))).toNat, 0)) s

/-- IMAX: the greater (R269). -/
def execImax (w : LA) (x : LXA) (s : State) : Out :=
  aluIssue (.imax w x) w { vr := footAB 1 w x } 1 false (fun g _ l =>
    ((Alu.fit x.ty x.sat (max (intVal x.ty (g.src w.a l)) (intVal x.ty (g.intB w x l)))).toNat, 0)) s

/-- IABS (R269). -/
def execIabs (w : LA) (x : LXA) (s : State) : Out :=
  aluIssue (.iabs w x) w { vr := regs w.a 1 } 1 false (fun g _ l =>
    ((Alu.fit x.ty x.sat ((g.src w.a l).toInt.natAbs)).toNat, 0)) s

/-- INEG (R269). -/
def execIneg (w : LA) (x : LXA) (s : State) : Out :=
  aluIssue (.ineg w x) w { vr := regs w.a 1 } 1 false (fun g _ l =>
    ((Alu.fit x.ty x.sat (-(g.src w.a l).toInt)).toNat, 0)) s

/-- LEA: a 64-bit address (R270). -/
def execLea (w : LA) (x : LXA) (s : State) : Out :=
  aluIssue (.lea w x) w { na := 2, vr := regs w.a 2 ++ (if x.c = 1 then [] else regs w.b 1) } 2 false (fun g _ l =>
    (Alu.lea x.ty (g.src64 w.a l) (g.intB w x l), 0)) s

/-- ISET: the condition into pd (R271, R267). -/
def execIset (w : LA) (x : LXA) (s : State) : Out :=
  predIssue (.iset w x) w x { vr := footAB 1 w x } false (fun g _ l =>
    (intCond (w.d.toNat % 16) (intVal x.ty (g.src w.a l)) (intVal x.ty (g.intB w x l)), 0)) s

/-! ## Logic, shifts and bit fields (R272 to R276) -/

/-- AND (R272). -/
def execAnd (w : LA) (x : LXA) (s : State) : Out :=
  aluIssue (.andL w x) w { vr := footAB 1 w x } 1 false (fun g _ l =>
    ((g.src w.a l &&& g.intB w x l).toNat, 0)) s

/-- OR (R272). -/
def execOr (w : LA) (x : LXA) (s : State) : Out :=
  aluIssue (.orL w x) w { vr := footAB 1 w x } 1 false (fun g _ l =>
    ((g.src w.a l ||| g.intB w x l).toNat, 0)) s

/-- XOR (R272). -/
def execXor (w : LA) (x : LXA) (s : State) : Out :=
  aluIssue (.xorL w x) w { vr := footAB 1 w x } 1 false (fun g _ l =>
    ((g.src w.a l ^^^ g.intB w x l).toNat, 0)) s

/-- ANDN: A AND NOT B (R272). -/
def execAndn (w : LA) (x : LXA) (s : State) : Out :=
  aluIssue (.andnL w x) w { vr := footAB 1 w x } 1 false (fun g _ l =>
    ((g.src w.a l &&& ~~~(g.intB w x l)).toNat, 0)) s

/-- NOT (R272). -/
def execNot (w : LA) (x : LXA) (s : State) : Out :=
  aluIssue (.notL w x) w { vr := regs w.a 1 } 1 false (fun g _ l =>
    ((~~~(g.src w.a l)).toNat, 0)) s

/-- SHL (R272). -/
def execShl (w : LA) (x : LXA) (s : State) : Out :=
  aluIssue (.shl w x) w { vr := footAB 1 w x } 1 false (fun g _ l =>
    ((Alu.shl (g.src w.a l) (g.intB w x l)).toNat, 0)) s

/-- SHR (R272). -/
def execShr (w : LA) (x : LXA) (s : State) : Out :=
  aluIssue (.shr w x) w { vr := footAB 1 w x } 1 false (fun g _ l =>
    ((Alu.shr (g.src w.a l) (g.intB w x l)).toNat, 0)) s

/-- SAR (R272). -/
def execSar (w : LA) (x : LXA) (s : State) : Out :=
  aluIssue (.sar w x) w { vr := footAB 1 w x } 1 false (fun g _ l =>
    ((Alu.sar (g.src w.a l) (g.intB w x l)).toNat, 0)) s

/-- ROTL (R272). -/
def execRotl (w : LA) (x : LXA) (s : State) : Out :=
  aluIssue (.rotl w x) w { vr := footAB 1 w x } 1 false (fun g _ l =>
    ((Alu.rotl (g.src w.a l) (g.intB w x l)).toNat, 0)) s

/-- POPC (R272). -/
def execPopc (w : LA) (x : LXA) (s : State) : Out :=
  aluIssue (.popc w x) w { vr := regs w.a 1 } 1 false (fun g _ l =>
    ((Alu.popc (g.src w.a l)).toNat, 0)) s

/-- CLZ (R272). -/
def execClz (w : LA) (x : LXA) (s : State) : Out :=
  aluIssue (.clz w x) w { vr := regs w.a 1 } 1 false (fun g _ l =>
    ((Alu.clz (g.src w.a l)).toNat, 0)) s

/-- BREV (R272). -/
def execBrev (w : LA) (x : LXA) (s : State) : Out :=
  aluIssue (.brev w x) w { vr := regs w.a 1 } 1 false (fun g _ l =>
    ((Alu.brev (g.src w.a l)).toNat, 0)) s

/-- BFE: a bit field, extended (R273). -/
def execBfe (w : LA) (x : LXA) (s : State) : Out :=
  aluIssue (.bfe w x) w { vr := footAB 1 w x } 1 false (fun g _ l =>
    ((Alu.bfe x.ty (g.src w.a l) (g.intB w x l)).toNat, 0)) s

/-- BFI: a bit field inserted into C (R273). -/
def execBfi (w : LA) (x : LXA) (s : State) : Out :=
  aluIssue (.bfi w x) w { vr := footABC 1 w x } 1 false (fun g _ l =>
    ((Alu.bfi (g.src w.a l) (g.src w.b l) (g.src x.c l)).toNat, 0)) s

/-- PRMT: bytes selected by nibbles of C (R274). -/
def execPrmt (w : LA) (x : LXA) (s : State) : Out :=
  aluIssue (.prmt w x) w { vr := footABC 1 w x } 1 false (fun g _ l =>
    ((Alu.prmt (g.src w.a l) (g.src w.b l) (g.src x.c l)).toNat, 0)) s

/-- SEL: by a predicate, or bit by bit by C (R275). -/
def execSel (w : LA) (x : LXA) (s : State) : Out :=
  aluIssue (.sel w x) w
    { vr := regs w.a 1 ++ regs w.b 1 ++ (if x.pd = 7 then regs x.c 1 else []), pr := preds x.pd } 1 false
    (fun g _ l =>
      ((if x.pd = 7 then Alu.selBits (g.src w.a l) (g.src w.b l) (g.src x.c l)
        else if (g.pred x.pd.toNat).has l then g.src w.a l else g.src w.b l).toNat, 0)) s

/-- A predicate operand read as a field of three bits; 7 reads true. -/
def predIn (g : Group) (k l : Nat) : Bool := k == 7 || (g.pred k).has l

/-- PSET: a look-up table of two predicates (R276). -/
def execPset (w : LA) (x : LXA) (s : State) : Out :=
  let px := x.imm.toNat / 16 % 8
  let py := x.imm.toNat / 128 % 8
  predIssue (.pset w x) w x { pr := preds (BitVec.ofNat 3 px) ++ preds (BitVec.ofNat 3 py) } false
    (fun g _ l => (lut (x.imm.toNat % 16) (predIn g px l) (predIn g py l), 0)) s

/-! ## FP32 (R277 to R279) -/

/-- FADD (R277). -/
def execFadd (w : LA) (x : LXA) (s : State) : Out :=
  aluIssue (.fadd w x) w { vr := footAB 1 w x } 1 false (fun g _ l =>
    Alu.add Fp.f32 x.rnd (srcFA Fp.f32 g w x l) (srcFB Fp.f32 g w x l)) s

/-- FSUB (R277). -/
def execFsub (w : LA) (x : LXA) (s : State) : Out :=
  aluIssue (.fsub w x) w { vr := footAB 1 w x } 1 false (fun g _ l =>
    Alu.sub Fp.f32 x.rnd (srcFA Fp.f32 g w x l) (srcFB Fp.f32 g w x l)) s

/-- FMUL (R277). -/
def execFmul (w : LA) (x : LXA) (s : State) : Out :=
  aluIssue (.fmul w x) w { vr := footAB 1 w x } 1 false (fun g _ l =>
    Alu.mul Fp.f32 x.rnd (srcFA Fp.f32 g w x l) (srcFB Fp.f32 g w x l)) s

/-- FFMA: A × B + C rounded once (R277). -/
def execFfma (w : LA) (x : LXA) (s : State) : Out :=
  aluIssue (.ffma w x) w { vr := footABC 1 w x } 1 false (fun g _ l =>
    Alu.fma Fp.f32 x.rnd (srcFA Fp.f32 g w x l) (srcFB3 Fp.f32 g w x l) (srcFC Fp.f32 g x l)) s

/-- FMIN (R278). -/
def execFmin (w : LA) (x : LXA) (s : State) : Out :=
  aluIssue (.fmin w x) w { vr := footAB 1 w x } 1 false (fun g _ l =>
    Fp.minMax Fp.f32 false (srcFA Fp.f32 g w x l) (srcFB Fp.f32 g w x l)) s

/-- FMAX (R278). -/
def execFmax (w : LA) (x : LXA) (s : State) : Out :=
  aluIssue (.fmax w x) w { vr := footAB 1 w x } 1 false (fun g _ l =>
    Fp.minMax Fp.f32 true (srcFA Fp.f32 g w x l) (srcFB Fp.f32 g w x l)) s

/-- FSET: the condition into pd (R267). -/
def execFset (w : LA) (x : LXA) (s : State) : Out :=
  predIssue (.fset w x) w x { vr := footAB 1 w x } false (fun g _ l =>
    Fp.cond (w.d.toNat % 16) (Fp.decode Fp.f32 (srcFA Fp.f32 g w x l)) (Fp.decode Fp.f32 (srcFB Fp.f32 g w x l))) s

/-- FCLASS: the class of a value of the type (R279). -/
def execFclass (w : LA) (x : LXA) (s : State) : Out :=
  let t := (Fp.Fmt.ofCode x.ty.toNat).getD Fp.f32
  aluIssue (.fclass w x) w { na := if x.ty == 11 then 2 else 1, vr := regs w.a (if x.ty == 11 then 2 else 1) } 1 false (fun g _ l =>
    (Alu.classOf t (g.codeF t w.a l % 2 ^ (t.w + 1)), 0)) s

/-- FRCP: 1 ÷ A, a long result of the SFU (R277). -/
def execFrcp (w : LA) (x : LXA) (s : State) : Out :=
  aluIssue (.frcp w x) w { vr := regs w.a 1 } 1 true (fun g _ l =>
    Alu.rcp Fp.f32 x.rnd (srcFA Fp.f32 g w x l)) s

/-- FSQRT, a long result of the SFU (R277). -/
def execFsqrt (w : LA) (x : LXA) (s : State) : Out :=
  aluIssue (.fsqrt w x) w { vr := regs w.a 1 } 1 true (fun g _ l =>
    Alu.sqrt Fp.f32 x.rnd (srcFA Fp.f32 g w x l)) s

/-- FRSQ: 1 ÷ √A, a long result of the SFU (R277). -/
def execFrsq (w : LA) (x : LXA) (s : State) : Out :=
  aluIssue (.frsq w x) w { vr := regs w.a 1 } 1 true (fun g _ l =>
    Alu.rsq Fp.f32 x.rnd (srcFA Fp.f32 g w x l)) s

/-- FEX2: 2^A, a long result of the SFU (R277). -/
def execFex2 (w : LA) (x : LXA) (s : State) : Out :=
  aluIssue (.fex2 w x) w { vr := regs w.a 1 } 1 true (fun g _ l =>
    Alu.ex2 Fp.f32 x.rnd (srcFA Fp.f32 g w x l)) s

/-- FLG2: log2 A, a long result of the SFU (R277). -/
def execFlg2 (w : LA) (x : LXA) (s : State) : Out :=
  aluIssue (.flg2 w x) w { vr := regs w.a 1 } 1 true (fun g _ l =>
    Alu.lg2 Fp.f32 x.rnd (srcFA Fp.f32 g w x l)) s

/-! ## FP64 (R280): pairs, and every result long -/

/-- DADD (R280). -/
def execDadd (w : LA) (x : LXA) (s : State) : Out :=
  aluIssue (.dadd w x) w { na := 2, vr := footAB 2 w x } 2 true (fun g _ l =>
    Alu.add Fp.f64 x.rnd (srcFA Fp.f64 g w x l) (srcFB Fp.f64 g w x l)) s

/-- DMUL (R280). -/
def execDmul (w : LA) (x : LXA) (s : State) : Out :=
  aluIssue (.dmul w x) w { na := 2, vr := footAB 2 w x } 2 true (fun g _ l =>
    Alu.mul Fp.f64 x.rnd (srcFA Fp.f64 g w x l) (srcFB Fp.f64 g w x l)) s

/-- DFMA (R280). -/
def execDfma (w : LA) (x : LXA) (s : State) : Out :=
  aluIssue (.dfma w x) w { na := 2, vr := footABC 2 w x } 2 true (fun g _ l =>
    Alu.fma Fp.f64 x.rnd (srcFA Fp.f64 g w x l) (srcFB3 Fp.f64 g w x l) (srcFC Fp.f64 g x l)) s

/-- DMIN (R278). -/
def execDmin (w : LA) (x : LXA) (s : State) : Out :=
  aluIssue (.dmin w x) w { na := 2, vr := footAB 2 w x } 2 true (fun g _ l =>
    Fp.minMax Fp.f64 false (srcFA Fp.f64 g w x l) (srcFB Fp.f64 g w x l)) s

/-- DMAX (R278). -/
def execDmax (w : LA) (x : LXA) (s : State) : Out :=
  aluIssue (.dmax w x) w { na := 2, vr := footAB 2 w x } 2 true (fun g _ l =>
    Fp.minMax Fp.f64 true (srcFA Fp.f64 g w x l) (srcFB Fp.f64 g w x l)) s

/-- DSET: the condition into pd, a long result (R280). -/
def execDset (w : LA) (x : LXA) (s : State) : Out :=
  predIssue (.dset w x) w x { na := 2, vr := footAB 2 w x } true (fun g _ l =>
    Fp.cond (w.d.toNat % 16) (Fp.decode Fp.f64 (srcFA Fp.f64 g w x l)) (Fp.decode Fp.f64 (srcFB Fp.f64 g w x l))) s

/-- DRCP (R280). -/
def execDrcp (w : LA) (x : LXA) (s : State) : Out :=
  aluIssue (.drcp w x) w { na := 2, vr := regs w.a 2 } 2 true (fun g _ l =>
    Alu.rcp Fp.f64 x.rnd (srcFA Fp.f64 g w x l)) s

/-- DSQRT (R280). -/
def execDsqrt (w : LA) (x : LXA) (s : State) : Out :=
  aluIssue (.dsqrt w x) w { na := 2, vr := regs w.a 2 } 2 true (fun g _ l =>
    Alu.sqrt Fp.f64 x.rnd (srcFA Fp.f64 g w x l)) s

/-! ## Packed 16-bit (R281) -/

/-- Half k of sources a, b and c, modifiers applied. -/
def halfA (t : Fp.Fmt) (g : Group) (w : LA) (x : LXA) (l k : Nat) : Nat := Alu.half t x.abs x.na (g.src w.a l) k
def halfB (t : Fp.Fmt) (g : Group) (w : LA) (x : LXA) (l k : Nat) : Nat := Alu.half t x.abs x.nb (g.src w.b l) k
def halfC (t : Fp.Fmt) (g : Group) (x : LXA) (l k : Nat) : Nat := Alu.half t x.abs x.nc (g.src x.c l) k

/-- HADD2 (R281). -/
def execHadd2 (w : LA) (x : LXA) (s : State) : Out :=
  aluIssue (.hadd2 w x) w { vr := regs w.a 1 ++ regs w.b 1 } 1 false (fun g _ l =>
    let t := Alu.packed x.ty
    Alu.halves (fun k => Alu.add t x.rnd (halfA t g w x l k) (halfB t g w x l k))) s

/-- HMUL2 (R281). -/
def execHmul2 (w : LA) (x : LXA) (s : State) : Out :=
  aluIssue (.hmul2 w x) w { vr := regs w.a 1 ++ regs w.b 1 } 1 false (fun g _ l =>
    let t := Alu.packed x.ty
    Alu.halves (fun k => Alu.mul t x.rnd (halfA t g w x l k) (halfB t g w x l k))) s

/-- HFMA2 (R281). -/
def execHfma2 (w : LA) (x : LXA) (s : State) : Out :=
  aluIssue (.hfma2 w x) w { vr := footABC 1 w x } 1 false (fun g _ l =>
    let t := Alu.packed x.ty
    Alu.halves (fun k => Alu.fma t x.rnd (halfA t g w x l k) (halfB t g w x l k) (halfC t g x l k))) s

/-- HMIN2 (R278). -/
def execHmin2 (w : LA) (x : LXA) (s : State) : Out :=
  aluIssue (.hmin2 w x) w { vr := regs w.a 1 ++ regs w.b 1 } 1 false (fun g _ l =>
    let t := Alu.packed x.ty
    Alu.halves (fun k => Fp.minMax t false (halfA t g w x l k) (halfB t g w x l k))) s

/-- HMAX2 (R278). -/
def execHmax2 (w : LA) (x : LXA) (s : State) : Out :=
  aluIssue (.hmax2 w x) w { vr := regs w.a 1 ++ regs w.b 1 } 1 false (fun g _ l =>
    let t := Alu.packed x.ty
    Alu.halves (fun k => Fp.minMax t true (halfA t g w x l k) (halfB t g w x l k))) s

/-! ## Conversion (R282 to R287) -/

/-- The source of a conversion: one register, or a pair for .f64. -/
def cvtSrc (g : Group) (src : Nat) (r : BitVec 6) (l : Nat) : Nat := if src == 11 then g.src64 r l else (g.src r l).toNat

/-- CVT; long when a type is .f64 (R282, R265). -/
def execCvt (w : LA) (x : LXA) (s : State) : Out :=
  let src := x.imm.toNat % 16
  aluIssue (.cvt w x) w { na := if src == 11 then 2 else 1, vr := regs w.a (if src == 11 then 2 else 1) } (if x.ty == 11 then 2 else 1)
    (x.ty == 11 || src == 11)
    (fun g _ l => Fp.convert x.ty.toNat src x.rnd.toNat x.sat (cvtSrc g src w.a l)) s

/-- The scale operand of QNT and DQNT. -/
def scaleOf (g : Group) (w : LA) (x : LXA) (l : Nat) : Fp.Num := Alu.valueOf (x.imm.toNat % 16) (g.src w.b l).toNat

/-- QNT: x ÷ s into a narrow type (R283, 14 R257). -/
def execQnt (w : LA) (x : LXA) (s : State) : Out :=
  aluIssue (.qnt w x) w { vr := regs w.a 1 ++ regs w.b 1 } 1 false (fun g _ l =>
    Fp.quant x.ty.toNat x.rnd.toNat x.sat (Fp.decode Fp.f32 (g.src w.a l).toNat) (scaleOf g w x l)) s

/-- DQNT: x × s into .f32 (R284, 14 R258). -/
def execDqnt (w : LA) (x : LXA) (s : State) : Out :=
  aluIssue (.dqnt w x) w { vr := regs w.a 1 ++ regs w.b 1 } 1 false (fun g _ l =>
    Fp.dequant x.rnd.toNat (Alu.valueOf x.ty.toNat (g.src w.a l).toNat) (scaleOf g w x l)) s

/-- SCLE: one scale for the active lanes of each block of 32 lanes (R285, 14 R259). -/
def execScle (w : LA) (x : LXA) (s : State) : Out :=
  aluIssue (.scle w x) w { vr := regs w.a 1 } 1 false (fun g m l =>
    Fp.scale x.ty.toNat ((m.list.filter (fun j => j / 32 == l / 32)).map (fun j => Fp.decode Fp.f32 (g.src w.a j).toNat))) s

/-- PACK: two converted values shifted into the top of d, which it reads (R286). -/
def execPack (w : LA) (x : LXA) (s : State) : Out :=
  aluIssue (.pack w x) w { vr := regs w.a 1 ++ regs w.b 1 ++ regs w.d 1 } 1 false (fun g _ l =>
    Alu.pack x.ty.toNat (x.imm.toNat % 16) x.rnd.toNat x.sat (g.src w.d l) (g.src w.a l) (g.src w.b l)) s

/-- UNPK: one element converted; long when the destination is .f64 (R287, R265). -/
def execUnpk (w : LA) (x : LXA) (s : State) : Out :=
  aluIssue (.unpk w x) w { vr := regs w.a 1 ++ regs w.b 1 } (if x.ty == 11 then 2 else 1) (x.ty == 11) (fun g _ l =>
    Alu.unpk x.ty.toNat (x.imm.toNat % 16) x.rnd.toNat x.sat (g.src w.a l) (g.src w.b l)) s

end Sys2Proof.Machine
end

