-- ==== Sys2Proof/Machine/CrossLane.lean ====
section
/-! DEFINITION. The cross-lane instructions and FENCE (16 R300 to R306). The participating lanes are the active lanes;
every lane reads before any lane writes. -/

namespace Sys2Proof.Machine
open Sys2Proof

/-- A predicate written beside a register: the flag of each active lane (R301, R304). -/
def writeBoth (d : Nat) (pd : BitVec 3) (m : Mask) (val : Nat → Word × Bool) (s : State) : State :=
  let g := s.g.writeV d m (fun l => (val l).1)
  s.setG (if pd = 7 then g else g.writeP pd.toNat m (Mask.of (fun l => (val l).2)))

/-- SHFL: V(a) of the source lane where it participates, else the lane's own (R301). -/
def execShfl (w : LA) (x : LXA) (s : State) : Out :=
  laneIssue (.shfl w x) w.s w.guard
    { vr := footAB 1 w x, vw := regs w.d 1, pw := preds x.pd } false s (fun m s =>
    let g := s.g
    .next ((writeBoth w.d.toNat x.pd m (fun l => Alu.shfl m (g.src w.a) (g.intB w x l).toNat l) s).finish w.s {}))

/-- VOTE: a predicate combined over the participating lanes (R302). -/
def execVote (w : LA) (x : LXA) (s : State) : Out :=
  let mode := x.imm.toNat / 8 % 8
  let px := x.imm.toNat % 8
  let toPred := mode == 0 || mode == 1 || mode == 4
  laneIssue (.vote w x) w.s w.guard
    { pr := preds (BitVec.ofNat 3 px), vw := if toPred then [] else regs w.d 1, pw := if toPred then preds x.pd else [] }
    false s (fun m s =>
    let g := s.g
    let t := if px == 7 then m else m &&& g.pred px
    let all := t == m
    let any := t != 0
    let b := match mode with
      | 0 => any
      | 1 => all
      | _ => all || !any
    let v : Word := if mode == 2 then BitVec.ofNat 32 (t.toNat / 2 ^ (32 * (x.imm.toNat / 64 % 4)))
      else BitVec.ofNat 32 t.count
    .next ((s.setG (if toPred then g.writeP x.pd.toNat m (if b then Mask.full else 0)
      else g.writeV w.d.toNat m (fun _ => v))).finish w.s {}))

/-- REDUX: the combination over all participating lanes (R303). -/
def execRedux (w : LA) (x : LXA) (s : State) : Out :=
  aluIssue (.redux w x) w { vr := regs w.a 1 } 1 false (fun g m _ =>
    Alu.combine (x.imm.toNat % 8) x.ty x.rnd (m.list.map (g.src w.a))) s

/-- SCAN: the combination over the participating lanes up to each lane (R303). -/
def execScan (w : LA) (x : LXA) (s : State) : Out :=
  aluIssue (.scan w x) w { vr := regs w.a 1 } 1 false (fun g m l =>
    Alu.scan (x.imm.toNat % 8) x.ty x.rnd (x.imm.toNat / 8 % 2 == 1) m (g.src w.a) l) s

/-- MATCH: the lowest participating lane with the same value (R304). -/
def execMatch (w : LA) (x : LXA) (s : State) : Out :=
  laneIssue (.matchL w x) w.s w.guard { vr := regs w.a 1, vw := regs w.d 1, pw := preds x.pd } false s (fun m s =>
    let g := s.g
    let j (l : Nat) : Nat := Alu.matchLane m (g.src w.a) l
    .next ((writeBoth w.d.toNat x.pd m (fun l => (BitVec.ofNat 32 (j l), j l == l)) s).finish w.s {}))

/-- RDLANE: a scalar from the lane that the lowest participating lane names (R305). -/
def execRdlane (w : LA) (x : LXA) (s : State) : Out :=
  laneIssue (.rdlane w x) w.s w.guard { vr := footAB 1 w x, sw := [w.d.toNat] } false s (fun m s =>
    let g := s.g
    .next ((s.setG (g.setS w.d.toNat (g.src w.a ((g.intB w x m.low).toNat % 128)))).finish w.s {}))

/-- MOVS: a scalar into every active lane (R305). -/
def execMovs (w : LA) (s : State) : Out :=
  laneIssue (.movs w) w.s w.guard { sr := [w.a.toNat], vw := regs w.d 1 } false s (fun m s =>
    let g := s.g
    .next ((s.setG (g.writeV w.d.toNat m (fun _ => g.sreg w.a.toNat))).finish w.s {}))

/-- The first of the operations that a FENCE waits for (R306): every access of the named spaces is performed when it
issues, but for atomics on their way to a home, which the fences that name global memory wait for. `bound` is the
number that the operations issued before the fence lie below. -/
def fenceCond (s : State) (global : Bool) (bound : Nat) : Cond :=
  if global then
    match s.mem.homeOps.find? (fun o => o.gid == s.cur.gid && !o.done && o.id < bound &&
        o.lanes.any (fun l => s.cur.lanes.has l.lane)) with
    | some o => .homeOp o.id
    | none => .none
  else .none

/-- The three FENCEs: an interlock until the accesses are performed, and no other effect. -/
def fence (i : Instr) (w : LA) (global : Bool) (s : State) : Out :=
  laneIssue i w.s w.guard {} false s (fun _ s =>
    let bound := if s.cur.stage = 0 then s.nextId else s.cur.aux
    match fenceCond s global bound with
    | .none => .next (s.finish w.s {})
    | c => .next (s.waitOn c 1 bound))

/-- FENCE.w: all spaces. -/
def execFenceW (w : LA) (s : State) : Out := fence (.fenceW w) w true s
/-- FENCE.tm: team memory and scratch. -/
def execFenceTm (w : LA) (s : State) : Out := fence (.fenceTm w) w false s
/-- FENCE.gl: global memory, phased and fabric. -/
def execFenceGl (w : LA) (s : State) : Out := fence (.fenceGl w) w true s

end Sys2Proof.Machine
end

