-- ==== Sys2Proof/Machine/Ring.lean ====
section
/-! DEFINITION. The observation rings (11 R209, R210) and the records that other instructions write into them:
the branch trace (R214). -/

namespace Sys2Proof.Machine
open Sys2Proof

/-! Offsets of BASE in an observation block; LEN, HEAD, TAIL and DROP follow it (R209). -/

def sampRing : Nat := 0x10
def reqRing : Nat := 0x48
def exitRing : Nat := 0x80
def traceRing : Nat := 0xC8

/-- A record of an observer, committed at its homes under its own stamp; it keeps no superseded version, so every cut
reads it (R210, 09 R178; log 80). Its address is physical and names no channel map: map 0 (log 79). -/
def State.record (s : State) (pa : Nat) (l : List Byte) : State :=
  let b := s.stored 0 pa l
  let r := s.stamp (homeOf (s.at 0 pa)).1
  let m := r.2.mem
  let s : State := { r.2 with mem := { m with base := b.foldl (fun f x => f.set 0 x.1 x.2) m.base,
                                              vers := b.foldl (fun f x => f.set [] x.1 []) m.vers } }
  let s : State := { s with mem := s.mem.addVers {} r.1 b }
  ((s.wholeLines b).noticed (uniq (b.map (·.1 / 64)))).countAll (b.map (·.1)) 1

/-- A record enters a ring of a die, or is dropped (R210). -/
def State.ringPut (s : State) (die ring : Nat) (l : List Byte) : State :=
  let b := obsBase die + ring
  let lg := s.reg (b + 8) % 32
  let base := s.reg b
  let head := s.reg (b + 16)
  let drop (s : State) : State := s.setReg (b + 32) (min (s.reg (b + 32) + 1) (2 ^ 32 - 1))
  if lg = 0 then s
  else if lg < 4 || 20 < lg || !(tierOf base == .hbmA || tierOf base == .lpddr) then drop s
  else if (head + 2 ^ 32 - s.reg (b + 24)) % 2 ^ 32 = 2 ^ lg then drop s
  else
    let pa := base + 32 * (head % 2 ^ lg)
    let s := s.record pa l
    s.setReg (b + 16) ((head + 1) % 2 ^ 32)

/-- The trace is armed for a group of this grid on this die (R214). -/
def State.armed (s : State) (g : Group) : Bool :=
  let c := s.reg (obsBase g.die + 0xC0)
  c % 2 == 1 && c / 2 ^ 32 == (s.grid g.grid).launch.gridid

/-! ## Hallmarks (R211) -/

def rotl64 (v n : Nat) : Nat := (v * 2 ^ n + v / 2 ^ (64 - n)) % 2 ^ 64

/-- A lane hallmark after a taken branch to `t` with `n` lanes. -/
def foldH (h t n : Nat) : Nat := rotl64 h 7 ^^^ t ^^^ (n * 2 ^ 56 % 2 ^ 64)

/-- One target of a taken branch: its lanes fold, and a traced group writes its record. -/
def State.foldTarget (s : State) (fall : Nat) (x : Mask × Nat) : State :=
  if x.2 == fall || x.1 = 0 then s
  else
    let g := s.g
    let n := x.1.count
    let h := x.1.list.foldl (fun h l => h.set 0 l (BitVec.ofNat 64 (foldH (g.hall.get 0 l).toNat x.2 n))) g.hall
    let s := s.setG { g with hall := h }
    if g.traced && s.armed g then
      s.ringPut g.die traceRing
        (bytesOfNat 8 s.cur.pc ++ bytesOfNat 8 x.2 ++ bytesOfNat 3 g.team ++ bytesOfNat 1 g.num ++ bytesOfNat 1 n ++
          bytesOfNat 1 x.1.low ++ bytesOfNat 2 0 ++ bytesOfNat 8 (h.get 0 x.1.low).toNat)
    else s

/-- Every target of a branch; `fall` is the fall-through PC. -/
def State.foldAll (s : State) (fall : Nat) (l : List (Mask × Nat)) : State :=
  l.foldl (fun s x => s.foldTarget fall x) s

end Sys2Proof.Machine
end

