-- ==== Sys2Proof/Machine/LaneMem.lean ====
section
/-! DEFINITION. The lane memory instructions (16 R288 to R299) over the spaces of 08 R147: the checks of R289, the
full/empty waits (08 R150 to R154), and atomics at the home, slice or node (08 R163, R297). -/

namespace Sys2Proof.Machine
open Sys2Proof

/-! ## Granules turn full (08 R153, R154) -/

/-- A waiter's access is performed: its lane has its bytes, and `.fc` empties the granule (R151, R152). -/
def State.feServe (s : State) (w : FeWait) : State :=
  let g := s.group w.gid
  let v := s.winN w.space w.place w.off w.bytes
  let s := s.setGroup w.gid { g with subs := g.subs.map (fun x =>
    if x.lanes.has w.lane then { x with done := x.done ||| Mask.one w.lane, got := x.got.set 0 w.lane v } else x) }
  let s := { s with mem := { s.mem with feWaits := s.mem.feWaits.filter (fun x => x.id != w.id) } }
  if w.fc then s.setFull w.space w.place w.off false else s

/-- Issuer key of a waiter, for ties (06 R107). -/
def State.feKey (s : State) (w : FeWait) : Nat :=
  let g := s.group w.gid
  ((w.since * 2 ^ 24 + g.team) * 16 + g.num) * 128 + w.lane

def State.feLongest (s : State) : List FeWait → Option FeWait
  | [] => none
  | x :: t => some (t.foldl (fun b y => if s.feKey y < s.feKey b then y else b) x)

/-- A granule turns full: every `.fw` waiter performs, then the `.fc` waiter that has waited longest, but for the
waiters of steered grids, whose site the sequencer resolves. Code 0x05 names the waiter served. -/
def State.turnFull (s : State) (space place off : Nat) : State :=
  let s := s.setFull space place off true
  let here := s.mem.feWaits.filter (fun w => w.space == space && w.place == place && w.off / 16 == off / 16)
  let s := (here.filter (fun w => !w.fc)).foldl (fun s w => s.feServe w) s
  let fcs := here.filter (fun w => w.fc)
  let free := fcs.filter (fun w => !(s.gridOf w.gid).steered)
  let s := match s.feLongest free with
    | some w =>
      let s := if 2 ≤ fcs.length then
          s.cause w.gid 5 w.pc (if space == 1 then off / 16 * 16 else place * 2 ^ 26 + off / 16 * 16)
        else s
      s.feServe w
    | none => s
  -- granule 7 of a launch slot (04 R65)
  let m := s.mbox
  if space == 2 && place == m.1 && m.2 ≤ off && off < m.2 + 0x8000 && (off - m.2) % 128 / 16 == 7 && s.isFull space place off
  then s.setMboxFull ((off - m.2) / 128) true else s

/-- An engine's or the host's write of bytes: the full bit of every granule that `whole` keeps (R154, 04 R64). -/
def State.writeSetFull (s : State) (space place off : Nat) (l : List Byte) (whole : Bool) : State :=
  let s := s.setWinN space place off l
  if l.isEmpty then s else
    (List.range ((off + l.length - 1) / 16 - off / 16 + 1)).foldl (fun s k =>
      let a := (off / 16 + k) * 16
      if !whole || (off ≤ a && a + 16 ≤ off + l.length) then s.turnFull space place a else s) s

/-! ## The lanes of an access (R289) -/

/-- What the checks make of one lane. -/
inductive LaneAcc where
  | fault (f : LaneFault)
  | ok (va pa cm : Nat)
  | node (va n a : Nat)
  | absent (page : Nat)
  | freeze (pa : Nat)
  | win (off : Nat)
  deriving DecidableEq, Repr

/-- The size of a window (R147). -/
def State.winSize (s : State) (space : Nat) : Nat :=
  match space with
  | 1 => s.launch.tmem
  | 2 => 0x4000000
  | 3 => 0x10000
  | _ => 0x1000

/-- Team key or die of a window space. -/
def State.winPlace (s : State) (space : Nat) : Nat := if space == 1 then s.g.teamKey else s.g.die

/-- The checks of R289 on one address, by an agent in an address space. A node's refusal of a posted store comes at the
store's issue (02 R31, log 83); that of another access with its reply. -/
def State.checkLane (s : State) (agent root asid : Nat) (acc : Acc) (space n : Nat) (addr : Int) (lane : Nat)
    (operand : Word) : LaneAcc × State :=
  let flt (cls sub : Nat) : LaneAcc :=
    .fault { lane, cls, sub, addr := (addr % (2 ^ 64 : Int)).toNat, space, operand }
  if addr % (n : Int) ≠ 0 then (flt MEMORY 0xA, s)
  else if space ≠ 0 then
    (if addr < 0 || (s.winSize space : Int) < addr + n then flt MEMORY 9
     else if acc ≠ .store && (space == 1 || space == 2) && (s.winBad space (s.winPlace space) addr.toNat n).isSome then flt MEMORY 8
     else .win addr.toNat, s)
  else
    let va := addr.toNat
    match s.translate agent root asid acc va with
    | (.fault sub, s) => (flt MEMORY sub, s)
    | (.freeze pa, s) =>
      (if s.isReleased s.me s.cur.pc then flt MEMORY 5 else .freeze pa, s)
    | (.absent, s) => (if s.pageFailed s.me asid (pageOf va) then flt MEMORY 0xB else .absent (pageOf va), s)
    | (.node k a, s) =>
      (match s.linkFault k (s.portFor k s.g.core) with
       | some sub => flt FABRIC sub
       | none => if acc = .store && s.nodeRefuses k a n then flt FABRIC 4 else .node va k a, s)
    | (.ok pa cm, s) => (if acc ≠ .store && (s.badIn cm pa n).isSome then flt MEMORY 8 else .ok va pa cm, s)

/-- The address of each lane: a pair for the global space, else one register (R289). -/
def State.laneAddr (s : State) (w : LA) (x : LXM) (l : Nat) : Int :=
  if x.space = 0 then (ea64 (s.g.src64 w.a l) x.off : Nat) else eaWin (s.g.src w.a l) x.off

/-- The lanes of a list checked in ascending order. -/
def State.checkLanes (s : State) (acc : Acc) (space n : Nat) (addr : Nat → Int) (operand : Nat → Word) :
    List Nat → List (Nat × LaneAcc) × State
  | [] => ([], s)
  | l :: t =>
    let r := s.checkLane s.g.coreKey s.launch.root s.asid acc space n (addr l) l (operand l)
    let q := r.2.checkLanes acc space n addr operand t
    ((l, r.1) :: q.1, q.2)

/-- The frozen master's log entry, and its core stops (04 R70). -/
def State.freezeCore (s : State) (pa : Nat) : State := s.freeze s.g.coreKey s.me s.cur.pc pa

/-- Watches on the lanes that would perform: logs, traps, halts (10 R206). An access that has parked is not tested
again. -/
def State.watchLanes (s : State) (kind space n : Nat) (operand : Nat → Word) :
    List (Nat × LaneAcc) → List (Nat × LaneAcc) × State
  | [] => ([], s)
  | (l, .ok va pa cm) :: t =>
    let again := !s.cur.aslice && (match s.g.sub s.cur with | some x => x.tested | none => false)
    let hits := if again then [] else s.watchHits kind pa n
    let s := hits.foldl (fun s h => s.watchLog s.cur.gid s.cur.pc (max pa (s.reg (0x3000 + 32 * h.1) % 2 ^ 52))) s
    let s := if hits.any (fun h => h.2 == 2) then s.setG { s.g with halted := true } else s
    let r := s.watchLanes kind space n operand t
    if hits.any (fun h => h.2 == 1) then
      ((l, .fault { lane := l, cls := DEBUG, sub := 2, addr := va, space, operand := operand l }) :: r.1, r.2)
    else ((l, .ok va pa cm) :: r.1, r.2)
  | x :: t => let r := s.watchLanes kind space n operand t; (x :: r.1, r.2)

def laneFaults (l : List (Nat × LaneAcc)) : List LaneFault :=
  l.filterMap (fun x => match x.2 with | .fault f => some f | _ => none)
/-- The lanes that perform. -/
def laneMask (l : List (Nat × LaneAcc)) : Mask :=
  Mask.of (fun k => l.any (fun x => x.1 == k && (match x.2 with | .fault _ => false | _ => true)))

/-- An atomic of one of these lanes to one of its words that its home has not performed: a later access by the same lane
to the same word is held until it has been (R298). -/
def State.atomicAhead (s : State) (n : Nat) (acc : List (Nat × LaneAcc)) : Option Nat :=
  if s.cur.aslice then none
  else
    (s.mem.homeOps.find? (fun o => o.gid == s.cur.gid && !o.done && o.lanes.any (fun h => !h.performed &&
      acc.any (fun x => match x.2 with
        | .ok _ pa _ => x.1 == h.lane && h.pa < pa + n && pa < h.pa + o.width
        | _ => false)))).map (·.id)

/-- The checks of an instruction's lanes; then a freeze, a page-in wait, a hold for an atomic, or `k` on the lanes
(R289, R290, R298). -/
def memLanes (sbit : Bool) (acc : Acc) (kind space n : Nat) (addr : Nat → Int) (operand : Nat → Word) (wait : Bool)
    (m : Mask) (s : State) (k : List (Nat × LaneAcc) → State → Out) : Out :=
  let r := s.checkLanes acc space n addr operand m.list
  let s := r.2
  match r.1.findSome? (fun x => match x.2 with | .freeze pa => some pa | _ => none) with
  | some pa => .next (s.freezeCore pa)
  | none =>
    let pages := uniq (r.1.filterMap (fun x => match x.2 with | .absent p => some p | _ => none))
    if wait && !pages.isEmpty then
      let s := pages.foldl (fun s p => s.pageIn s.launch.root s.asid p 0 s.g.die) s
      .next (s.park sbit (.page s.asid pages))
    else
      match s.atomicAhead n r.1 with
      | some j => .next (s.waitOn (.homeOp j) s.cur.stage s.cur.aux)
      | none =>
        let q := s.watchLanes kind space n operand r.1
        k q.1 (q.2.clearFailed q.2.me)

/-! ## Fabric accesses (02 R32) -/

/-- One fabric access for each node that the lanes name, in node order; answers their numbers. -/
def State.sendFabric (s : State) (kind bytes aop akind : Nat) (l : List (Nat × Nat × Nat × Nat × Nat)) :
    List Nat × State :=
  (uniq (l.map (fun x => x.2.1))).foldl (fun (r : List Nat × State) n =>
    let (id, s) := r.2.fresh
    let lanes := (l.filter (fun x => x.2.1 == n)).map (fun x => (x.1, x.2.2.1, x.2.2.2.1, x.2.2.2.2))
    let s := if kind = 0 then s else
      s.cannotUndo s.cur.gid s.cur.pc (n * 2 ^ 60 + (lanes.headD (0, 0, 0, 0)).2.1 / 16 * 16 % 2 ^ 42)
    let op : FabricOp := { id, gid := s.cur.gid, node := n, port := s.portFor n s.g.core, kind, lanes, bytes, aop, akind, pc := s.cur.pc, at_ := s.clock }
    (r.1 ++ [id], { s with mem := { s.mem with fabric := s.mem.fabric ++ [op] } })) ([], s)

/-- The fabric accesses of the group at this PC that have been answered. -/
def State.answered (s : State) : List FabricOp :=
  s.mem.fabric.filter (fun o => o.gid == s.cur.gid && o.pc == s.cur.pc && o.replied && o.kind != 1)
def State.dropAnswered (s : State) : State :=
  { s with mem := { s.mem with fabric := s.mem.fabric.filter (fun o =>
      !(o.gid == s.cur.gid && o.pc == s.cur.pc && o.replied && o.kind != 1)) } }
/-- The value that a fabric access returned to a lane. -/
def gotFabric (l : List FabricOp) (lane : Nat) : Nat :=
  ((l.find? (fun o => o.lanes.any (fun x => x.1 == lane))).map (fun o => o.got.get 0 lane)).getD 0
/-- The sub-code that a failed fabric access raises at its lanes (02 R31, R39); 0 for none. -/
def failFabric (l : List FabricOp) (lane : Nat) : Nat :=
  ((l.find? (fun o => o.lanes.any (fun x => x.1 == lane))).map (fun o =>
    if o.refused.has lane then 4 else o.failed)).getD 0

/-- The data operand that a lane sent with its access. -/
def sentFabric (l : List FabricOp) (lane : Nat) : Nat :=
  ((l.flatMap (·.lanes)).find? (fun x => x.1 == lane)).elim 0 (fun x => x.2.2.2)

/-- Lanes whose fabric access failed become faults. -/
def failLanes (l : List FabricOp) (acc : List (Nat × LaneAcc)) : List (Nat × LaneAcc) :=
  acc.map (fun x => match x.2 with
    | .node va _ _ => if failFabric l x.1 = 0 then x else
        (x.1, .fault { lane := x.1, cls := FABRIC, sub := failFabric l x.1, addr := va,
                       operand := BitVec.ofNat 32 (sentFabric l x.1) })
    | _ => x)

/-- Lanes of a list on fabric pages: lane, node, address and two operands. -/
def nodeLanes (l : List (Nat × LaneAcc)) (a b : Nat → Nat) : List (Nat × Nat × Nat × Nat × Nat) :=
  l.filterMap (fun x => match x.2 with | .node _ n ad => some (x.1, n, ad, a x.1, b x.1) | _ => none)

/-- Site operations for the lanes of fabric accesses in a steered grid (R295). -/
def State.addSites (s : State) (cls kind : Nat) (commutes : Bool) (l : List (Nat × Nat × Nat)) : State :=
  l.foldl (fun s x =>
    let (id, s) := s.fresh
    let gr := s.grid s.g.grid
    let op : SiteOp := { id, cls, key := x.2.1, gid := s.cur.gid, lane := x.1, kind, obj := x.2.2, issue := s.g.issued, commutes }
    s.setGrid s.g.grid { gr with steer := { gr.steer with ops := gr.steer.ops ++ [op] } }) s

/-- FABRIC sites of accesses: key node, then granule. -/
def State.fabricSites (s : State) (ids : List Nat) : State :=
  if (s.gridOf s.cur.gid).steered then
    (s.mem.fabric.filter (fun o => ids.contains o.id)).foldl (fun s o =>
      s.addSites 5 6 false (o.lanes.map (fun x => (x.1, o.node * 2 ^ 42 + x.2.1 / 16 * 16, o.id)))) s
  else s

/-! ## Loads (R291 to R293) -/

/-- The group as its A-slice reads: unpublished bytes by 07 R137. -/
def Group.aReader (g : Group) : Group :=
  { g with unpub := ⟨g.a.view.cells.map (fun c => (c.1, c.2.map (·.1)))⟩, pend := {} }
/-- How the slice being issued reads: the group's bytes that it sees, and its cut. -/
def State.sliceReader (s : State) : Group × Nat := if s.cur.aslice then (s.g.aReader, s.g.a.cut) else (s.g, s.g.cut)

/-- The value that a lane loads; a fabric lane's comes from its answer. -/
def State.loadLane (s : State) (space n : Nat) (ans : List FabricOp) (l : Nat) (a : LaneAcc) : Nat :=
  match a with
  | .ok va pa cm => let r := s.sliceReader; s.loadN r.1 r.2 va cm pa n
  | .node _ _ _ => gotFabric ans l
  | .win off =>
    if space == 3 then natOfBytes (s.g.stack.getMany 0 off n)
    else if space == 4 then natOfBytes (s.g.side.getMany 0 off n)
    else s.winN space (s.winPlace space) off n
  | _ => 0

/-- The directory lists the L1 of a core for a line (08 R160). -/
def State.noteDir (s : State) (ck pa : Nat) : State :=
  let l := s.mem.dir.get [] (pa / 64)
  if l.contains ck then s else { s with mem := { s.mem with dir := s.mem.dir.set [] (pa / 64) (ck :: l) } }

/-- A read of an Assay run at `pa` belongs to the footprint of its group's last cut (06 R113). -/
def State.noteFoot (s : State) (gid pa : Nat) : State :=
  let g := s.group gid
  let gr := s.grid g.grid
  if gr.assay && g.cutOp ≠ 0 then
    let f := (gr.steer.feet.get none g.cutOp).getD {}
    let f := if f.r.contains (pa / 16) then f else { f with r := pa / 16 :: f.r }
    s.setGrid g.grid { gr with steer := { gr.steer with feet := gr.steer.feet.set none g.cutOp (some f) } }
  else s

/-- What a read of global bytes by a group under `cut` does beside its value: counters, footprint, and code
0x0A for the first granule with a late version (06 R93, R113). `g` is the group as it reads. -/
def State.readGlobal (s : State) (gid pc : Nat) (g : Group) (cut va cm pa n : Nat) : State :=
  let late := (List.range n).find? (fun k => s.lateVer g cut (va + k) (s.at cm (pa + k)))
  let s := s.countLines cm pa n 0
  let s := (List.range ((pa + n - 1) / 16 - pa / 16 + 1)).foldl (fun s k => s.noteFoot gid (pa + 16 * k)) s
  match late with
  | some k => s.cause gid 0xA pc ((pa + k) / 16 * 16)
  | none => s

/-! ## Request sampling (11 R221) -/

/-- REQCTL of a die. -/
def reqCtl (die : Nat) : Nat := obsBase die + 0x40

/-- Die-to-die hops of a request: to the home die of a line, or to the I-die of a port (01 R6). -/
def requestHops (die : Nat) : Option Nat → Nat → Nat
  | some loc, _ => hops die (homeOf loc).1
  | none, port => if port < 8 then meshColumn die + 1 else 4 - meshColumn die

/-- A group's core issues a global request: whether request sampling tags it. -/
def State.tag (s : State) (gid : Nat) : Bool × State :=
  let g := s.group gid
  let c := s.reg (reqCtl g.die)
  if bits c 0 0 = 0 || !(bits c 1 1 = 1 || bits c 15 8 = g.core) then (false, s)
  else
    let k := s.core g.coreKey
    (decide ((k.requests + 1) % 2 ^ bits c 20 16 = 0), s.setCore g.coreKey { k with requests := k.requests + 1 })

/-- The record of a tagged request: kind 0 load, 1 atomic, 2 commit line; to storage, or to a node by a port. The clocks
that it queued, and what it met, are free values (log 84). -/
def State.tagRecord (s : State) (gid va pc kind : Nat) (loc : Option Nat) (port : Nat) : State :=
  let g := s.group gid
  let q (k : Nat) : Nat := if loc.isNone && 2 ≤ k then 0 else min (Config.requestClocks s.free k) 65535
  let full := (List.range 5).any (fun k => q k == 65535)
  ({ s with free := s.free + 1 } : State).ringPut g.die reqRing
    (bytesOfNat 8 va ++ bytesOfNat 4 pc ++ (List.range 5).flatMap (fun k => bytesOfNat 2 (q k)) ++
      bytesOfNat 1 (requestHops g.die loc port) ++
      bytesOfNat 1 (Config.requestFlags s.free % 8 + full.toNat * 8 + kind * 16) ++
      bytesOfNat 4 (s.grid g.grid).launch.gridid ++ bytesOfNat 4 0)

/-- A load of a lane counts, and is recorded if it is tagged. -/
def State.tagLoad (s : State) (va : Nat) (loc : Option Nat) (port : Nat) : State :=
  let r := s.tag s.cur.gid
  if r.1 then r.2.tagRecord s.cur.gid va s.cur.pc 0 loc port else r.2

/-- What a load does to the machine beside its value. -/
def State.loadEffects (s : State) (space n : Nat) : List (Nat × LaneAcc) → State
  | [] => s
  | (_, .ok va pa cm) :: t =>
    let r := s.sliceReader
    let s := (lineStarts pa n).foldl (fun s a => s.noteDir s.g.coreKey (s.at cm a)) s
    ((s.readGlobal s.cur.gid s.cur.pc r.1 r.2 va cm pa n).tagLoad va (some (s.at cm pa)) 0).loadEffects space n t
  | (_, .node va k _) :: t => (s.tagLoad va none (s.portFor k s.g.core)).loadEffects space n t
  | (_, .win off) :: t =>
    let place := s.winPlace space
    let s := if space == 1 || space == 2 then
        (s.noteRange s.cur.gid s.cur.pc space place off n false).winCorrect space place off n
      else s
    s.loadEffects space n t
  | _ :: t => s.loadEffects space n t

/-- The long result of a load: `n` registers from d at the lanes m. -/
def longOf (d n : Nat) (m : Mask) (val : Nat → Nat) : Long :=
  { vs := (List.range n).map (fun j => (d + j, m, Lanes.make (fun l => BitVec.ofNat 32 (val l / 2 ^ (32 * j))))) }

/-- A full/empty load at its lanes, ascending: a lane with a full granule performs, the others wait (R152). In a
steered grid a `.fc` lane always waits for its site (R153). -/
def State.feLanes (s : State) (space n fe : Nat) : List (Nat × LaneAcc) → Sub → Sub × State
  | [], w => (w, s)
  | (l, .win off) :: t, w =>
    let place := s.winPlace space
    if w.done.has l || s.mem.feWaits.any (fun x => x.gid == s.cur.gid && x.lane == l) then s.feLanes space n fe t w
    else if s.isFull space place off && !(fe == 2 && (s.gridOf s.cur.gid).steered) then
      let w := { w with done := w.done ||| Mask.one l, got := w.got.set 0 l (s.winN space place off n) }
      (if fe == 2 then s.setFull space place off false else s).feLanes space n fe t w
    else
      let (id, s) := s.fresh
      let x : FeWait := { id, gid := s.cur.gid, lane := l, fc := fe == 2, space, place, off, bytes := n, pc := s.cur.pc,
                          since := s.clock, issue := s.g.issued }
      { s with mem := { s.mem with feWaits := s.mem.feWaits ++ [x] } }.feLanes space n fe t w
  | _ :: t, w => s.feLanes space n fe t w

/-- A load's fabric lanes are sent and the group parks, with the registers of `long` pending (07 R127), or their answers
are in. -/
def fabricWait (sbit : Bool) (kind n aop akind : Nat) (long : Long) (acc : List (Nat × LaneAcc)) (a b : Nat → Nat)
    (s : State) (k : List FabricOp → List (Nat × LaneAcc) → State → Out) : Out :=
  let nl := nodeLanes acc a b
  if nl.isEmpty then k [] acc s
  else if s.answered.isEmpty then
    let r := s.sendFabric kind n aop akind nl
    .next (((r.2.fabricSites r.1).addLong { long with ready := false, fabric := true }).park sbit (.fabric r.1))
  else
    let ans := s.answered
    k ans (failLanes ans acc) s.dropAnswered

/-- LD and LDR after their checks. -/
def finishLoad (sbit : Bool) (x : LXM) (d : Nat) (pred : Option Nat) (acc : List (Nat × LaneAcc)) (s : State) : Out :=
  let n := accessBytes x.width
  let mine : Long := { longOf d (accessRegs x.width) (laneMask acc) (fun _ => 0) with
                       ps := pred.toList.map (fun p => (p, laneMask acc, 0)) }
  fabricWait sbit 0 n 0 0 mine acc (fun _ => 0) (fun _ => 0) s (fun ans acc s =>
    let space := x.space.toNat
    let m := laneMask acc
    let absent := Mask.of (fun l => acc.any (fun y => y.1 == l && (match y.2 with | .absent _ => true | _ => false)))
    let val (l : Nat) : Nat :=
      match acc.find? (fun y => y.1 == l) with
      | some y => extend x.width x.sgn (s.loadLane space n ans l y.2)
      | none => 0
    let lg := longOf d (accessRegs x.width) m val
    let lg := match pred with
      | some p => { lg with ps := [(p, m, m.diff absent)] }
      | none => lg
    let s := s.loadEffects space n acc
    let s := if m = 0 then s else s.addLong lg
    .next (s.endLanes sbit (laneFaults acc) {}))

/-- What an access has performed so far stays with its subgroup. -/
def State.keepGot (s : State) (x : Sub) : State :=
  s.setG (s.g.modSub s.cur (fun y => { y with done := x.done, got := x.got }))

/-- LD with .fw or .fc after its checks. -/
def finishQualified (sbit : Bool) (x : LXM) (d : Nat) (acc : List (Nat × LaneAcc)) (s : State) : Out :=
  let n := accessBytes x.width
  let w0 : Sub := (s.g.sub s.cur).getD { lanes := s.cur.lanes, pc := s.cur.pc }
  let r := s.feLanes x.space.toNat n x.fe.toNat acc w0
  let s := r.2
  let m := laneMask acc
  if (m.diff r.1.done) = 0 then
    let s := if m = 0 then s else
      s.addLong (longOf d (accessRegs x.width) m (fun l => extend x.width x.sgn (r.1.got.get 0 l)))
    .next (s.endLanes sbit (laneFaults acc) {})
  else
    let off := (acc.findSome? (fun y => match y.2 with | .win o => some o | _ => none)).getD 0
    .next ((s.keepGot r.1).park sbit (.granule x.space.toNat (off / 16 * 16) x.fe.toNat))

/-- LD (R291). -/
def execLd (w : LA) (x : LXM) (s : State) : Out :=
  laneIssue (.ld w x) w.s w.guard
    { na := if x.space = 0 then 2 else 1, vr := regs w.a (if x.space = 0 then 2 else 1), vw := regs w.d (accessRegs x.width) } (x.space == 4) s (fun m s =>
    memLanes w.s .load 0 x.space.toNat (accessBytes x.width) (s.laneAddr w x) (fun _ => 0) true m s (fun acc s =>
      if x.fe = 0 then finishLoad w.s x w.d.toNat none acc s else finishQualified w.s x w.d.toNat acc s))

/-- LDR: a lane on a page that is not resident reads zero and clears its predicate bit (R293, 09 R181). -/
def execLdr (w : LA) (x : LXM) (s : State) : Out :=
  laneIssue (.ldr w x) w.s w.guard
    { na := 2, vr := regs w.a 2, vw := regs w.d (accessRegs x.width), pw := [x.rp.toNat] } (x.space == 4) s (fun m s =>
    let addr := s.laneAddr w x
    memLanes w.s .load 0 0 (accessBytes x.width) addr (fun _ => 0) false m s (fun acc s =>
      let low := acc.find? (fun y => match y.2 with | .absent _ => true | _ => false)
      let s := match low with
        | some y => s.cause s.cur.gid 8 s.cur.pc (addr y.1).toNat
        | none => s
      finishLoad w.s x w.d.toNat (some x.rp.toNat) acc s))

/-- PREF: a request to L1, with no result (R294). -/
def execPref (w : LA) (x : LXM) (s : State) : Out :=
  laneIssue (.pref w x) w.s w.guard { na := 2, vr := regs w.a 2 } (x.space == 4) s (fun _ s => .next (s.finish w.s {}))

/-! ## Stores (R291, R292) -/

/-- The data operand of a lane: one, two or four registers. -/
def Group.dataOf (g : Group) (r : BitVec 6) (width : BitVec 3) (l : Nat) : Nat :=
  (List.range (accessRegs width)).foldl (fun a j => a + ((g.vreg (r.toNat + j)).get l).toNat * 2 ^ (32 * j)) 0

/-- Adds unpublished bytes to a group (08 R155). -/
def State.addUnpub (s : State) (gid va : Nat) (l : List Byte) : State :=
  let g := s.group gid
  s.setGroup gid { g with unpub := g.unpub.setMany none va (l.map some) }

/-- One lane's store. -/
def State.storeLane (s : State) (space n : Nat) (sf : Bool) (v : Nat) (a : LaneAcc) : State :=
  let l := bytesOfNat n v
  match a with
  | .ok va _ _ => s.addUnpub s.cur.gid va l
  | .win off =>
    if space == 3 then s.setG { s.g with stack := s.g.stack.setMany 0 off l }
    else
      let place := s.winPlace space
      let s := if !sf then s.noteRange s.cur.gid s.cur.pc space place off n true
        else if space == 2 then s.scratchPages s.g.grid place off n else s
      let s := s.setWinN space place off l
      if sf then s.turnFull space place off else s
  | _ => s

/-- Posted stores of the fabric lanes (02 R32). -/
def State.postStores (s : State) (n : Nat) (acc : List (Nat × LaneAcc)) (v : Nat → Nat) : State :=
  let nl := nodeLanes acc v (fun _ => 0)
  if nl.isEmpty then s
  else
    let r := s.sendFabric 1 n 0 0 nl
    let s := r.2.setG { r.2.g with posted := r.2.g.posted + r.1.length }
    s.fabricSites r.1

/-- ST: lanes in ascending order, so the highest lane's byte remains (R292). -/
def execSt (w : LA) (x : LXM) (s : State) : Out :=
  laneIssue (.st w x) w.s w.guard
    { na := if x.space = 0 then 2 else 1, vr := regs w.a (if x.space = 0 then 2 else 1) ++ regs w.b (accessRegs x.width) } (x.space == 4) s (fun m s =>
    let g := s.g
    let n := accessBytes x.width
    memLanes w.s .store 1 x.space.toNat n (s.laneAddr w x) (g.src w.b) true m s (fun acc s =>
      let v := g.dataOf w.b x.width
      let s := acc.foldl (fun s y => s.storeLane x.space.toNat n (x.fe == 3) (v y.1) y.2) s
      .next ((s.postStores n acc v).endLanes w.s (laneFaults acc) {})))

/-! ## Atomics (R296 to R299) -/

/-- The result of an atomic on its word: kinds 0 ATOM, 1 ATOMF, 2 CAS, 3 ATLD. Answers the new word (none for no
write) and flags. -/
def atomResult (kind aop n old a b : Nat) : Option Nat × Nat :=
  let w := 8 * n
  let sgn (v : Nat) : Int := if 2 ^ (w - 1) ≤ v then (v : Int) - 2 ^ w else v
  match kind with
  | 0 =>
    let r := match aop % 8 with
      | 0 => (old + b) % 2 ^ w
      | 1 => if sgn b < sgn old then b else old
      | 2 => if sgn old < sgn b then b else old
      | 3 => old &&& b
      | 4 => old ||| b
      | 5 => old ^^^ b
      | _ => b
    (some r, 0)
  | 1 =>
    let t := if n == 8 then Fp.f64 else Fp.f32
    let r := match aop % 8 with
      | 0 => Alu.add t 0 old b
      | 1 => Fp.minMax t false old b
      | _ => Fp.minMax t true old b
    (some r.1, r.2)
  | 2 => (if old == a then some b else none, 0)
  | _ => (none, 0)

/-- Atomic lanes on team memory or scratch, one after another: old values and flags (R298). -/
def State.winAtomics (s : State) (kind aop space n : Nat) (a b : Nat → Nat) :
    List (Nat × LaneAcc) → FMap Nat → Nat → FMap Nat × Nat × State
  | [], got, fl => (got, fl, s)
  | (l, .win off) :: t, got, fl =>
    let place := s.winPlace space
    let s := (s.noteRange s.cur.gid s.cur.pc space place off n true).winCorrect space place off n
    let old := s.winN space place off n
    let r := atomResult kind aop n old (a l) (b l)
    let s := match r.1 with
      | some v => s.setWinN space place off (bytesOfNat n v)
      | none => s
    s.winAtomics kind aop space n a b t (got.set 0 l old) (fl ||| r.2)
  | _ :: t, got, fl => s.winAtomics kind aop space n a b t got fl

/-- Lanes of an atomic count as requests, some tagged (11 R221). -/
def State.tagLanes (s : State) : List HomeLane → List HomeLane × State
  | [] => ([], s)
  | h :: t =>
    let r := s.tag s.cur.gid
    let q := r.2.tagLanes t
    ({ h with tagged := r.1 } :: q.1, q.2)

/-- The common body of ATOM, ATOMF, CAS and ATLD: `ret` returning, `a` the compare value, `b` the operand. -/
def atomicBody (w : LA) (x : LXM) (kind : Nat) (ret : Bool) (a b : Nat → Nat) (m : Mask) (s : State) : Out :=
  let n := accessBytes x.width
  let space := x.space.toNat
  let aop := x.aop.toNat
  let acct := if kind == 3 then Acc.load else Acc.atomic
  memLanes w.s acct 2 space n (s.laneAddr w x) (fun l => BitVec.ofNat 32 (b l)) true m s (fun acc s =>
    let mine : Long := if ret then longOf w.d.toNat (accessRegs x.width) (laneMask acc) (fun _ => 0) else {}
    fabricWait w.s 2 n aop kind mine acc a b s (fun ans acc s =>
      let fs := laneFaults acc
      let mk := laneMask acc
      let r := s.winAtomics kind aop space n a b acc {} 0
      let s := r.2.2.setG (r.2.2.g.orFlags r.2.1)
      let home := acc.filterMap (fun y => match y.2 with
        | .ok va pa cm => some ({ lane := y.1, va, pa, loc := s.at cm pa, a := a y.1, b := b y.1 : HomeLane })
        | _ => none)
      let val (l : Nat) : Nat := if ans.any (fun o => o.lanes.any (fun y => y.1 == l)) then gotFabric ans l else r.1.get 0 l
      let lid := s.nextId
      let s := if ret && mk ≠ 0 then
          s.addLong { longOf w.d.toNat (accessRegs x.width) mk val with ready := home.isEmpty }
        else s
      if home.isEmpty then .next (s.endLanes w.s fs {})
      else
        let (home, s) := s.tagLanes home
        let (id, s) := s.fresh
        let op : HomeOp := { id, gid := s.cur.gid, kind, aop, width := n, lanes := home, d := w.d.toNat,
                             long := if ret then some lid else none, pc := s.cur.pc, at_ := s.clock }
        let s := { s with mem := { s.mem with homeOps := s.mem.homeOps ++ [op] } }
        if (s.gridOf s.cur.gid).steered then
          let s := s.addSites 1 1 (kind == 0 && !ret && aop % 8 ≤ 5) (home.map (fun h => (h.lane, h.pa / 8 * 8, id)))
          let gid := s.cur.gid
          let s := s.endLanes w.s fs {}
          let g := s.group gid
          .next (if g.status == .gone then s else
            s.setGroup gid { g with wake := some { cond := .site, lanes := s.cur.lanes, since := s.clock } })
        else .next (s.endLanes w.s fs {})))

/-- Registers of an atomic: address, data, and the compare value or destination. -/
def atomFoot (w : LA) (x : LXM) (cas ret data : Bool) : Foot :=
  { na := if x.space = 0 then 2 else 1, vr := regs w.a (if x.space = 0 then 2 else 1) ++ (if data then regs w.b (accessRegs x.width) else []) ++
          (if cas then regs w.d (accessRegs x.width) else []),
    vw := if ret then regs w.d (accessRegs x.width) else [] }

/-- ATOM (R297). -/
def execAtom (w : LA) (x : LXM) (s : State) : Out :=
  let ret := 8 ≤ x.aop.toNat
  laneIssue (.atom w x) w.s w.guard (atomFoot w x false ret true) (x.space == 4) s (fun m s =>
    atomicBody w x 0 ret (fun _ => 0) (s.g.dataOf w.b x.width) m s)

/-- ATOMF (R297). -/
def execAtomf (w : LA) (x : LXM) (s : State) : Out :=
  let ret := 8 ≤ x.aop.toNat
  laneIssue (.atomf w x) w.s w.guard (atomFoot w x false ret true) (x.space == 4) s (fun m s =>
    atomicBody w x 1 ret (fun _ => 0) (s.g.dataOf w.b x.width) m s)

/-- CAS: compares V(d), then receives the old value there (R297). -/
def execCas (w : LA) (x : LXM) (s : State) : Out :=
  laneIssue (.cas w x) w.s w.guard (atomFoot w x true true true) (x.space == 4) s (fun m s =>
    atomicBody w x 2 true (s.g.dataOf w.d x.width) (s.g.dataOf w.b x.width) m s)

/-- ATLD: the newest committed version, whatever the cut (R297, 08 R163). -/
def execAtld (w : LA) (x : LXM) (s : State) : Out :=
  laneIssue (.atld w x) w.s w.guard (atomFoot w x false true false) (x.space == 4) s (fun m s =>
    atomicBody w x 3 true (fun _ => 0) (fun _ => 0) m s)

end Sys2Proof.Machine
end

