-- ==== Sys2Proof/Machine/Fetch.lean ====
section
/-! DEFINITION. Instruction fetch (09 R175, R180; 13 R241): a load of the group under its cut that needs X (log 20). -/

namespace Sys2Proof.Machine
open Sys2Proof

/-- What a fetch of one word answers. -/
inductive FetchRes where
  | ok (w : Nat)
  /-- Class and sub-code. -/
  | fault (cls sub : Nat)
  | absent (page : Nat)
  | freeze (pa : Nat)
  deriving DecidableEq, Repr

/-- One word of code at `va` for the group and slice of the current instruction. -/
def State.fetchWord (s : State) (va : Nat) : FetchRes × State :=
  match s.xlate .fetch va with
  | (.fault sub, s) => (.fault MEMORY sub, s)
  | (.freeze pa, s) => (if s.isReleased s.me s.cur.pc then .fault MEMORY 5 else .freeze pa, s)
  | (.absent, s) => (if s.pageFailed s.me s.asid (pageOf va) then .fault MEMORY 0xB else .absent (pageOf va), s)
  | (.node n a, s) =>
    (match s.linkFault n (s.portFor n s.g.core) with
     | some sub => .fault FABRIC sub
     | none => .ok (s.nodeN n a 4), s)
  | (.ok pa cm, s) =>
    if (s.badIn cm pa 4).isSome then (.fault MEMORY 8, s)
    else
      let r := s.sliceReader
      (.ok (s.loadN r.1 r.2 va cm pa 4), s)

/-- Words at a list of addresses, in its order. -/
def State.fetchAll (s : State) : List Nat → List (Nat × FetchRes) × State
  | [] => ([], s)
  | a :: t =>
    let r := s.fetchWord a
    let q := r.2.fetchAll t
    ((a, r.1) :: q.1, q.2)

/-- The words fetched; or a freeze, or a wait for their pages. -/
def fetchMany (sbit : Bool) (l : List Nat) (s : State) (k : List (Nat × FetchRes) → State → Out) : Out :=
  let r := s.fetchAll l
  let s := r.2
  match r.1.findSome? (fun x => match x.2 with | .freeze pa => some pa | _ => none) with
  | some pa => .next (s.freezeCore pa)
  | none =>
    let pages := uniq (r.1.filterMap (fun x => match x.2 with | .absent p => some p | _ => none))
    if pages.isEmpty then k r.1 s
    else
      let s := pages.foldl (fun s p => s.pageIn s.launch.root s.asid p 0 s.g.die) s
      .next (if s.cur.aslice then s.waitOn (.page s.asid pages) else s.park sbit (.page s.asid pages))

/-- The answer for one address. -/
def answerAt (l : List (Nat × FetchRes)) (a : Nat) : FetchRes :=
  ((l.find? (fun x => x.1 == a)).map (·.2)).getD (.fault MEMORY 1)

end Sys2Proof.Machine
end

