-- ==== Sys2Proof/Machine/Commit.lean ====
section
/-! DEFINITION. Publishing and reading a snapshot: the commit and the cut (08 R155 to R162, 09 R180, 17 R322), the
engine faults that a waiting instruction raises (18 R347), and the faults of a stopped A-slice (07 R139). -/

namespace Sys2Proof.Machine
open Sys2Proof

/-! ## Engine faults (R347) -/

/-- The earliest issued recorded fault that satisfies `f`. -/
def Group.engFault (g : Group) (f : EngFault → Bool) : Option EngFault :=
  match g.faults.filter f with
  | [] => none
  | x :: t => some (t.foldl (fun b y => if y.id < b.id then y else b) x)

/-- Raises a recorded fault with ENGINE = 1 at the lanes `m`. -/
def State.raiseEngine (s : State) (sbit : Bool) (m : Mask) (f : EngFault) : State :=
  let g := s.g
  let s := s.setG { g with faults := g.faults.filter (fun x => x != f) }
  let t := s.trapBase f.cls f.sub m
  s.raise sbit { t with
    flags := t.flags + 4 + (if f.cont then 8 else 0) + (if f.contsb then 16 else 0), engpc := f.engpc,
    recs := ⟨m.list.map (fun l => (l, { addr := f.addr, sub := f.sub }))⟩ } {}

/-! ## A stopped A-slice (07 R139) -/

/-- The C-slice takes the fault that stopped the A-slice, at the lanes `m`. -/
def State.takeAFault (s : State) (sbit : Bool) (m : Mask) (a : Trap) : State :=
  let t := s.trapBase a.cls a.sub m
  s.raise sbit { t with flags := t.flags + 1, apc := a.apc, regcls := a.regcls, regnum := a.regnum,
                        recs := ⟨m.list.map (fun l => (l, a.recs.get {} a.lanes.low))⟩ } {}

/-! ## Commits (R156) -/

def State.commitOf (s : State) (k : Nat) : Option Commit := s.mem.commits.find? (fun c => c.id == k)
def State.setCommit (s : State) (c : Commit) : State :=
  { s with mem := { s.mem with commits := s.mem.commits.map (fun x => if x.id == c.id then c else x) } }
def State.dropCommit (s : State) (k : Nat) : State :=
  { s with mem := { s.mem with commits := s.mem.commits.filter (fun x => x.id != k) } }

/-- Bytes laid over others. -/
def overlay (a b : FMap (Option Byte)) : FMap (Option Byte) := b.cells.foldl (fun m c => m.set none c.1 c.2) a

/-- The group's own view of its commits in flight, oldest first. -/
def State.repend (s : State) (gid : Nat) : State :=
  let g := s.group gid
  s.setGroup gid { g with pend := (s.mem.commits.filter (fun c => c.gid == gid)).foldl (fun m c => overlay m c.covers) {} }

/-- The unpublished bytes become those of a commit in progress; answers its number. -/
def State.beginCommit (s : State) : Nat × State :=
  let (k, s) := s.fresh
  let g := s.g
  let c : Commit := { id := k, gid := s.cur.gid, pc := s.cur.pc, covers := g.unpub, wq := g.a.pushed, epoch := g.epoch,
                      at_ := s.clock }
  let s := { s with mem := { s.mem with commits := s.mem.commits ++ [c] } }
  (k, (s.setG { g with unpub := {}, epoch := g.epoch + 1 }).repend s.cur.gid)

/-- The commit is given up: its bytes are unpublished again. -/
def State.cancelCommit (s : State) (k : Nat) : State :=
  match s.commitOf k with
  | none => s
  | some c =>
    let s := s.dropCommit k
    let g := s.group c.gid
    (s.setGroup c.gid { g with unpub := overlay c.covers g.unpub }).repend c.gid

/-- Unpublished bytes written for the group by a command or an AQST issued before some of its commits began: they
belong to the oldest of those, else they stay unpublished. -/
def State.addBytes (s : State) (gid : Nat) (before : Commit → Bool) (va : Nat) (l : List Byte) : State :=
  match s.mem.commits.find? (fun c => c.gid == gid && !c.installed && before c) with
  | some c => (s.setCommit { c with covers := c.covers.setMany none va (l.map some) }).repend gid
  | none => s.addUnpub gid va l

/-- Commands whose writes a commit waits for (R156). -/
def EngOp.stores (o : EngOp) : Bool := o.kind == .copy || o.kind == .gather || o.kind == .accst

/-- The commit still waits for a command or an AQST issued before it. -/
def State.commitWaits (s : State) (c : Commit) : Bool :=
  s.eng.ops.any (fun o => o.gid == c.gid && o.id < c.id && o.stores) || (s.group c.gid).a.popped < c.wq

/-- A recorded fault that a PHASE or an EXIT raises: of a command whose writes it commits, or a split mark. -/
def faultBefore (k : Nat) (f : EngFault) : Bool := f.id < k && (f.store || !f.tiles.isEmpty)

/-- The fault that keeps the commit from ever completing: a command's, or a stopped A-slice's. -/
def State.commitStuck (s : State) (c : Commit) : Bool :=
  let g := s.group c.gid
  (g.engFault (faultBefore c.id)).isSome || (g.a.fault.isSome && g.a.popped < c.wq)

/-! ## Installing (R156, R160, 09 R180) -/

/-- The translation of every byte of a commit. -/
def State.lookup (s : State) : List (Nat × Option Byte) → List (Nat × XRes × Byte) × State
  | [] => ([], s)
  | (va, b) :: t =>
    let r := s.xlate .store va
    let q := r.2.lookup t
    ((va, r.1, b.getD 0) :: q.1, q.2)

/-- L1s that the directories list for a set of lines. -/
def State.listed (s : State) (ls : List Nat) : List Nat := uniq (ls.flatMap (fun n => s.mem.dir.get [] n))

/-- The bytes of a commit at the places found for them. -/
def State.placed (s : State) (l : List (Nat × XRes × Byte)) : List CByte :=
  l.filterMap (fun x => match x.2.1 with
    | .ok pa cm => some { va := x.1, pa, loc := s.at cm pa, val := x.2.2 }
    | _ => none)

/-- The lines of a commit count as requests; answers those tagged, by their first byte (11 R221). -/
def State.tagLines (s : State) (gid : Nat) : List CByte → List Nat × State
  | [] => ([], s)
  | b :: t =>
    let r := s.tag gid
    let q := r.2.tagLines gid t
    (if r.1 then b.va :: q.1 else q.1, q.2)

/-- The first byte of each line. -/
def firstOfLines (l : List CByte) : List CByte :=
  l.foldl (fun a b => if a.any (fun x => x.pa / 64 == b.pa / 64) then a else a ++ [b]) []

/-- Installs pending data: the pages are found, and the L1s that hold the lines are noticed. -/
def State.install (s : State) (c : Commit) (bytes : List CByte) : State :=
  let r := s.tagLines c.gid (firstOfLines bytes)
  r.2.setCommit { c with installed := true, bytes, tags := r.1, notices := s.listed (uniq (bytes.map (·.loc / 64))) }

/-- Site operations of a steered commit and cut (06 R101). -/
def State.siteCommit (s : State) (k : Nat) : State := s.addSites 2 2 false [(0, 0, k)]
def State.siteExit (s : State) (k : Nat) : State := s.addSites 2 7 false [(0, 0, k)]
def State.siteCut (s : State) : State := s.addSites 2 3 false [(0, 0, 0)]

/-- Drives a commit for the current instruction at the lanes `m`; `after` says what follows a commit that is visible
or has no byte, `site` adds the site operations in a steered grid, and `undo` takes back what the instruction has done
when it faults (R322). -/
def commitDrive (sbit : Bool) (m : Mask) (s : State) (site : Nat → State → State) (after : State → Out)
    (undo : State → State := id) : Out :=
  if s.cur.stage = 2 then after s
  else
    let r : Nat × State := if s.cur.stage = 0 then s.beginCommit else (s.cur.aux, s)
    let k := r.1
    let s := r.2
    match s.commitOf k with
    | none => after s
    | some c =>
      let g := s.g
      match g.engFault (faultBefore k) with
      | some f => .next ((undo (s.cancelCommit k)).raiseEngine sbit m f)
      | none =>
        match (if g.a.popped < c.wq then g.a.fault else none) with
        | some a => .next ((undo (s.cancelCommit k)).takeAFault sbit m a)
        | none =>
          if s.commitWaits c then .next (s.waitOn (.writes k) 1 k)
          else if c.covers.cells.isEmpty then after (s.dropCommit k)
          else
            let q := s.lookup c.covers.cells
            let s := q.2
            match q.1.findSome? (fun x => match x.2.1 with
                | .fault sub => some (x.1, MEMORY, sub)
                | .node _ _ => some (x.1, MEMORY, 3)
                | _ => none) with
            | some f => .next ((undo (s.cancelCommit k)).raiseAddr sbit f.2.1 f.2.2 m f.1 0)
            | none =>
              match q.1.findSome? (fun x => match x.2.1 with | .freeze pa => some pa | _ => none) with
              | some pa =>
                .next (if s.isReleased s.me s.cur.pc then
                    (undo (s.cancelCommit k)).raiseAddr sbit MEMORY 5 m
                      ((q.1.find? (fun x => match x.2.1 with | .freeze _ => true | _ => false)).elim 0 (·.1)) 0
                  else (s.freezeCore pa).waitOn .none 1 k)
              | none =>
                let pages := uniq (q.1.filterMap (fun x => match x.2.1 with | .absent => some (pageOf x.1) | _ => none))
                match pages.find? (s.pageFailed s.me s.asid) with
                | some p => .next ((undo (s.cancelCommit k)).raiseAddr sbit MEMORY 0xB m (p * 65536) 0)
                | none =>
                  if !pages.isEmpty then
                    let s := pages.foldl (fun s p => s.pageIn s.launch.root s.asid p 0 s.g.die) s
                    .next ((s.waitOn .none 1 k).park sbit (.page s.asid pages))
                  else
                    let s := s.install c (s.placed q.1)
                    if (s.gridOf s.cur.gid).steered then .next ((site k s).waitOn .site 2 k)
                    else .next (s.waitOn (.commit k) 2 k)

/-! ## Visible (R157) -/

/-- Code 0x02: a byte supersedes the newest version, which another group committed (no engine, agent or host did) and
the publisher does not see (06 R93). -/
def State.blindOver (s : State) (g : Group) (pa : Nat) : Bool :=
  match s.versOf pa with
  | v :: _ => v.grid != 0 && v.team < 2 ^ 24 && v.num < 16 && !(v.grid == g.grid && v.team == g.team && v.num == g.num) &&
    !(v.time ≤ g.cut && s.filter g g.cut v)
  | [] => false

/-- Bytes of a group `g` become visible under one stamp, with code 0x02 where it applies; their lines' counters, tables and
directories follow. -/
def State.publishBytes (s : State) (g : Group) (gid pc : Nat) (o : Owner) (bytes : List CByte) : State :=
  let l := bytes.map (fun x => (x.loc, x.val))
  let low := l.foldl (fun a x => min a x.1) (2 ^ 52)
  let r := s.stamp (homeOf low).1
  let hits := uniq ((bytes.filter (fun x => s.blindOver g x.loc)).map (fun x => x.pa / 16 * 16))
  let s := hits.foldl (fun s a => s.cause gid 2 pc a) r.2
  let s := { s with mem := s.mem.addVers o r.1 l }
  ((s.wholeLines l).noticed (uniq (l.map (·.1 / 64)))).countAll (l.map (·.1)) 1

/-- The commit becomes visible whole, under one stamp; `lclk` is its logical clock in a steered grid. -/
def State.publish (s : State) (c : Commit) (lclk : Nat) : State :=
  let s := (s.publishBytes (s.group c.gid) c.gid c.pc ((s.group c.gid).owner lclk) c.bytes).dropCommit c.id
  let s := c.tags.foldl (fun s va =>
    s.tagRecord c.gid va c.pc 2 ((c.bytes.find? (fun b => b.va == va)).map (·.loc)) 0) s
  -- the A-slice's view keeps only bytes that are still unpublished
  let g := s.group c.gid
  let gone (x : Nat × Option (Byte × Nat)) : Bool :=
    (c.covers.get none x.1).isSome && (match x.2 with | some b => b.2 ≤ c.epoch | none => true)
  let trim (f : FMap (Option (Byte × Nat))) : FMap (Option (Byte × Nat)) := ⟨f.cells.filter (fun x => !gone x)⟩
  let g := { g with a := { g.a with view := trim g.a.view },
                    queues := g.queues.mapV [] (fun q => q.map (fun e => { e with view := trim e.view })) }
  (s.setGroup c.gid g).repend c.gid

/-- The bytes of a commit at their storage. -/
def Commit.cells (c : Commit) : List (Nat × Byte) := c.bytes.map (fun x => (x.loc, x.val))

/-- A commit that can become visible now. -/
def State.commitReady (s : State) (c : Commit) : Bool :=
  c.installed && c.notices.isEmpty && s.retentionOk c.cells

/-! ## Cuts (R158) -/

/-- The group takes a cut at this clock. -/
def State.takeCut (s : State) (gid : Nat) : State :=
  let g := s.group gid
  s.setGroup gid { g with cut := s.clock, cutAfter := g.cutAfter || g.observed,
                          lateFrom := if g.cutAfter || !g.observed then g.lateFrom else s.clock }

end Sys2Proof.Machine
end

