-- ==== Sys2Proof/Machine/LaneControl.lean ====
section
/-! DEFINITION. The lane control instructions (16 R307 to R312), joins (07 R121, R122), the budget that CALLI acquires
(17 R329), barriers as far as EXIT meets them (17 R323), and the end of a group (05 R90). -/

namespace Sys2Proof.Machine
open Sys2Proof

/-! ## Branches (R307, R211) -/

/-- PC + 4 × offset. -/
def branchTo (pc : Nat) (off : Int) : Nat := (((pc : Int) + 4 * off) % (2 ^ 64 : Int)).toNat

/-- Lanes of `m` grouped by target, the lowest lane's first. -/
def byTarget (m : Mask) (tgt : Nat → Nat) : List (Mask × Nat) :=
  (uniq (m.list.map tgt)).map (fun t => (Mask.of (fun l => m.has l && tgt l == t), t))

/-- The lanes of a list of faults. -/
def faultMask (fs : List LaneFault) : Mask := Mask.of (fun l => fs.any (fun f => f.lane == l))

/-- The active lanes `m` go to their targets, but for those that fault; the taken ones fold. -/
def State.branch (s : State) (sbit : Bool) (m : Mask) (tgt : Nat → Nat) (fs : List LaneFault) : State :=
  let js := byTarget (m.diff (faultMask fs)) tgt
  (s.foldAll s.cur.npc js).endLanes sbit fs { jumps := js }

/-- The active lanes disagree (R120). -/
def disagree (m : Mask) (f : Nat → Nat) : Bool := m.list.any (fun l => f l != f m.low)

/-- Lanes whose target is not a word address: ILLEGAL 0x3 (13 R241). -/
def oddTargets (m : Mask) (tgt : Nat → Nat) : List LaneFault :=
  (m.list.filter (fun l => tgt l % 4 != 0)).map (fun l => { lane := l, cls := ILLEGAL, sub := 3, addr := tgt l })

/-- A jump to the pair V(a), V(a+1) of each lane. -/
def jumpPair (i : Instr) (w : LB) (x : LXB) (s : State) : Out :=
  laneIssue i w.s w.guard { vr := regs x.a 2 } false s (fun m s =>
    let tgt := s.g.src64 x.a
    if w.u && disagree m tgt then .next (s.raiseAll w.s UNIFORM 1 m)
    else .next (s.branch w.s m tgt (oddTargets m tgt)))

/-- BRA (R307). -/
def execBra (w : LB) (s : State) : Out :=
  laneIssue (.bra w) w.s w.guard {} false s (fun m s =>
    .next (s.branch w.s m (fun _ => branchTo s.cur.pc w.off.toInt) []))

/-- JMPR (R307). -/
def execJmpr (w : LB) (x : LXB) (s : State) : Out := jumpPair (.jmpr w x) w x s

/-- RET (R309). -/
def execRet (w : LB) (x : LXB) (s : State) : Out := jumpPair (.ret w x) w x s

/-- A table entry's target. -/
def entryTarget (tb e : Nat) : Nat := (((tb : Int) + (BitVec.ofNat 32 e).toInt) % (2 ^ 64 : Int)).toNat

/-- BRX (R308). -/
def execBrx (w : LB) (x : LXB) (s : State) : Out :=
  laneIssue (.brx w x) w.s w.guard { vr := regs x.a 1 } false s (fun m s =>
    let idx (l : Nat) : Nat := (s.g.src x.a l).toNat
    if w.u && disagree m idx then .next (s.raiseAll w.s UNIFORM 1 m)
    else
      let tb := branchTo s.cur.pc w.off.toInt
      let ea (i : Nat) : Nat := (tb + 4 * i) % 2 ^ 64
      let ok := m.list.filter (fun l => idx l ≤ x.n.toNat)
      let ids := (List.range 4096).filter (fun i => ok.any (fun l => idx l == i))
      fetchMany w.s (ids.map ea) s (fun ans s =>
        let tgt (l : Nat) : Nat :=
          match answerAt ans (ea (idx l)) with
          | .ok e => entryTarget tb e
          | _ => 0
        let fs := m.list.filterMap (fun l =>
          if x.n.toNat < idx l then some ({ lane := l, cls := BOUND, sub := 1, addr := idx l } : LaneFault)
          else match answerAt ans (ea (idx l)) with
            | .fault cls sub => some { lane := l, cls, sub, addr := ea (idx l) }
            | .ok e => if e % 4 ≠ 0 then some { lane := l, cls := ILLEGAL, sub := 3, addr := ea (idx l) } else none
            | _ => none)
        .next (s.branch w.s m tgt fs)))

/-! ## Calls (R309, R310) -/

/-- PC of the next instruction into V(a), V(a+1) at the lanes `m`. -/
def State.link (s : State) (a : BitVec 6) (m : Mask) : State :=
  s.setG (s.g.writeVN a.toNat m (fun _ => s.cur.npc) 2)

/-- CALL (R309). -/
def execCall (w : LB) (x : LXB) (s : State) : Out :=
  laneIssue (.call w x) w.s w.guard { vw := regs x.a 2 } false s (fun m s =>
    .next ((s.link x.a m).branch w.s m (fun _ => branchTo s.cur.pc w.off.toInt) []))

/-- Extended blocks free in a partition: 8 less those its slots hold (07 R124). -/
def State.poolFree (s : State) (pk : Nat) : Nat :=
  8 - (s.groups.cells.filter (fun c => (c.2.status == .running || c.2.status == .migrating) && c.2.partKey == pk)).foldl
    (fun n c => n + c.2.budget) 0

/-- The head of a partition's XACQ queue: the earliest, ties to the lower slot (R329). -/
def State.xacqHead (s : State) (pk : Nat) : Option Nat :=
  queueHead ((s.part pk).xacq.map (fun x => (x.2.2, (s.group x.1).slot, x.1)))

/-- The pool can serve the group's request for budget `k` now. -/
def State.blocksOk (s : State) (gid k : Nat) : Bool :=
  let g := s.group gid
  k ≤ g.budget || (k - g.budget ≤ s.poolFree g.partKey &&
    (match s.xacqHead g.partKey with | some h => h == gid | none => true))

/-- The blocks are taken and read as zero. -/
def State.takeBlocks (s : State) (gid k : Nat) : State :=
  let g := s.group gid
  let p := s.part g.partKey
  let s := s.setPart g.partKey { p with xacq := p.xacq.filter (fun x => x.1 != gid) }
  if k ≤ g.budget then s
  else s.setGroup gid { g with v := g.v.clear (vLimit g.budget) (vLimit k - vLimit g.budget), budget := k }

/-- Budget `k` is acquired before `after`, or the group parks in the pool's queue (type 0x8). -/
def acquire (sbit : Bool) (k : Nat) (s : State) (after : State → Out) : Out :=
  let gid := s.cur.gid
  if k ≤ s.g.budget then after s
  else if s.blocksOk gid k then after (s.takeBlocks gid k)
  else if s.cur.handler then .next (s.park sbit (.blocks k))
  else
    let p := s.part s.g.partKey
    let s := if p.xacq.any (fun x => x.1 == gid) then s
      else s.setPart s.g.partKey { p with xacq := p.xacq ++ [(gid, k, s.clock)] }
    .next (s.park sbit (.blocks k))

/-- The frame word's budget, or none where it is invalid (R310). -/
def frameBlocks (fw : Nat) : Option Nat := if fw / 4 = 0xFFF00000 / 4 && fw % 4 ≠ 3 then some (fw % 4) else none

/-- CALLI (R310). -/
def execCalli (w : LB) (x : LXB) (s : State) : Out :=
  laneIssue (.calli w x) w.s w.guard { vr := regs x.a 2, vw := regs x.a 2 } false s (fun m s =>
    let tgt := s.g.src64 x.a
    if w.u && disagree m tgt then .next (s.raiseAll w.s UNIFORM 1 m)
    else
      let fa (l : Nat) : Nat := (tgt l + 2 ^ 64 - 4) % 2 ^ 64
      let good := m.list.filter (fun l => tgt l % 4 == 0)
      fetchMany w.s (uniq (good.map fa)) s (fun ans s =>
        let fs := oddTargets m tgt ++ good.filterMap (fun l =>
          match answerAt ans (fa l) with
          | .fault cls sub => some ({ lane := l, cls, sub, addr := fa l } : LaneFault)
          | .ok fw => if (frameBlocks fw).isNone then some { lane := l, cls := BUDGET, sub := 2, addr := fa l } else none
          | _ => none)
        let want := good.foldl (fun n l =>
          match answerAt ans (fa l) with
          | .ok fw => max n ((frameBlocks fw).getD 0)
          | _ => n) s.g.budget
        acquire w.s want s (fun s =>
          .next ((s.link x.a (m.diff (faultMask fs))).branch w.s m tgt fs))))

/-! ## Joins (07 R121, R122) -/

/-- JSET (R311). -/
def execJset (w : LB) (s : State) : Out :=
  laneIssue (.jset w) w.s w.guard {} false s (fun m s =>
    let g := s.g
    if m.list.any (fun l => 8 ≤ (g.joins.get [] l).length) then .next (s.raiseAll w.s BOUND 2 m)
    else
      let e := (branchTo s.cur.pc w.off.toInt, m)
      let js := m.list.foldl (fun j l => j.set [] l (e :: j.get [] l)) g.joins
      .next ((s.setG { g with joins := js }).finish w.s {}))

/-- The lanes that wait at the JOIN at `pc`. -/
def Group.waitingAt (g : Group) (pc : Nat) : Mask :=
  (g.joining.filter (fun x => x.2 == pc)).foldl (fun m x => m ||| x.1) 0

/-- A JOIN that is complete: the lanes that leave it, and its PC. -/
def Group.joinDone (g : Group) : Option (Mask × Nat) :=
  g.joining.findSome? (fun x =>
    let here := g.waitingAt x.2
    x.1.list.findSome? (fun l =>
      match g.joins.get [] l with
      | (_, jm) :: _ => if jm.diff (here ||| g.exited) = 0 then some (jm &&& here, x.2) else none
      | [] => none))

/-- The waiting lanes `m` pop their entry and go on after the JOIN at `pc`. -/
def Group.releaseJoin (g : Group) (m : Mask) (pc now : Nat) : Group :=
  let js := m.list.foldl (fun j l => j.set [] l (j.get [] l).tail) g.joins
  let g := { g with joins := js,
                    joining := (g.joining.map (fun (x : Mask × Nat) => (if x.2 == pc then x.1.diff m else x.1, x.2))).filter (fun x => x.1 != 0) }
  let inH : Mask := match g.trap with
    | some t => if t.entered then m &&& t.lanes else 0
    | none => 0
  let npc := (pc + 4) % 2 ^ 64
  (g.arriveAt (m.diff inH) npc false now).arriveAt inH npc true now

/-- Every JOIN that is complete releases its lanes; a group has at most 128. -/
def Group.joinAll (g : Group) (now : Nat) : Nat → Group
  | 0 => g
  | n + 1 =>
    match g.joinDone with
    | some (m, pc) => (g.releaseJoin m pc now).joinAll now n
    | none => g

def State.joinCheck (s : State) (gid : Nat) : State := s.setGroup gid ((s.group gid).joinAll s.clock 128)

/-- JOIN (R311): lanes whose top entry names this address wait; the others pass. -/
def execJoin (w : LB) (s : State) : Out :=
  laneIssue (.join w) w.s w.guard {} false s (fun m s =>
    let g := s.g
    let pc := s.cur.pc
    let waits := Mask.of (fun l => m.has l && (match g.joins.get [] l with | (p, _) :: _ => p == pc | [] => false))
    let s := s.finish w.s { gone := waits }
    let g := s.g
    .next ((if waits = 0 then s else s.setG { g with joining := (waits, pc) :: g.joining, joinedAt := s.clock }).joinCheck s.cur.gid))

/-! ## Team barriers (17 R323) -/

/-- The barrier at which every live lane of the group waits, with the PC of each waiting subgroup's BAR. -/
def Group.atBar (g : Group) : Option Nat :=
  let waits := g.subs.filterMap (fun x => match x.wait with | .bar n _ => some (n, x.lanes) | _ => none)
  match waits with
  | [] => none
  | (n, _) :: _ =>
    let m := (waits.filter (fun x => x.1 == n)).foldl (fun m x => m ||| x.2) 0
    if g.live.diff m = 0 then some n else none

/-- The arrived group goes past its BARs. -/
def Group.passBar (g : Group) (n now : Nat) : Group :=
  let here := g.subs.filter (fun x => match x.wait with | .bar k _ => k == n | _ => false)
  let rest := g.subs.filter (fun x => match x.wait with | .bar k _ => k != n | _ => true)
  let wake := match g.wake with
    | some w => (match w.cond with | .bar _ _ => none | _ => some w)
    | none => none
  here.foldl (fun g x => g.arriveAt x.lanes ((x.pc + 8) % 2 ^ 64) x.handler now) { g with subs := rest, wake }

/-- A generation that is complete passes (R323). -/
def State.barComplete (s : State) (tk n : Nat) : State :=
  let t := s.team tk
  let b := t.bars.get {} n
  let staying := t.gids.filter (fun k => (s.group k).status != .gone && (s.group k).status != .draining)
  let complete := !b.arrived.isEmpty && (match b.k with
    | some 0 => staying.all (fun k => b.arrived.contains k)
    | some k => k ≤ b.arrived.length
    | none => false)
  if !complete then s
  else
    let s := b.arrived.foldl (fun s k => s.setGroup k ((s.group k).passBar n s.clock)) s
    let nums := b.arrived.map (fun k => (s.group k).num)
    s.setTeam tk { t with
      bars := t.bars.set {} n { gen := b.gen + 1 },
      passes := t.passes.map (fun p =>
        if p.bar == n && p.gen == b.gen && nums.contains p.group then { p with ret := some s.clock } else p) }

/-- Count of the barrier that the group's waiting subgroups name: the last that came. -/
def Group.barCount (g : Group) (n : Nat) : Nat :=
  (g.subs.filterMap (fun x => match x.wait with
    | .bar k _ => if k == n then some x.aux else none
    | _ => none)).getLastD 0

/-- Tests whether the group now arrives at a barrier. Answers false where its count does not match (R323). -/
def State.barTest (s : State) (gid : Nat) : Bool × State :=
  let g := s.group gid
  match g.atBar with
  | none => (true, s)
  | some n =>
    let tk := g.teamKey
    let t := s.team tk
    let b := t.bars.get {} n
    let k := g.barCount n
    if b.arrived.contains gid then (true, s)
    else if b.k.isSome && b.k != some k then (false, s)
    else
      let pass : BarPass := { group := g.num, bar := n, gen := b.gen, arrive := s.clock, ret := none }
      let s := s.setTeam tk { t with bars := t.bars.set {} n { b with k := some k, arrived := b.arrived ++ [gid] },
                                     passes := t.passes ++ [pass] }
      let s := s.setGroup gid { g with wake := some { cond := .bar n b.gen, lanes := g.live, since := s.clock } }
      (true, s.barComplete tk n)

/-- Every barrier of a team whose count is "all that have not exited" is tested again (R323). -/
def State.barRetest (s : State) (tk : Nat) : State :=
  (List.range 16).foldl (fun s n => s.barComplete tk n) s

/-- Waiting subgroups whose count does not match take ILLEGAL 0x3. -/
def State.barMismatch (s : State) (gid : Nat) : State :=
  let g := s.group gid
  let bad := g.subs.filter (fun x => match x.wait with | .bar _ _ => true | _ => false)
  match bad.getLast? with
  | none => s
  | some x =>
    let t : Trap := { cls := ILLEGAL, sub := 3, lanes := x.lanes, pc := x.pc, npc := (x.pc + 8) % 2 ^ 64, insn := x.w0,
                      ext := x.w1, recs := ⟨x.lanes.list.map (fun l => (l, { sub := 3 }))⟩ }
    (s.setGroup gid { g with subs := g.subs.filter (fun y => y != x) }).takeTrap gid x.handler t

/-! ## The end of a group (R312, 05 R90) -/

/-- A team's trigger time: the clock at which its last group triggered or exited (17 R327). -/
def State.noteTrigger (s : State) (tk : Nat) : State :=
  let t := s.team tk
  if t.trigTime.isNone && t.gids.all (fun k => (s.group k).triggered) then
    s.setTeam tk { t with trigTime := some s.clock }
  else s

/-- Members that wait in a rendezvous latch for this group take GANG 0x3 (07 R131). -/
def State.leaveGang (s : State) (gid : Nat) : State :=
  let g := s.group gid
  let waits (o : EngOp) : Bool :=
    o.latched && o.gid != gid && teamKey o.grid o.team == g.teamKey && bits o.gang 20 20 == 1 &&
      bits o.gang (16 + g.slot / 16) (16 + g.slot / 16) == 1 &&
      bits o.gang (4 * (g.slot / 16) + 3) (4 * (g.slot / 16)) == g.num
  { s with eng := { s.eng with ops := s.eng.ops.map (fun o =>
      if waits o then { o with latched := false, trap := some (GANG, 3) } else o) } }

/-- Lanes `m` retire: hallmark, JOINs and barriers see them as exited; a handler whose lanes are all gone ends. -/
def State.retireLanes (s : State) (gid : Nat) (m : Mask) (handler : Bool) : State :=
  let g := s.group gid
  let h := m.list.foldl (fun a l => (a + rotl64 (g.hall.get 0 l).toNat (l % 64)) % 2 ^ 64) g.exitHall.toNat
  let s := (s.setGroup gid { g with exited := g.exited ||| m, exitHall := BitVec.ofNat 64 h }).joinCheck gid
  if handler && !((s.group gid).subs.any (·.handler)) &&
      (match (s.group gid).trap with | some t => t.lanes.diff (s.group gid).exited == 0 | none => false)
  then s.freeHandler gid else s

/-- The group has exited: its name is retired, its blocks are released, and it drains (R90). -/
def State.startDrain (s : State) (gid : Nat) : State :=
  let s := s.leaveGang gid
  let s := s.retireName gid
  let g := s.group gid
  let s := s.setGroup gid { g with
    status := .draining, budget := 0, triggered := true, wake := none, subs := [],
    exitAt := if (s.grid g.grid).steered then (s.grid g.grid).steer.round else s.clock }
  (s.noteTrigger g.teamKey).barRetest g.teamKey

/-- The commit of an EXIT has been performed at its site: the last lanes retire, and the group drains. -/
def State.endExit (s : State) (gid : Nat) : State :=
  let g := s.group gid
  let m := g.live
  let h := g.subs.any (fun x => x.handler && x.wait == .site)
  let s := s.setGroup gid { g with issued := g.issued + 1, retired := g.retired + 1 }
  (s.retireLanes gid m h).startDrain gid

/-- EXIT (R312). -/
def execExit (w : LB) (s : State) : Out :=
  laneIssue (.exit w) w.s w.guard {} false s (fun m s =>
    let gid := s.cur.gid
    match (if s.cur.stage = 0 then s.g.engFault (fun _ => true) else none) with
    | some f => .next (s.raiseEngine w.s m f)
    | none =>
      let h := s.cur.handler
      if s.g.live.diff m ≠ 0 then
        let s := (s.finish w.s { gone := m }).retireLanes gid m h
        let r := s.barTest gid
        .next (if r.1 then r.2 else r.2.barMismatch gid)
      else
        commitDrive w.s m s (fun k s => s.siteExit k) (fun s =>
          .next (((s.finish w.s { gone := m }).retireLanes gid m h).startDrain gid)))

/-- BPT: DEBUG 0x1 at the active lanes (R312). -/
def execBpt (w : LB) (s : State) : Out :=
  laneIssue (.bpt w) w.s w.guard {} false s (fun m s => .next (s.raiseAll w.s DEBUG 1 m))

end Sys2Proof.Machine
end

