-- ==== Sys2Proof/Machine/GroupAlu.lean ====
section
/-! DEFINITION. Uniform arithmetic, group branches and the special registers (17 R314 to R321, R333). -/

namespace Sys2Proof.Machine
open Sys2Proof

/-! ## Uniform arithmetic (R316, R317) -/

/-- A uniform ALU instruction: S(d) takes the value of `f`, and nothing else changes. -/
def uniform (i : Instr) (w : GA) (srcs : List Nat) (f : State → Word) (s : State) : Out :=
  groupIssue i w.s w.guard { sr := srcs, sw := [w.d.toNat] } true false false s (fun s =>
    .next ((s.swrite w.d.toNat (f s)).finish w.s {}))

/-- A two-source uniform instruction. -/
def uniform2 (i : Instr) (w : GA) (f : Word → Word → Word) (s : State) : Out :=
  uniform i w ([w.a.toNat] ++ gbRegs w) (fun s => f (s.sread w.a.toNat) (s.gb w)) s

/-- SMOV sd, sa (R316). -/
def execSmov (w : GA) (s : State) : Out := uniform (.smov w) w [w.a.toNat] (fun s => s.sread w.a.toNat) s
/-- SMOV sd, imm (R316). -/
def execSmovImm (w : GA) (s : State) : Out := uniform (.smovImm w) w [] (fun _ => w.x.signExtend 32) s
/-- SMOVI (R316). -/
def execSmovi (w : GA) (lit : Word) (s : State) : Out := uniform (.smovi w lit) w [] (fun _ => lit) s
/-- SADD (R316). -/
def execSadd (w : GA) (s : State) : Out := uniform2 (.sadd w) w (fun a b => a + b) s
/-- SSUB (R316). -/
def execSsub (w : GA) (s : State) : Out := uniform2 (.ssub w) w (fun a b => a - b) s
/-- SMUL (R316). -/
def execSmul (w : GA) (s : State) : Out := uniform2 (.smul w) w (fun a b => a * b) s
/-- SMIN (R316). -/
def execSmin (w : GA) (s : State) : Out := uniform2 (.smin w) w (fun a b => if b.toInt < a.toInt then b else a) s
/-- SMAX (R316). -/
def execSmax (w : GA) (s : State) : Out := uniform2 (.smax w) w (fun a b => if a.toInt < b.toInt then b else a) s
/-- SAND (R316). -/
def execSand (w : GA) (s : State) : Out := uniform2 (.sand w) w (fun a b => a &&& b) s
/-- SOR (R316). -/
def execSor (w : GA) (s : State) : Out := uniform2 (.sor w) w (fun a b => a ||| b) s
/-- SXOR (R316). -/
def execSxor (w : GA) (s : State) : Out := uniform2 (.sxor w) w (fun a b => a ^^^ b) s
/-- SSHL (R316). -/
def execSshl (w : GA) (s : State) : Out := uniform2 (.sshl w) w Alu.shl s
/-- SSHR (R316). -/
def execSshr (w : GA) (s : State) : Out := uniform2 (.sshr w) w Alu.shr s
/-- SSAR (R316). -/
def execSsar (w : GA) (s : State) : Out := uniform2 (.ssar w) w Alu.sar s

/-- SSET: a group predicate takes a comparison (R317). -/
def execSset (w : GA) (x : GXC) (s : State) : Out :=
  groupIssue (.sset w x) w.s w.guard { sr := [w.a.toNat] ++ gbRegs w, qw := [x.pred.toNat] } false false false s (fun s =>
    let v := intCond x.sub.toNat (intVal x.ty (s.sread w.a.toNat)) (intVal x.ty (s.gb w))
    .next ((s.setG (s.g.setQ x.pred.toNat v)).finish w.s {}))

/-- SSEL (R317). -/
def execSsel (w : GA) (x : GXC) (s : State) : Out :=
  groupIssue (.ssel w x) w.s w.guard { sr := [w.a.toNat] ++ gbRegs w, sw := [w.d.toNat], qr := [x.pred.toNat] }
    false false false s (fun s =>
    .next ((s.swrite w.d.toNat (if s.g.qpred x.pred.toNat then s.sread w.a.toNat else s.gb w)).finish w.s {}))

/-- SLEA (R317). -/
def execSlea (w : GA) (x : GXC) (s : State) : Out :=
  groupIssue (.slea w x) w.s w.guard { sr := regs w.a 2 ++ gbRegs w, sw := regs w.d 2 } true false false s (fun s =>
    .next ((s.swrite64 w.d.toNat (Alu.lea x.ty (s.sread64 w.a.toNat) (s.gb w))).finish w.s {}))

/-! ## Group branches (R319) -/

/-- Every lane of the subgroup, or the A-slice, goes to `t`; a taken branch folds (R211). -/
def State.branchG (s : State) (sbit : Bool) (t : Nat) : State :=
  if s.cur.aslice then (s.finish sbit {}).aGoto t
  else
    let m := s.cur.lanes
    (s.foldAll s.cur.npc [(m, t)]).finish sbit { jumps := [(m, t)] }

/-- SBRA (R319). An A-slice's branch to its own PC idles its context (12 R226). -/
def execSbra (w : GA) (lit : Word) (s : State) : Out :=
  groupIssue (.sbra w lit) w.s w.guard {} true false false s (fun s =>
    let t := branchTo s.cur.pc lit.toInt
    let r := s.branchG w.s t
    let g := r.g
    .next (if s.cur.aslice && t == s.cur.pc then r.setG { g with a := { g.a with wait := .idle } } else r))

/-- SLOOP (R319). -/
def execSloop (w : GA) (lit : Word) (s : State) : Out :=
  groupIssue (.sloop w lit) w.s w.guard { sr := [w.d.toNat], sw := [w.d.toNat] } true false false s (fun s =>
    let v := s.sread w.d.toNat - 1
    let s := s.swrite w.d.toNat v
    .next (if v = 0 then s.finish w.s {} else s.branchG w.s (branchTo s.cur.pc lit.toInt)))

/-! ## Special registers (R320, R321) -/

/-- The value that SREAD gives, but for laneid. -/
def State.special (s : State) (n : Nat) : Nat :=
  let g := s.g
  let gr := s.grid g.grid
  let st := gr.steered
  match n with
  | 0x01 => g.team
  | 0x02 => g.num
  | 0x03 => g.role
  | 0x04 => gr.launch.gridid
  | 0x05 => gr.launch.teams
  | 0x06 => gr.launch.groups
  | 0x07 => gr.launch.mode + (if gr.launch.exhaust then 4 else 0)
  | 0x08 => if st then g.num else g.slot
  | 0x09 => if st then 0 else g.core
  | 0x0A => if st then 0 else g.die
  | 0x0B => if st then gr.steer.round else s.clock
  | 0x0C => if st then gr.steer.round else 0
  | 0x0D => if s.cur.aslice then (if st then g.a.lcut else g.a.cut) else (if st then g.lcut else g.cut)
  | 0x0E => if gr.det then (2 ^ 32 - 1 + (s.team g.teamKey).horizon1) % 2 ^ 32 else 2 ^ 32 - 1
  | 0x0F => g.spec.name
  | 0x10 => g.budget
  | 0x11 => g.spec.fpflags
  | 0x12 => g.spec.trapbase
  | 0x13 => g.spec.contptr
  | 0x14 => g.spec.ganginfo
  | 0x15 => g.spec.digestctl
  | 0x16 => g.a.slip
  | _ => 0

/-- Registers whose reads depend on timing or placement (06 R93, 0x07). -/
def timed (n : Nat) : Bool := n == 0x08 || n == 0x09 || n == 0x0A || n == 0x0B

/-- SREAD (R320). -/
def execSread (w : GA) (x : GXC) (s : State) : Out :=
  let n := x.imm.toNat
  let d := w.d.toNat
  groupIssue (.sread w x) w.s w.guard
    (if n = 0 then { vw := [d] } else { sw := if specialWide n then regs w.d 2 else [d], xr := [n] }) true false false s (fun s =>
    if n = 0 then
      if s.cur.aslice then .next (s.raiseAll w.s ILLEGAL 3 s.cur.lanes)
      else .next ((s.setG (s.g.writeV d s.cur.lanes (fun l => BitVec.ofNat 32 l))).finish w.s {})
    else
      let v := s.special n
      let s := if timed n then s.cause s.cur.gid 7 s.cur.pc n else s
      .next ((if specialWide n then s.swrite64 d v else s.swrite d (BitVec.ofNat 32 v)).finish w.s {}))

/-- A matrix or accumulator command of the group is in flight (R333). -/
def State.matrixBusy (s : State) (gid : Nat) : Bool :=
  s.eng.ops.any (fun o => o.gid == gid &&
    (o.kind == .mma || o.kind == .mres || o.kind == .accz || o.kind == .accld || o.kind == .accst))

/-- The quadrant field of a `ganginfo` value (07 R130). -/
def gangField (v q : Nat) : Nat := bits v (4 * q + 3) (4 * q)
def gangMask (v : Nat) : Nat := bits v 19 16

/-- The checks of GANG (R333). -/
def gangOk (groups slot num v : Nat) : Bool :=
  let q := slot / 16
  let inMask (k : Nat) : Bool := gangMask v / 2 ^ k % 2 == 1
  bits v 31 21 == 0 &&
  (if bits v 20 20 == 0 then v == 0
   else
    (gangMask v == 15 || gangMask v == 3 || gangMask v == 12) &&
    inMask q && gangField v q == num &&
    (List.range 4).all (fun k =>
      if inMask k then gangField v k < groups && gangField v k % 4 == k else gangField v k == 0))

/-- GANG with a value: waits for the group's matrix operations, checks, and sets `ganginfo` (R333). -/
def gangTo (sbit : Bool) (v : Nat) (s : State) : Out :=
  let g := s.g
  if s.matrixBusy s.cur.gid then .next (s.waitOn .matrixIdle)
  else if !gangOk s.launch.groups g.slot g.num v then .next (s.raiseAll sbit GANG 5 s.cur.lanes)
  else
    let s := s.leaveGang s.cur.gid
    let g := s.g
    .next ((s.setG { g with spec := { g.spec with ganginfo := v } }).finish sbit {})

/-- GANG (R333). -/
def execGang (w : GA) (x : GXC) (s : State) : Out :=
  groupIssue (.gang w x) w.s w.guard { sr := [w.a.toNat] } false false false s (fun s =>
    gangTo w.s (s.sread w.a.toNat).toNat s)

/-- SWRITE (R320, R321); reserved bits are ignored (00 R3). -/
def execSwrite (w : GA) (x : GXC) (s : State) : Out :=
  let n := x.imm.toNat
  groupIssue (.swrite w x) w.s w.guard { sr := if specialWide n then regs w.a 2 else [w.a.toNat] } false false false s (fun s =>
    let g := s.g
    let v := if specialWide n then s.sread64 w.a.toNat else (s.sread w.a.toNat).toNat
    let put (f : Specials → Specials) : Out := .next
      ((s.setG { g with spec := f g.spec, bad := g.bad.filter (fun b => !(b.1 == 4 && b.2.1 == n)) }).finish w.s {})
    match n with
    | 0x11 => put (fun p => { p with fpflags := fpBits v })
    | 0x12 => if v % 1024 ≠ 0 then .next (s.raiseAll w.s ILLEGAL 3 s.cur.lanes) else put (fun p => { p with trapbase := v })
    | 0x13 => if v % 64 ≠ 0 then .next (s.raiseAll w.s ILLEGAL 3 s.cur.lanes) else put (fun p => { p with contptr := v })
    | 0x14 => gangTo w.s v s
    | _ => put (fun p => { p with digestctl := v % 4 }))

end Sys2Proof.Machine
end

