-- ==== Sys2Proof/Machine/GroupMem.lean ====
section
/-! DEFINITION. Scalar loads and stores (17 R318): one access for the group, which counts as the access of the lowest
lane of the issuing subgroup. -/

namespace Sys2Proof.Machine
open Sys2Proof

/-- A fault of a group access, at every lane of the subgroup. -/
def State.raiseGroup (s : State) (sbit : Bool) (f : LaneFault) : State :=
  let m := s.cur.lanes
  s.raise sbit { s.trapBase f.cls f.sub m with
    recs := ⟨m.list.map (fun l => (l, { addr := BitVec.ofNat 64 f.addr, sub := f.sub, space := f.space, operand := f.operand }))⟩ } {}

/-- The address of a scalar access (R289, R318). -/
def State.groupAddr (s : State) (w : GA) (x : LXM) : Int :=
  if x.space = 0 then (ea64 (s.sread64 w.a.toNat) x.off : Nat) else eaWin (s.sread w.a.toNat) x.off

/-- Waits for pages: the A-slice inside the AAE, else the group at type 0xB. -/
def State.parkPages (s : State) (sbit : Bool) (pages : List Nat) : State :=
  let s := pages.foldl (fun s p => s.pageIn s.launch.root s.asid p 0 s.g.die) s
  if s.cur.aslice then s.waitOn (.page s.asid pages) else s.park sbit (.page s.asid pages)

/-- The checks of one group access; then a freeze, a page-in wait, a hold for an atomic, a fault, or `k` (R289, R298,
R318). -/
def memGroup (sbit : Bool) (acc : Acc) (kind space n : Nat) (addr : Int) (operand : Word) (s : State)
    (k : LaneAcc → State → Out) : Out :=
  let low := s.cur.lanes.low
  let r := s.checkLane s.g.coreKey s.launch.root s.asid acc space n addr low operand
  match r.1 with
  | .freeze pa => .next (r.2.freezeCore pa)
  | .absent p => .next (r.2.parkPages sbit [p])
  | a =>
    match r.2.atomicAhead n [(low, a)] with
    | some j => .next (r.2.waitOn (.homeOp j) s.cur.stage s.cur.aux)
    | none =>
      let q := r.2.watchLanes kind space n (fun _ => operand) [(low, a)]
      let s := q.2.clearFailed q.2.me
      match (q.1.head?.map (·.2)).getD a with
      | .fault f => .next (s.raiseGroup sbit f)
      | .node va n ad =>
        if s.cur.aslice then .next (s.raiseGroup sbit { lane := low, cls := MEMORY, sub := 3, addr := (addr % (2 ^ 64 : Int)).toNat })
        else k (.node va n ad) s
      | a => k a s

/-- SLD's value reaches S(d), or S(d) and S(d+1): a long result, or at once in an A-slice. -/
def finishSld (w : GA) (x : LXM) (v : Nat) (s : State) : Out :=
  let d := w.d.toNat
  let e := extend x.width x.sgn v
  if s.cur.aslice then
    .next ((if accessRegs x.width = 2 then s.swrite64 d e else s.swrite d (BitVec.ofNat 32 e)).finish w.s {})
  else
    let ss := (List.range (accessRegs x.width)).map (fun j => (d + j, BitVec.ofNat 32 (e / 2 ^ (32 * j))))
    .next ((s.addLong { ss }).finish w.s {})

/-- SLD (R318). -/
def execSld (w : GA) (x : LXM) (s : State) : Out :=
  let n := accessBytes x.width
  let space := x.space.toNat
  groupIssue (.sld w x) w.s w.guard
    { sr := regs w.a (if x.space = 0 then 2 else 1), sw := regs w.d (accessRegs x.width) } true false (x.space == 4) s (fun s =>
    if s.cur.aslice && x.fe ≠ 0 then .next (s.raiseAll w.s ILLEGAL 3 s.cur.lanes)
    else
      let low := s.cur.lanes.low
      memGroup w.s .load 0 space n (s.groupAddr w x) 0 s (fun a s =>
        if x.fe = 0 then
          let mine : Long := { ss := (regs w.d (accessRegs x.width)).map (fun r => (r, 0)) }
          fabricWait w.s 0 n 0 0 mine [(low, a)] (fun _ => 0) (fun _ => 0) s (fun ans acc s =>
            match (laneFaults acc).head? with
            | some f => .next (s.raiseGroup w.s f)
            | none => finishSld w x (s.loadLane space n ans low a) (s.loadEffects space n acc))
        else
          let w0 : Sub := (s.g.sub s.cur).getD { lanes := s.cur.lanes, pc := s.cur.pc }
          let r := s.feLanes space n x.fe.toNat [(low, a)] w0
          if r.1.done.has low then finishSld w x (r.1.got.get 0 low) r.2
          else
            let off := match a with | .win o => o | _ => 0
            .next ((r.2.keepGot r.1).park w.s (.granule space (off / 16 * 16) x.fe.toNat))))

/-- SST (R318). -/
def execSst (w : GA) (x : LXM) (s : State) : Out :=
  let n := accessBytes x.width
  let space := x.space.toNat
  let b := BitVec.ofNat 6 w.x.toNat
  groupIssue (.sst w x) w.s w.guard
    { sr := regs w.a (if x.space = 0 then 2 else 1) ++ regs b (accessRegs x.width) } false false (x.space == 4) s (fun s =>
    let low := s.cur.lanes.low
    let v := if accessRegs x.width = 2 then s.sread64 b.toNat else (s.sread b.toNat).toNat
    memGroup w.s .store 1 space n (s.groupAddr w x) (s.sread b.toNat) s (fun a s =>
      let s := s.storeLane space n (x.fe == 3) v a
      .next ((s.postStores n [(low, a)] (fun _ => v)).finish w.s {})))

end Sys2Proof.Machine
end

