-- ==== Sys2Proof/Machine/Phases.lean ====
section
/-! DEFINITION. Publishing and synchronising: PHASE, BAR, ARRIVE, WAITLOW, TRIGGER and WAITV (17 R322 to R328,
06 R96 to R98). -/

namespace Sys2Proof.Machine
open Sys2Proof

/-! ## PHASE (R322) -/

/-- The cut of an instruction that ends with one: at once, or at its site in a steered grid. -/
def cutAndFinish (sbit : Bool) (s : State) : Out :=
  if (s.gridOf s.cur.gid).steered then .next (s.siteCut.waitOn .site 3)
  else .next ((s.takeCut s.cur.gid).finish sbit {})

/-- PHASE and PHASE.rel: commit, and then the cut where `acq`. In a steered grid the sequencer has performed both
when the instruction issues again. -/
def phaseCommit (i : Instr) (w : GA) (acq : Bool) (s : State) : Out :=
  groupIssue i w.s w.guard {} false false false s (fun s =>
    if s.cur.stage = 3 then .next (s.finish w.s {})
    else
      commitDrive w.s s.cur.lanes s (fun k s => if acq then (s.siteCommit k).siteCut else s.siteCommit k) (fun s =>
        if !acq || ((s.gridOf s.cur.gid).steered && s.cur.stage = 2) then .next (s.finish w.s {})
        else cutAndFinish w.s s))

/-- PHASE (R322). -/
def execPhase (w : GA) (x : GXC) (s : State) : Out := phaseCommit (.phase w x) w true s
/-- PHASE.rel (R322). -/
def execPhaseRel (w : GA) (x : GXC) (s : State) : Out := phaseCommit (.phaseRel w x) w false s
/-- PHASE.acq: the cut alone (R322); a split matrix operation's fault is taken here too (10 R203). -/
def execPhaseAcq (w : GA) (x : GXC) (s : State) : Out :=
  groupIssue (.phaseAcq w x) w.s w.guard {} false false false s (fun s =>
    if s.cur.stage = 3 then .next (s.finish w.s {})
    else match s.g.engFault (fun f => !f.tiles.isEmpty) with
      | some f => .next (s.raiseEngine w.s s.cur.lanes f)
      | none => cutAndFinish w.s s)

/-! ## BAR (R323) -/

/-- The subgroup waits at barrier `n` with count `k`; the instruction counts as issued. -/
def State.waitBar (s : State) (sbit : Bool) (n k : Nat) : State :=
  let g := s.g
  let gen := ((s.team g.teamKey).bars.get {} n).gen
  let here := (g.subs.filter (fun x => x.lanes == s.cur.lanes)).map (fun x => { x with wait := .bar n gen, aux := k, w0 := s.cur.w0, w1 := s.cur.w1 })
  s.setG { g with subs := g.dropSub s.cur ++ here, issued := g.issued + 1, retired := g.retired + 1,
                  marker := g.marker || sbit }

/-- BAR (R323); in a handler it would park, which is a double fault (10 R194). -/
def execBar (w : GA) (x : GXC) (s : State) : Out :=
  groupIssue (.bar w x) w.s w.guard {} false false false s (fun s =>
    let n := x.imm.toNat % 16
    let k := x.imm.toNat / 16 % 32
    if s.launch.groups < k then .next (s.raiseAll w.s ILLEGAL 3 s.cur.lanes)
    else if s.cur.handler then .next (s.raiseAll w.s ILLEGAL 4 s.cur.lanes)
    else
      let r := (s.waitBar w.s n k).barTest s.cur.gid
      .next (if r.1 then r.2 else s.raiseAll w.s ILLEGAL 3 s.cur.lanes))

/-! ## ARRIVE (R324, R325) -/

/-- The pending result of an ARRIVE: the group predicate `p`. -/
def State.arriveLong (s : State) (p : Nat) : State :=
  if p = 7 then s else s.addLong { qs := [(p, false)], ready := false }
def State.dropArriveLong (s : State) (p : Nat) : State :=
  let g := s.g
  s.setG { g with longs := g.longs.filter (fun x => !(x.qs.any (fun y => y.1 == p))) }
def State.fillArriveLong (s : State) (p : Nat) (v : Bool) : State :=
  let g := s.g
  s.setG { g with longs := g.longs.map (fun x =>
    if x.qs.any (fun y => y.1 == p) then { x with qs := [(p, v)], ready := true } else x) }

/-- The team's arrival view gains the participants (06 R98). -/
def State.extendView (s : State) (who : List (Nat × Nat × Nat)) : State :=
  let g := s.g
  if (s.grid g.grid).det then
    let t := s.team g.teamKey
    s.setTeam g.teamKey { t with view := t.view ++ (who.filter (fun x => x.1 == g.grid)).map (fun x => (x.2.1, x.2.2)) }
  else s

/-- The increment goes to its home, once the commit is visible. -/
def arriveSend (w : GA) (x : GXC) (s : State) : Out :=
  let p := x.pred.toNat
  let va := s.sread64 w.a.toNat
  let r := s.xlate .atomic va
  let s := r.2
  match r.1 with
  | .ok pa cm =>
    let low := s.cur.lanes.low
    let (lanes, s) := s.tagLanes [{ lane := low, va, pa, loc := s.at cm pa, a := 0, b := 0 }]
    let (id, s) := s.fresh
    let op : HomeOp := { id, gid := s.cur.gid, kind := 4, width := 4, lanes,
                         pc := s.cur.pc, n := (s.gb w).toNat, at_ := s.clock }
    let s := { s with mem := { s.mem with homeOps := s.mem.homeOps ++ [op] } }
    if (s.gridOf s.cur.gid).steered then .next ((s.addSites 1 1 false [(low, pa / 8 * 8, id)]).waitOn .site 4 id)
    else .next (s.waitOn (.homeOp id) 4 id)
  | .absent => .next ((s.waitOn .none 2).parkPages w.s [pageOf va])
  | .freeze pa =>
    .next (if s.isReleased s.me s.cur.pc then (s.dropArriveLong p).raiseAddr w.s MEMORY 5 s.cur.lanes va 0
      else (s.freezeCore pa).waitOn .none 2)
  | .fault sub => .next ((s.dropArriveLong p).raiseAddr w.s MEMORY sub s.cur.lanes va 0)
  | .node _ _ => .next ((s.dropArriveLong p).raiseAddr w.s MEMORY 3 s.cur.lanes va 0)

/-- ARRIVE (R324). -/
def execArrive (w : GA) (x : GXC) (s : State) : Out :=
  let p := x.pred.toNat
  groupIssue (.arrive w x) w.s w.guard { sr := regs w.a 2 ++ gbRegs w, qw := preds x.pred } false false false s (fun s =>
    if s.cur.stage = 4 then
      match s.mem.homeOps.find? (fun o => o.id == s.cur.aux) with
      | none => .next (s.finish w.s {})
      | some o =>
        let s := { s with mem := { s.mem with homeOps := s.mem.homeOps.filter (fun y => y.id != o.id) } }
        let s := s.fillArriveLong p o.result
        if o.result then
          let s := s.extendView o.who
          if (s.gridOf s.cur.gid).steered then .next (s.finish w.s {})
          else .next ((s.takeCut s.cur.gid).finish w.s {})
        else .next (s.finish w.s {})
    else
      let go (s : State) : Out :=
        commitDrive w.s s.cur.lanes s (fun k s => s.siteCommit k) (fun s => arriveSend w x s) (fun s => s.dropArriveLong p)
      if s.cur.stage = 0 then
        memGroup w.s .atomic 2 0 4 (s.sread64 w.a.toNat : Nat) 0 s (fun a s =>
          match a with
          | .node _ _ _ => .next (s.raiseAddr w.s MEMORY 3 s.cur.lanes (s.sread64 w.a.toNat) 0)
          | _ => if s.gb w = 0 then .next (s.raiseAll w.s ILLEGAL 3 s.cur.lanes) else go (s.arriveLong p))
      else go s)

/-! ## WAITLOW, TRIGGER, WAITV (R326 to R328) -/

/-- Teams 0 to k of a grid have retired. -/
def State.lowRetired (s : State) (grid k : Nat) : Bool :=
  (s.teams.cells.filter (fun c => c.2.grid == grid && c.2.retired && c.2.idx ≤ k)).length == k + 1

/-- WAITLOW (R326, 06 R97). -/
def execWaitlow (w : GA) (x : GXC) (s : State) : Out :=
  groupIssue (.waitlow w x) w.s w.guard { sr := gbRegs w } false false false s (fun s =>
    if s.cur.stage = 3 then .next (s.finish w.s {})
    else
      let g := s.g
      let k := (s.gb w).toInt
      if (g.team : Int) ≤ k then .next (s.raiseAll w.s ILLEGAL 3 s.cur.lanes)
      else if k < 0 then cutAndFinish w.s s
      else if s.lowRetired g.grid k.toNat then
        let t := s.team g.teamKey
        let s := if (s.grid g.grid).det then s.setTeam g.teamKey { t with horizon1 := max t.horizon1 (k.toNat + 1) } else s
        cutAndFinish w.s s
      else .next (s.park w.s (.waitlow k.toNat)))

/-- TRIGGER (R327). -/
def execTrigger (w : GA) (s : State) : Out :=
  groupIssue (.trigger w) w.s w.guard {} false false false s (fun s =>
    let g := s.g
    .next (((s.setG { g with triggered := true }).noteTrigger g.teamKey).finish w.s {}))

/-- An atomic, ATLD or WAITV has read the word at `pa`: it may have observed the predecessor's record (06 R99). -/
def State.observe (s : State) (gid pa : Nat) : State :=
  let g := s.group gid
  match (s.grid g.grid).pred with
  | none => s
  | some p =>
    let d := (s.grid p).donePa
    if d ≠ 0 && d - 1 ≤ pa && pa < d + 15 then s.setGroup gid { g with observed := true } else s

/-- The condition of a WAITV on the newest committed word. -/
def State.waitvOk (s : State) (pa c ty : Nat) (v : Word) : Bool :=
  let t := BitVec.ofNat 4 ty
  intCond c (intVal t (BitVec.ofNat 32 (s.newestN pa 4))) (intVal t v)

/-- WAITV (R328). -/
def execWaitv (w : GA) (x : GXC) (s : State) : Out :=
  groupIssue (.waitv w x) w.s w.guard { sr := regs w.a 2 ++ gbRegs w } false false false s (fun s =>
    let va := s.sread64 w.a.toNat
    memGroup w.s .load 0 0 4 (va : Nat) 0 s (fun a s =>
      match a with
      | .ok _ pa cm =>
        let v := s.gb w
        let pa := s.at cm pa
        if s.waitvOk pa x.sub.toNat x.ty.toNat v then .next ((s.observe s.cur.gid pa).finish w.s {})
        else .next (s.park w.s (.waitv va pa x.sub.toNat x.ty.toNat v))
      | _ => .next (s.raiseAddr w.s MEMORY 3 s.cur.lanes va 0)))

end Sys2Proof.Machine
end

