-- ==== Sys2Proof/Machine/GroupRegs.lean ====
section
/-! DEFINITION. Budgets, holds, names and deliveries (17 R329 to R332, 07 R141 to R146), TRAP and RFT (17 R341, R342). -/

namespace Sys2Proof.Machine
open Sys2Proof

/-! ## Budgets (R329) -/

/-- XACQ (R329). -/
def execXacq (w : GA) (s : State) : Out :=
  groupIssue (.xacq w) w.s w.guard {} false false false s (fun s =>
    acquire w.s w.x.toNat s (fun s => .next (s.finish w.s {})))

/-- XREL (R329). -/
def execXrel (w : GA) (s : State) : Out :=
  groupIssue (.xrel w) w.s w.guard {} false false false s (fun s =>
    let k := w.x.toNat
    let g := s.g
    if g.budget ≤ k then .next (s.finish w.s {})
    else
      match g.pendV.find? (fun r => vLimit k ≤ r) with
      | some r => .next (s.raiseReg w.s SEGMENT 2 s.cur.lanes 0 r)
      | none =>
        let p := s.part g.partKey
        let s := s.setPart g.partKey { p with latch := p.latch.filter (fun e => !(e.1 == s.cur.gid && vLimit k ≤ e.2.1)) }
        .next ((s.setG { g with
          budget := k, v := ⟨g.v.cells.filter (fun c => c.1 < vLimit k)⟩, holds := ⟨g.holds.cells.filter (fun c => c.1 < vLimit k)⟩,
          bad := g.bad.filter (fun b => !(b.1 == 0 && vLimit k ≤ b.2.1)) }).finish w.s {}))

/-- HOLD (R330): the count of vN. It names vN, and does not read it. -/
def execHold (w : GA) (x : GXC) (s : State) : Out :=
  groupIssue (.hold w x) w.s w.guard {} false false false s (fun s =>
    let g := s.g
    let r := w.d.toNat
    if vLimit g.budget ≤ r then .next (s.raiseReg w.s BUDGET 1 s.cur.lanes 0 r)
    else .next ((s.setG { g with holds := g.holds.set 0 r (x.imm.toNat % 256) }).finish w.s {}))

/-! ## Names (07 R141, R142) -/

def nameOf (pkg idx gen : Nat) : Nat := pkg % 64 * 2 ^ 26 + idx % 2 ^ 18 * 2 ^ 8 + gen % 256

/-- A free index: one never used, lowest first, then the least recently freed (log 21). -/
def Names.take (n : Names) : Option (Nat × Names) :=
  if n.used + 1 ≤ 262143 then some (n.used + 1, { n with used := n.used + 1 })
  else match n.freed with
    | i :: t => some (i, { n with freed := t })
    | [] => none

/-- NAME (R331). -/
def execName (w : GA) (s : State) : Out :=
  groupIssue (.name w) w.s w.guard { sw := [w.d.toNat] } false false false s (fun s =>
    let g := s.g
    let canon := !(s.grid g.grid).free
    let put (s : State) (v : Nat) : Out :=
      let g := s.g
      let s := s.setG { g with spec := { g.spec with name := v } }
      .next ((s.addLong { ss := [(w.d.toNat, BitVec.ofNat 32 v)] }).finish w.s {})
    if g.nameIdx ≠ 0 then put s g.spec.name
    else if canon && 16383 ≤ g.team then .next (s.raiseAll w.s NAME 2 s.cur.lanes)
    else
      match s.names.take with
      | none => .next (s.raiseAll w.s NAME 1 s.cur.lanes)
      | some (i, n) =>
        let s := { s with names := { n with holder := n.holder.set 0 i (s.cur.gid + 1) } }
        let s := s.setG { s.g with nameIdx := i }
        put s (if canon then nameOf s.pkgid (16 * g.team + g.num + 1) 0 else nameOf s.pkgid i (n.gens.get 0 i + 1)))

/-- The group that a name of this package reaches, for a sender of grid `grid` (R142, R143). -/
def State.resolveName (s : State) (grid name : Nat) : Option Nat :=
  let idx := bits name 25 8
  let gen := name % 256
  if idx = 0 then none
  else if gen = 0 then
    if (s.grid grid).free then none
    else
      match s.member grid ((idx - 1) / 16) ((idx - 1) % 16) with
      | some k => if (s.group k).nameIdx ≠ 0 && (s.group k).status != .draining then some k else none
      | none => none
  else
    let h := s.names.holder.get 0 idx
    if h ≠ 0 && gen == s.names.gens.get 0 idx + 1 then some (h - 1) else none

/-! ## Deliveries (R143 to R146) -/

/-- Counts one undelivered delivery of the sender for a package. -/
def State.undelivered (s : State) (gid pkg : Nat) : State :=
  let g := s.group gid
  if g.status == .gone then s
  else s.setGroup gid { g with undelivered := g.undelivered.set 0 pkg (g.undelivered.get 0 pkg + 1) }

/-- The relay node of a group for a package: kept while it is up, else the lowest node that is up (02 R28). -/
def State.relayFor (s : State) (gid pkg : Nat) : Option Nat × State :=
  let g := s.group gid
  let r := g.relay.get 0 pkg
  if r ≠ 0 && s.nstate (r - 1) == 1 then (some (r - 1), s)
  else
    match (List.range 16).find? (fun n => s.nstate n == 1) with
    | some n => (some n, s.setGroup gid { g with relay := g.relay.set 0 pkg (n + 1) })
    | none => (none, s)

/-- Writes a delivery into register `r` of group `t`: the whole register, then the hold count (R144). Code 0x06 where
another sender's delivery came since the last completed read (06 R93). -/
def State.deliver (s : State) (t r sender pc : Nat) (charge : Option Nat) (data : Lanes) : State :=
  let g := s.group t
  let last := g.lastDelivery.get 0 r
  let s := if last ≠ 0 && last ≠ sender + 1 then
      (match charge with
       | some k => s.cause k 6 pc r
       | none => s.causeGrid g.grid 6 r)
    else s
  let g := s.group t
  let g := { g with holds := g.holds.set 0 r (g.holds.get 0 r - 1), lastDelivery := g.lastDelivery.set 0 r (sender + 1),
                    bad := g.bad.filter (fun b => !(b.1 == 0 && b.2.1 == r)),
                    senders := if g.senders.contains sender then g.senders else sender :: g.senders }
  let p := s.part g.partKey
  (s.setPart g.partKey { p with latch := p.latch.filter (fun e => !(e.1 == t && e.2.1 == r)) }).setGroup t (g.setV r data)

/-- A delivery to an evicted group is written into its image as well: the register and its hold count (R143). -/
def State.deliverImage (s : State) (t r : Nat) : State :=
  let g := s.group t
  let l := (List.range 128).map (fun k => (g.vreg r).get k)
  let s := (List.range 128).foldl (fun s k => s.patchN (g.image + 0x7000 + 512 * r + 4 * k) 4 (l.getD k 0).toNat) s
  s.patchN (g.image + 0x840 + r) 1 (g.holds.get 0 r)

/-- One delivery at the name agent: written, held, or dropped and counted (R143, R145). Answers whether it is held. -/
def State.agentTake (s : State) (target grid r sender pc : Nat) (sameGrid : Nat → Bool) (drop : State → State)
    (data : Lanes) : Bool × State :=
  match s.resolveName grid target with
  | none => (false, drop s)
  | some t =>
    let g := s.group t
    if g.status == .migrating then (true, s)
    else if vLimit g.budget ≤ r then (false, drop s)
    else
      let s := s.deliver t r sender pc (if sameGrid t then some sender else none) data
      (false, if g.status == .evicted then s.deliverImage t r else s)

def State.dropDelivery (s : State) (k : Nat) : State :=
  { s with eng := { s.eng with deliveries := s.eng.deliveries.filter (fun d => d.id != k) } }

/-- The commits that a delivery waits for are visible. -/
def State.deliveryLeaves (s : State) (d : Delivery) : Bool :=
  d.after.all (fun k => (s.mem.commits.find? (fun c => c.id == k)).isNone)

/-- A delivery may arrive: its commits are visible, its port sends, and no earlier one of the group to the same package is
still under way (02 R32), but for those that the agent holds. -/
def State.deliveryReady (s : State) (d : Delivery) : Bool :=
  s.deliveryLeaves d && !(d.relay != 0 && s.portWaits d.port) &&
  !(s.eng.deliveries.any (fun e => e.id < d.id && e.gid == d.gid && e.pkg == d.pkg && (!e.held || (e.target == d.target && e.reg == d.reg))))

/-- Performs a delivery of this package (R143). One that the agent holds for a migrating group goes to the end of the
list, which keeps the order of arrival. A canonical name of another package reaches no group (R142); the fate of any
other name of a package of the pod is a free value (log 22). -/
def State.performDelivery (s : State) (d : Delivery) : State :=
  let drop (s : State) : State := s.undelivered d.gid d.pkg
  if d.pkg == s.pkgid then
    let r := s.agentTake d.target d.grid d.reg d.gid d.pc (fun t => (s.group t).grid == d.grid) drop d.data
    if r.1 then
      let e := r.2.eng
      { r.2 with eng := { e with deliveries := e.deliveries.filter (fun x => x.id != d.id) ++ [{ d with held := true }] } }
    else r.2.dropDelivery d.id
  else if !s.host.pod.contains d.pkg || d.target % 256 = 0 then (drop s).dropDelivery d.id
  else
    let r := s.drawNat
    (if r.1 % 2 == 1 then drop r.2 else r.2).dropDelivery d.id

/-- RSTV (R332). In a steered grid a canonical name is looked up when the sequencer performs the delivery (log 34). -/
def execRstv (w : GA) (x : GXC) (s : State) : Out :=
  groupIssue (.rstv w x) w.s w.guard { vr := [w.a.toNat], sr := [w.d.toNat] } false false false s (fun s =>
    let g := s.g
    let gid := s.cur.gid
    let name := (g.sreg w.d.toNat).toNat
    let pkg := bits name 31 26
    let r := x.imm.toNat % 64
    let near := pkg == s.pkgid
    let rel : Option Nat × State := if near then (none, s) else s.relayFor gid pkg
    let s := rel.2
    let (id, s) := s.fresh
    let d : Delivery := { id, gid, grid := g.grid, team := g.team, num := g.num, pc := s.cur.pc, target := name, reg := r,
                          data := g.vreg w.a.toNat, after := (s.mem.commits.filter (fun c => c.gid == gid)).map (·.id),
                          relay := match rel.1 with | some n => n + 1 | none => 0,
                          port := s.portFor (rel.1.getD 0) g.core, pkg, at_ := s.clock }
    let s :=
      if !near && (rel.1.isNone || s.portDown d.port) then s.undelivered gid pkg
      else { s with eng := { s.eng with deliveries := s.eng.deliveries ++ [d] } }
    let idx := bits name 25 8
    let s :=
      if !near || !(s.grid g.grid).steered || idx = 0 then s
      else if name % 256 = 0 then s.addSites 4 5 false [(0, (idx - 1) * 64 + r, id)]
      else
        match s.resolveName g.grid name with
        | some t =>
          let tg := s.group t
          if tg.grid == g.grid then s.addSites 4 5 false [(0, (tg.team * 16 + tg.num) * 64 + r, id)] else s
        | none => s
    .next (s.finish w.s {}))

/-! ## TRAP and RFT (R341, R342) -/

/-- TRAP (R341). -/
def execTrap (w : GA) (s : State) : Out :=
  groupIssue (.trap w) w.s w.guard {} false false false s (fun s =>
    .next (s.raiseAll w.s w.x.toNat w.d.toNat s.cur.lanes))

/-- RFT: the trap subgroup's lanes return, and the handler set is freed (10 R197). -/
def returnFrom (i : Instr) (w : GA) (form : Nat) (s : State) : Out :=
  groupIssue i w.s w.guard {} false false true s (fun s =>
    let g := s.g
    let gid := s.cur.gid
    let t15 := (s.part g.partKey).t.get {} 15
    let back := (g.trap.elim 0 (·.lanes)) &&& g.live
    let odd := Mask.of (fun l => back.has l && (t15.get l).toNat % 4 != 0)
    if form = 2 && odd ≠ 0 then .next (s.raiseAll w.s ILLEGAL 3 odd)
    else .next ((s.setG { g with issued := g.issued + 1, retired := g.retired + 1, marker := g.marker || w.s }).rft gid form))

/-- RFT.RETRY (10 R197). -/
def execRftRetry (w : GA) (s : State) : Out := returnFrom (.rftRetry w) w 0 s
/-- RFT.NEXT (10 R197). -/
def execRftNext (w : GA) (s : State) : Out := returnFrom (.rftNext w) w 1 s
/-- RFT.JUMP (10 R197). -/
def execRftJump (w : GA) (s : State) : Out := returnFrom (.rftJump w) w 2 s

end Sys2Proof.Machine
end

