-- ==== Sys2Proof/Machine/Queues.lean ====
section
/-! DEFINITION. The queues between the two slices of a group (07 R132 to R140, 17 R334 to R337). Queues 0 to 3 are oq0
to oq3, 4 is wq and 5 is bq. -/

namespace Sys2Proof.Machine
open Sys2Proof

def Group.queue (g : Group) (q : Nat) : List QEntry := g.queues.get [] q
def Group.setQueue (g : Group) (q : Nat) (l : List QEntry) : Group := { g with queues := g.queues.set [] q l }
/-- The depth of a queue of the group's grid: 0 in an unsliced group, whose queues are absent. -/
def State.qdepth (s : State) (g : Group) (q : Nat) : Nat :=
  if g.sliced then (s.grid g.grid).launch.qdepth.getD q 0 else 0
/-- Entries that are being filled or are filled, over the four oqs (R135). -/
def Group.slip (g : Group) : Nat := ((List.range 4).map (fun q => (g.queue q).length)).foldl (· + ·) 0
def State.qFull (s : State) (g : Group) (q : Nat) : Bool := s.qdepth g q ≤ (g.queue q).length

/-- The head entry of a queue of depth `d` leaves it. -/
def Group.pop (g : Group) (q d : Nat) : Group :=
  let g := g.setQueue q (g.queue q).tail
  { g with a := { g.a with heads := g.a.heads.set 0 q ((g.a.heads.get 0 q + 1) % max 1 d) } }

/-- The group's unpublished bytes, each with its place among its commits (R137). -/
def State.viewNow (s : State) (gid : Nat) : FMap (Option (Byte × Nat)) :=
  let g := s.group gid
  let lay (m : FMap (Option (Byte × Nat))) (n : Nat) (f : FMap (Option Byte)) : FMap (Option (Byte × Nat)) :=
    f.cells.foldl (fun m c => m.set none c.1 (c.2.map (fun b => (b, n)))) m
  lay ((s.mem.commits.filter (fun c => c.gid == gid)).foldl (fun m c => lay m c.epoch c.covers) {}) g.epoch g.unpub

/-! ## QPUSH and QPOP (R334, R335) -/

/-- QPUSH (R334). -/
def execQpush (w : GA) (x : GXC) (s : State) : Out :=
  groupIssue (.qpush w x) w.s w.guard { vr := [w.a.toNat] } false false false s (fun s =>
    let g := s.g
    let q := x.queue.toNat
    if s.qdepth g q = 0 then .next (s.raiseAll w.s QUEUE 1 s.cur.lanes)
    else if q < 4 then .next (s.raiseAll w.s QUEUE 2 s.cur.lanes)
    else if s.qFull g q then
      match g.a.fault with
      | some a => .next (s.takeAFault w.s s.cur.lanes a)
      | none => .next (s.waitOn (.room q))
    else
      let e : QEntry := { data := g.vreg w.a.toNat, cut := g.cut, lcut := g.lcut,
                          view := if q = 5 then s.viewNow s.cur.gid else {} }
      let g := g.setQueue q (g.queue q ++ [e])
      .next ((s.setG (if q = 4 then { g with a := { g.a with pushed := g.a.pushed + 1 } } else g)).finish w.s {}))

/-- The A-slice pops the head of bq: it takes the entry's cut, and sees what the entry orders (R137, R138). -/
def Group.popBq (g : Group) (d : Nat) (e : QEntry) : Group :=
  let g := g.pop 5 d
  { g with a := { g.a with cut := e.cut, lcut := e.lcut, view := e.view } }

/-- QPOP (R335). -/
def execQpop (w : GA) (x : GXC) (s : State) : Out :=
  let d := w.d.toNat
  let q := x.queue.toNat
  groupIssue (.qpop w x) w.s w.guard (if s.cur.aslice then { sw := [d] } else { vw := [d], pw := preds x.pred })
    true false false s (fun s =>
    let g := s.g
    if s.cur.aslice then
      if x.pred ≠ 0 then .next (s.raiseAll w.s ILLEGAL 2 s.cur.lanes)
      else if s.qdepth g q = 0 then .next (s.raiseAll w.s QUEUE 1 s.cur.lanes)
      else if q ≠ 5 then .next (s.raiseAll w.s QUEUE 3 s.cur.lanes)
      else
        match g.queue 5 with
        | [] => .next (s.waitOn (.entry 5))
        | e :: _ =>
          if e.bad.has 0 then .next (s.raiseAll w.s SOFT 4 s.cur.lanes)
          else .next (((s.setG (g.popBq (s.qdepth g 5) e)).swrite d (e.data.get 0)).finish w.s {})
    else if s.qdepth g q = 0 then .next (s.raiseAll w.s QUEUE 1 s.cur.lanes)
    else if 4 ≤ q then .next (s.raiseAll w.s QUEUE 2 s.cur.lanes)
    else
      match g.queue q, g.a.fault with
      | [], some a => .next (s.takeAFault w.s s.cur.lanes a)
      | [], none => .next (s.park w.s (.qpop q))
      | e :: _, _ =>
        if !e.filled then .next (s.park w.s (.qpop q))
        else
          let go (m : Mask) (s : State) : Out :=
            let s := s.setG (s.g.pop q (s.qdepth s.g q))
            .next ((s.addLong { vs := [(d, m, e.data)], ps := if x.pred = 7 then [] else [(x.pred.toNat, m, e.mask)] }).finish w.s {})
          let bad := e.bad &&& s.cur.lanes
          if bad ≠ 0 then s.soft w.s 4 bad s.cur.lanes go else go s.cur.lanes s)

/-- QSLIP (R337). -/
def execQslip (w : GA) (s : State) : Out :=
  groupIssue (.qslip w) w.s w.guard { sr := gbRegs w } true false false s (fun s =>
    let g := s.g
    let k := (s.gb w).toNat
    let sum := ((List.range 4).map (s.qdepth g)).foldl (· + ·) 0
    if !g.sliced then .next (s.raiseAll w.s QUEUE 1 s.cur.lanes)
    else if k < 1 || sum < k then .next (s.raiseAll w.s ILLEGAL 3 s.cur.lanes)
    else .next ((s.setG { g with a := { g.a with slip := k } }).finish w.s {}))

/-! ## AQLD and AQST (R336, R139) -/

/-- An A-slice instruction met in C-slice code (R336). -/
def aOnly (w : GA) (s : State) (k : State → Out) : Out :=
  if s.cur.aslice then k s
  else if !s.g.guardG w.guard then .next (s.finish w.s {})
  else .next (s.raiseAll w.s ILLEGAL 5 s.cur.lanes)

/-- EA of lane l. -/
def State.aqAddr (s : State) (w : GA) (x : LXM) (idx : Option QEntry) (l : Nat) : Int :=
  let n := accessBytes x.width
  let o : Nat := match idx with | some e => (e.data.get l).toNat | none => n * l
  let base : Nat := if x.space = 0 then s.sread64 w.a.toNat else (s.sread w.a.toNat).toNat
  let ea : Int := (base : Int) + x.off.toInt + o
  if x.space = 0 then ea % (2 ^ 64 : Int) else ea

/-- The index entry of an .idx access: answers whether it must wait (R336). -/
def idxEntry (x : LXM) (g : Group) : Option (Option QEntry) :=
  if x.rp = 0 then some none
  else match g.queue 5 with
    | e :: _ => some (some e)
    | [] => none

/-- Lane faults of an A-slice access: a fabric page is MEMORY 0x03. -/
def aFaults (l : List (Nat × LaneAcc)) (addr : Nat → Int) : List LaneFault :=
  l.filterMap (fun x => match x.2 with
    | .fault f => some f
    | .node _ _ _ => some { lane := x.1, cls := MEMORY, sub := 3, addr := (addr x.1 % (2 ^ 64 : Int)).toNat }
    | _ => none)

/-- AQLD (R336): the entry is reserved and its data read; QUEUE_ENTRY_FILL makes it poppable. -/
def execAqld (w : GA) (x : LXM) (s : State) : Out :=
  aOnly w s (fun s =>
  groupIssue (.aqld w x) w.s w.guard { sr := regs w.a (if x.space = 0 then 2 else 1) } true false (x.space == 4) s (fun s =>
    let g := s.g
    let q := w.d.toNat
    let n := accessBytes x.width
    let space := x.space.toNat
    if s.qdepth g q = 0 || (x.rp ≠ 0 && s.qdepth g 5 = 0) then .next (s.raiseAll w.s QUEUE 1 s.cur.lanes)
    else if g.a.slip ≤ g.slip || s.qFull g q then .next (s.waitOn (.slip q))
    else
      match idxEntry x g with
      | none => .next (s.waitOn (.entry 5))
      | some ie =>
        if ie.elim false (fun e => e.bad ≠ 0) then .next (s.raiseAll w.s SOFT 4 s.cur.lanes)
        else
        let addr := s.aqAddr w x ie
        let r := s.checkLanes .load space n addr (fun _ => 0) Mask.full.list
        let c := r.2.watchLanes 0 space n (fun _ => 0) r.1
        let acc := c.1
        let s := c.2
        match acc.findSome? (fun y => match y.2 with | .freeze pa => some pa | _ => none) with
        | some pa => .next (s.freezeCore pa)
        | none =>
          let fs := aFaults acc addr
          if !fs.isEmpty then .next (s.endLanes w.s fs {})
          else
            let pop (g : Group) : Group := match ie with | some e => g.popBq (s.qdepth g 5) e | none => g
            let s := s.setG (pop s.g)
            let away (l : Nat) : Bool := acc.any (fun y => y.1 == l && (match y.2 with | .absent _ => true | _ => false))
            let val (l : Nat) : Nat :=
              match acc.find? (fun y => y.1 == l) with
              | some y => extend x.width x.sgn (s.loadLane space n [] l y.2)
              | none => 0
            let e : QEntry := { data := Lanes.make (fun l => BitVec.ofNat 32 (val l)), mask := Mask.of (fun l => !away l),
                                filled := false }
            let s := s.loadEffects space n acc
            let s := match (List.range 128).find? away with
              | some l => s.cause s.cur.gid 8 s.cur.pc (addr l).toNat
              | none => s
            .next ((s.setG (s.g.setQueue q (s.g.queue q ++ [e]))).finish w.s {})))

/-- One lane's bytes of an AQST. -/
def State.aqStore (s : State) (space n index v : Nat) (a : LaneAcc) : State :=
  let l := bytesOfNat n v
  match a with
  | .ok va _ _ =>
    let n := ((s.mem.commits.find? (fun c => c.gid == s.cur.gid && !c.installed && index < c.wq)).map (·.epoch)).getD s.g.epoch
    let s := s.addBytes s.cur.gid (fun c => index < c.wq) va l
    let put (f : FMap (Option (Byte × Nat))) : FMap (Option (Byte × Nat)) := f.setMany none va (l.map (fun b => some (b, n)))
    let g := s.g
    s.setG { g with a := { g.a with view := put g.a.view },
                    queues := g.queues.mapV [] (fun q => q.map (fun e => { e with view := put e.view })) }
  | .win off =>
    let place := s.winPlace space
    (s.noteRange s.cur.gid s.cur.pc space place off n true).setWinN space place off l
  | _ => s

/-- AQST (R336). -/
def execAqst (w : GA) (x : LXM) (s : State) : Out :=
  aOnly w s (fun s =>
  groupIssue (.aqst w x) w.s w.guard { sr := regs w.a (if x.space = 0 then 2 else 1) } true false (x.space == 4) s (fun s =>
    let g := s.g
    let n := accessBytes x.width
    let space := x.space.toNat
    if s.qdepth g 4 = 0 || (x.rp ≠ 0 && s.qdepth g 5 = 0) then .next (s.raiseAll w.s QUEUE 1 s.cur.lanes)
    else
      match g.queue 4, idxEntry x g with
      | [], _ => .next (s.waitOn (.entry 4))
      | _, none => .next (s.waitOn (.entry 5))
      | y :: _, some ie =>
        let addr := s.aqAddr w x ie
        let r := s.checkLanes .store space n addr y.data.get Mask.full.list
        let s := r.2
        match r.1.findSome? (fun y => match y.2 with | .freeze pa => some pa | _ => none) with
        | some pa => .next (s.freezeCore pa)
        | none =>
          let pages := uniq (r.1.filterMap (fun x => match x.2 with | .absent p => some p | _ => none))
          let early := aFaults r.1 addr
          if y.bad ≠ 0 || ie.elim false (fun e => e.bad ≠ 0) then .next (s.raiseAll w.s SOFT 4 s.cur.lanes)
          else if !early.isEmpty then .next (s.endLanes w.s early {})
          else if !pages.isEmpty then .next (s.parkPages w.s pages)
          else
            let c := s.watchLanes 1 space n y.data.get r.1
            let s := c.2
            let fs := aFaults c.1 addr
            if !fs.isEmpty then .next (s.endLanes w.s fs {})
            else
              let g := s.g
              let index := g.a.popped
              let g := match ie with | some e => g.popBq (s.qdepth g 5) e | none => g
              let g := g.pop 4 (s.qdepth g 4)
              let s := s.setG { g with a := { g.a with popped := index + 1 } }
              let s := c.1.foldl (fun s z => s.aqStore space n index (y.data.get z.1).toNat z.2) s
              .next (s.finish w.s {})))

/-- An oq entry's data arrives: the oldest entry that is reserved and not filled (R135). -/
def State.fillQueue (s : State) (gid q : Nat) : State :=
  let g := s.group gid
  let rec go : List QEntry → List QEntry
    | [] => []
    | e :: t => if e.filled then e :: go t else { e with filled := true } :: t
  s.setGroup gid (g.setQueue q (go (g.queue q)))

end Sys2Proof.Machine
end

