-- ==== Sys2Proof/Machine/Microprog.lean ====
section
/-! DEFINITION. Microprograms (17 R338 to R340): the image's checks, parameters, MCLOAD and MCALL. `step` issues each
operation of a call as if it were fetched in sequence. -/

namespace Sys2Proof.Machine
open Sys2Proof

/-! ## Parameters (R338): a register field that holds 60 to 63 -/

/-- The parameter numbers that the words of an operation use. -/
def paramsOf (w e : Nat) (ext : Bool) : List Nat :=
  let use (v : Nat) : List Nat := if 60 ≤ v then [v - 60] else []
  if isG w then
    use (w / 2 ^ 14 % 64) ++ use (w / 2 ^ 8 % 64) ++ (if w / 2 ^ 7 % 2 == 1 then [] else use (w % 64))
  else
    use (w / 2 ^ 12 % 64) ++ use (w / 2 ^ 6 % 64) ++ use (w % 64) ++
      (if ext && opL w ≠ 0x01 && opL w ≠ 0x02 then use (e / 2 ^ 26 % 64) else [])

/-- The register that stands for a field's value. -/
def subst (f : Nat → Nat) (v : Nat) : Nat := if 60 ≤ v then f (v - 60) else v

/-- The words of an operation with its parameters replaced by `f`. MOVI's and SMOVI's literals are no fields. -/
def substWords (f : Nat → Nat) (w e : Nat) (ext : Bool) : Nat × Nat :=
  let put (w lo : Nat) : Nat := setBits w (lo + 5) lo (subst f (w / 2 ^ lo % 64))
  if isG w then
    let w1 := put (put w 14) 8
    (if w / 2 ^ 7 % 2 == 1 then w1 else put w1 0, e)
  else
    (put (put (put w 12) 6) 0, if ext && opL w ≠ 0x01 && opL w ≠ 0x02 then put e 26 else e)

/-- Parameter j of a call word. -/
def parOf (x : Nat) (j : Nat) : Nat :=
  let c := gxcallOf x
  match j with
  | 0 => c.para.toNat
  | 1 => c.parb.toNat
  | 2 => c.parc.toNat
  | _ => c.pard.toNat

/-- The number of NPAR's last parameter, and the slot. -/
def lastPar (x : GXCall) : Nat := x.npar.toNat

/-! ## MCLOAD (R339) -/

/-- An operation that an image may hold. -/
def microOk (w e : Nat) (ext : Bool) : Bool :=
  (if isG w then opG w ≤ 0x0F || opG w == 0x14 || opG w == 0x15 else opL w < 0x50) &&
  (let p := substWords (fun _ => 0) w e ext
   match decodeWords p.1 p.2 with
   | .ok i => i.wfCode == 0
   | .error _ => false)

/-- The header's checks, and those of the operations: they total NWORDS and each decodes. -/
def imageOk (hdr : Nat) (ws : List Nat) : Bool :=
  let n := hdr % 128
  let ops := bits hdr 12 8 + 1
  let l := opsOf ws ops
  bits hdr 31 13 == 0 && bits hdr 7 7 == 0 && 1 ≤ n && n ≤ 64 &&
    l.length == ops && (l.map (fun o => if o.2.2 then 2 else 1)).foldl (· + ·) 0 == n &&
    l.all (fun o => microOk o.1 o.2.1 o.2.2)

/-- Cores whose groups run or wait at the slot. -/
def State.slotRuns (s : State) (ck slot : Nat) : Bool :=
  (s.resident ck).any (fun k => (s.group k).subs.any (fun x => match x.micro with | some (n, _) => n == slot | none => false) ||
    (match (s.group k).trap with | some t => t.flags / 2 % 2 == 1 && t.mslot == slot | none => false))
def State.slotLoads (s : State) (ck slot : Nat) : Bool :=
  (s.resident ck).any (fun k => (s.group k).subs.any (fun x => x.wait == .slotIdle slot))

/-- The answers of a fetch that failed, as faults of the subgroup. -/
def fetchFault (l : List (Nat × FetchRes)) : Option LaneFault :=
  l.findSome? (fun x => match x.2 with
    | .fault cls sub => some { lane := 0, cls, sub, addr := x.1 }
    | _ => none)
def fetchWords (l : List (Nat × FetchRes)) : List Nat := l.map (fun x => match x.2 with | .ok w => w | _ => 0)

/-- MCLOAD (R339). -/
def execMcload (w : GA) (lit : Word) (s : State) : Out :=
  groupIssue (.mcload w lit) w.s w.guard {} false false false s (fun s =>
    let base := branchTo s.cur.pc lit.toInt
    let slot := w.d.toNat
    fetchMany w.s [base] s (fun h s =>
      match fetchFault h with
      | some f => .next (s.raiseGroup w.s f)
      | none =>
        let hdr := (fetchWords h).headD 0
        let addrs := (List.range (hdr % 128)).map (fun k => (base + 4 + 4 * k) % 2 ^ 64)
        if 64 < hdr % 128 then .next (s.raiseAll w.s ILLEGAL 3 s.cur.lanes)
        else
          fetchMany w.s addrs s (fun l s =>
            match fetchFault l with
            | some f => .next (s.raiseGroup w.s f)
            | none =>
              if !imageOk hdr (fetchWords l) then .next (s.raiseAll w.s ILLEGAL 3 s.cur.lanes)
              else
                let ck := s.g.coreKey
                if s.slotRuns ck slot then .next (s.waitOn (.slotIdle slot))
                else
                  let c := s.core ck
                  let m : Micro := { asid := s.asid, addr := base, words := fetchWords l }
                  .next ((s.setCore ck { c with store := c.store.set none slot (some m) }).finish w.s {}))))

/-! ## MCALL (R340) -/

/-- The call's parameters suit every operation of the image. -/
def callOk (x : GXCall) (ops : List (Nat × Nat × Bool)) : Bool :=
  let f := parOf (gxcallWord x)
  ops.all (fun o =>
    (paramsOf o.1 o.2.1 o.2.2).all (fun j => j ≤ lastPar x) &&
    (let p := substWords f o.1 o.2.1 o.2.2
     match decodeWords p.1 p.2 with
     | .ok i => i.wfCode == 0
     | .error _ => false))

/-- MCALL (R340): the subgroup enters the microprogram at operation 0. -/
def execMcall (w : GA) (x : GXCall) (s : State) : Out :=
  groupIssue (.mcall w x) w.s w.guard {} false false false s (fun s =>
    let slot := x.slot.toNat
    let g := s.g
    if s.slotLoads g.coreKey slot then .next (s.waitOn (.slotReady slot))
    else
      match (s.core g.coreKey).store.get none slot with
      | none => .next (s.raiseAll w.s ILLEGAL 3 s.cur.lanes)
      | some m =>
        if m.asid ≠ s.asid || !callOk x (s.microOps slot) then .next (s.raiseAll w.s ILLEGAL 3 s.cur.lanes)
        else
          let maux := gxcallWord x + (if w.s then 2 ^ 32 else 0)
          let g := g.modSub s.cur (fun y => { y with micro := some (slot, 0), maux, wait := .none, stage := 0, aux := 0 })
          .next (s.setG { g with issued := g.issued + 1, retired := g.retired + 1 }))

end Sys2Proof.Machine
end

