-- ==== Sys2Proof/Machine/LaunchUnit.lean ====
section
/-! DEFINITION. From launch to slot (05 R73 to R83): the launch record and its refusals, the pending-launch store,
admission and placement, mailbox slots (04 R65), and LAUNCH (17 R343). -/

namespace Sys2Proof.Machine
open Sys2Proof

/-! ## The launch record (R73, R74) -/

/-- Bytes hi:lo of a record. -/
def byteF (v hi lo : Nat) : Nat := bits v (8 * hi + 7) (8 * lo)

def roleCount (r : Nat) : Nat := r % 256
def roleBlocks (r : Nat) : Nat := bits r 9 8
def roleSliced (r : Nat) : Bool := bits r 10 10 == 1
def roleOff (r : Nat) : Nat := bits r 31 16

/-- The record's fields, from its 128 bytes as one number. -/
def parseLaunch (v : Nat) : Launch :=
  { entry := byteF v 7 0, aentry := byteF v 15 8, root := byteF v 23 16, asid := byteF v 25 24,
    mode := byteF v 26 26 % 4, exhaust := byteF v 26 26 / 4 % 2 == 1, prio := byteF v 27 27 % 8,
    energy := byteF v 28 28 % 8, groups := byteF v 29 29, msiv := byteF v 30 30,
    depon := byteF v 31 31 % 2 == 1, deptrig := byteF v 31 31 / 2 % 2 == 1, teams := byteF v 35 32,
    gridid := byteF v 39 36, tag := byteF v 43 40, deptag := byteF v 47 44, tmem := byteF v 51 48,
    steerlen := byteF v 55 52, steeraddr := byteF v 63 56, args := byteF v 71 64, doneaddr := byteF v 79 72,
    roles := (List.range 4).map (fun n => byteF v (83 + 4 * n) (80 + 4 * n)),
    qdepth := (List.range 6).map (fun n => byteF v (96 + n) (96 + n)), qslipi := byteF v 102 102 }

/-- Reserved fields and bits are 0, and MAGIC is exact. -/
def launchShape (v : Nat) : Bool :=
  byteF v 115 112 == 0x4C523950 && byteF v 26 26 / 8 == 0 && byteF v 27 27 / 8 == 0 && byteF v 28 28 / 8 == 0 &&
    byteF v 31 31 / 4 == 0 && byteF v 111 103 == 0 && byteF v 127 116 == 0 &&
    (List.range 4).all (fun n => bits (byteF v (83 + 4 * n) (80 + 4 * n)) 15 11 == 0)

/-! ## Roles and storage (R74, R81, R82) -/

/-- The role of group j. -/
def roleIn : List Nat → Nat → Nat → Nat
  | [], _, n => n
  | r :: t, j, n => if j < roleCount r then n else roleIn t (j - roleCount r) (n + 1)
def Launch.roleOf (l : Launch) (j : Nat) : Nat := roleIn l.roles j 0
def Launch.role (l : Launch) (j : Nat) : Nat := l.roles.getD (l.roleOf j) 0

def Launch.oqSum (l : Launch) : Nat := (l.qdepth.take 4).foldl (· + ·) 0
/-- Queue storage of a sliced group (R81). -/
def Launch.queueBytes (l : Launch) : Nat :=
  (528 * l.oqSum + 512 * (l.qdepth.getD 4 0 + l.qdepth.getD 5 0) + 1023) / 1024 * 1024
def Launch.storage (l : Launch) : Nat :=
  ((List.range l.groups).filter (fun j => roleSliced (l.role j))).length * l.queueBytes

def energyWeight (c : Nat) : Nat := [1, 2, 3, 4, 6, 8, 12, 16].getD c 0
def Launch.weight (l : Launch) : Nat := energyWeight l.energy

/-! ## Admission (R80) -/

/-- Groups in partition p among the used slots. -/
def inPart (used : List Nat) (p : Nat) : Nat := (used.filter (fun x => x / 4 == p)).length

/-- The partition of a quadrant that holds the fewest groups, ties to the lower; and its lowest free slot. -/
def slotFor (used : List Nat) (q : Nat) : Option Nat :=
  let p := [4 * q + 1, 4 * q + 2, 4 * q + 3].foldl (fun b p => if inPart used p < inPart used b then p else b) (4 * q)
  ([0, 1, 2, 3].map (4 * p + ·)).find? (fun x => !used.contains x)

/-- Slots for groups j, j + 1, …, whose blocks come from `free` (blocks left in each partition). -/
def placeAll (l : Launch) (used : List Nat) (free : Nat → Nat) : Nat → Nat → Option (List Nat)
  | _, 0 => some []
  | j, n + 1 =>
    match slotFor used (j % 4) with
    | none => none
    | some x =>
      let b := roleBlocks (l.role j)
      if free (x / 4) < b then none
      else
        match placeAll l (x :: used) (fun p => if p = x / 4 then free p - b else free p) (j + 1) n with
        | some t => some (x :: t)
        | none => none

/-- CBUDGET of a core (R83). -/
def State.cbudget (s : State) (ck : Nat) : Nat := s.host.cbudget.get 96 ck

/-- Teams whose memory is on a core. -/
def State.teamsOn (s : State) (ck : Nat) : List Team :=
  (s.teams.cells.filter (fun c => c.2.live && !c.2.out && coreKey c.2.die c.2.core == ck)).map (·.2)

/-- Team memory in use on a core: TMEM and queue storage of its teams. -/
def State.tmemUsed (s : State) (ck : Nat) : Nat :=
  (s.teamsOn ck).foldl (fun n t => n + (s.grid t.grid).launch.tmem) 0 +
    ((s.groups.cells.filter (fun c => c.2.status != .gone && c.2.coreKey == ck && c.2.sliced &&
        !(s.team c.2.teamKey).out)).foldl (fun n c => n + (s.grid c.2.grid).launch.queueBytes) 0)

/-- The slots that a team of the launch would take on a core, if the core admits it. -/
def State.admits (s : State) (l : Launch) (die core : Nat) : Option (List Nat) :=
  let ck := coreKey die core
  let res := s.resident ck
  let energy := res.foldl (fun n k => n + (s.gridOf k).launch.weight) 0
  if 262144 < s.tmemUsed ck + l.tmem + l.storage || s.cbudget ck < energy + l.groups * l.weight then none
  else placeAll l (res.map (fun k => (s.group k).slot)) (fun p => s.poolFree (ck * 16 + p)) 0 l.groups

/-- The largest CBUDGET of the package's 8 × 256 cores. -/
def State.maxBudget (s : State) : Nat :=
  s.host.cbudget.cells.foldl (fun m c => max m c.2)
    (if s.host.cbudget.cells.length < 2048 then 96 else 0)

/-- A team fits an empty core (R77, 0x7). -/
def State.fitsEmpty (s : State) (l : Launch) : Bool :=
  l.tmem + l.storage ≤ 262144 && l.groups * l.weight ≤ s.maxBudget && (placeAll l [] (fun _ => 8) 0 l.groups).isSome

/-! ## Refusals (R77) -/

def State.launchCode (s : State) (v : Nat) : Nat :=
  let l := parseLaunch v
  let sliced := l.roles.any (fun r => roleCount r ≠ 0 && roleSliced r)
  if !launchShape v then 1
  else if l.mode = 3 || (l.mode ≠ 2 && (l.steerlen ≠ 0 || l.steeraddr ≠ 0)) || l.steeraddr % 2 ≠ 0 then 2
  else if l.groups < 1 || 16 < l.groups || (l.roles.map roleCount).foldl (· + ·) 0 ≠ l.groups ||
      l.roles.any (fun r => roleBlocks r == 3 || (roleCount r == 0 && r != 0)) then 3
  else if l.teams < 1 || 2 ^ 24 < l.teams then 4
  else if l.entry % 4 ≠ 0 || l.aentry % 4 ≠ 0 || l.root % 65536 ≠ 0 || 2 ^ 52 ≤ l.root || l.doneaddr % 16 ≠ 0 ||
      l.tmem % 1024 ≠ 0 || 262144 < l.tmem || (sliced == (l.aentry == 0)) then 5
  else if l.qdepth.any (fun d => d == 1 || 16 < d) || (sliced && l.oqSum = 0) ||
      (if l.oqSum = 0 then l.qslipi ≠ 0 else l.qslipi < 1 || l.oqSum < l.qslipi) then 6
  else if !s.fitsEmpty l then 7
  else if (l.tag ≠ 0 && s.grids.cells.any (fun c => c.2.inStore && c.2.launch.tag == l.tag)) || (l.deptrig && !l.depon) then 8
  else if l.msiv = 1 || l.msiv = 2 || 63 < l.msiv then 9
  else 0

/-! ## The store (R78, R79) -/

def State.storeUsed (s : State) : Nat := (s.grids.cells.filter (fun c => c.2.inStore)).length
def State.storeFull (s : State) : Bool := 4096 ≤ s.storeUsed

/-- The most recently entered launch with this tag, in the store or running. -/
def State.predOf (s : State) (tag : Nat) : Option Nat :=
  match s.grids.cells.filter (fun c => (c.2.status == .stored || c.2.status == .running) && c.2.launch.tag == tag) with
  | [] => none
  | x :: t => some (t.foldl (fun (b : Nat × Grid) y => if b.2.order < y.2.order then y else b) x).1

/-- A launch enters the store; answers its grid number. -/
def State.enterStore (s : State) (l : Launch) : Nat × State :=
  let (k, s) := s.fresh
  let pred := if l.depon then s.predOf l.deptag else none
  (k, s.setGrid k { status := .stored, launch := l, order := k, pred, inStore := true })

/-- Every team of a grid has triggered or retired. -/
def State.allTriggered (s : State) (p : Nat) : Bool :=
  let g := s.grid p
  g.next == g.launch.teams &&
    (s.teams.cells.filter (fun c => c.2.grid == p && (c.2.retired || c.2.trigTime.isSome))).length == g.launch.teams

/-- The dependence of a launch is met. -/
def State.ready (s : State) (k : Nat) : Bool :=
  let g := s.grid k
  match g.pred with
  | none => true
  | some p => (s.grid p).status == .done || (g.launch.deptrig && s.allTriggered p)

/-- Launches that still have teams to place, in the order of R79: priority, then entry. A frozen launch unit places none
(04 R70). -/
def State.queueOrder (s : State) : List Nat :=
  let l := if s.isFrozen launchMaster then [] else s.grids.cells.filter (fun c =>
    (c.2.status == .stored || c.2.status == .running) && !c.2.stopping && c.2.ending.isNone && c.2.next < c.2.launch.teams &&
      s.ready c.1)
  ((List.range 8).reverse.flatMap (fun p => l.filter (fun c => c.2.launch.prio == p))).map (·.1)

/-! ## Placing a team (R75, R80) -/

/-- A group at its start. -/
def newGroup (l : Launch) (grid idx j die core slot cut now : Nat) : Group :=
  let r := l.role j
  { status := .running, grid := grid, team := idx, num := j, role := l.roleOf j, die := die, core := core, slot := slot,
    sliced := roleSliced r,
    subs := [{ lanes := Mask.full, pc := (l.entry + 4 * roleOff r) % 2 ^ 64, since := now }],
    s := (({} : FMap Word).set 0 0 (BitVec.ofNat 32 l.args)).set 0 1 (BitVec.ofNat 32 (l.args / 2 ^ 32)),
    budget := roleBlocks r, cut := cut, placedAt := now,
    a := { pc := (l.aentry + 4 * roleOff r) % 2 ^ 64, cut := cut, slip := l.qslipi, since := now } }

/-- Teams of a grid that have not been placed. -/
def State.unplaced (s : State) (k : Nat) : List Nat :=
  (List.range (s.grid k).launch.teams).filter (fun i => let t := s.team (teamKey k i); !(t.live || t.retired || t.stopped))

/-- The team that is placed next: the least index, or in free mode any that is left, a free value (R80, log 24). -/
def State.nextTeam (s : State) (k : Nat) : Nat × State :=
  let gr := s.grid k
  if gr.launch.mode ≠ 0 then (gr.next, s)
  else
    match s.unplaced k with
    | [i] => (i, s)
    | l => let r := s.drawNat; (l.getD (r.1 % l.length) gr.next, r.2)

/-- The next team of a grid is placed on a core at these slots. The first fixes the launch cut and clears DCAUSE
(R75, 06 R92). -/
def State.placeTeam (s : State) (k die core : Nat) (slots : List Nat) : State :=
  let r := s.nextTeam k
  let idx := r.1
  let s := r.2
  let gr := s.grid k
  let l := gr.launch
  let cut := if gr.started then gr.cut else s.clock
  let gids := (List.range l.groups).map (s.nextId + ·)
  let s := { s with nextId := s.nextId + l.groups }
  let s := s.setGrid k { gr with status := .running, started := true, cut, next := gr.next + 1,
                                 inStore := gr.inStore && gr.next + 1 ≠ l.teams }
  let s := s.setTeam (teamKey k idx) { live := true, grid := k, idx, die, core, gids }
  (List.range l.groups).foldl (fun s j =>
    let g := newGroup l k idx j die core (slots.getD j 0) cut s.clock
    s.setGroup (gids.getD j 0) { g with traced := s.armed g }) s

/-- The lowest die and core that admit a team of the launch. -/
def State.lowestCore (s : State) (l : Launch) : Option (Nat × Nat × List Nat) :=
  (List.range 2048).findSome? (fun ck => (s.admits l (ck / 256) (ck % 256)).map (fun x => (ck / 256, ck % 256, x)))

/-- Places teams of a grid in ascending index for as long as the next is admitted (06 R103, R375). -/
def State.placeWhile (s : State) (k : Nat) : Nat → State
  | 0 => s
  | n + 1 =>
    let gr := s.grid k
    if gr.launch.teams ≤ gr.next || s.isFrozen launchMaster then s
    else
      match s.lowestCore gr.launch with
      | some (die, core, slots) => (s.placeTeam k die core slots).placeWhile k n
      | none => s

/-- An evicted whole team that goes ahead of a launch: its priority is not lower (R89). -/
def State.returningFirst (s : State) (prio : Nat) : Bool :=
  s.teams.cells.any (fun c => c.2.live && c.2.out && prio ≤ (s.grid c.2.grid).launch.prio &&
    (s.lowestCore (s.grid c.2.grid).launch).isSome)

/-! ## Mailbox slots (04 R65) -/

/-- Reports a failed slot in MBOXERR and raises vector 1. -/
def State.mboxFail (s : State) (slot status code : Nat) : State :=
  let v := s.reg 0x18
  if bits v 16 16 == 1 then s.setReg 0x18 (setBits v 17 17 1)
  else (s.setReg 0x18 (slot + status * 2 ^ 8 + 2 ^ 16 + bits v 17 17 * 2 ^ 17 + code * 2 ^ 24)).msix 1

/-- The lowest slot whose MBOXFULL bit is set (R79). -/
def State.fullSlot (s : State) : Option Nat := (List.range 256).find? s.mboxFull

/-- SLOT_TAKE (04 R65): checks the granules, copies the record, and clears the slot in one step. -/
def execSlotTake (slot : Nat) (s : State) : Out :=
  if s.fullSlot != some slot || s.storeFull || s.isFrozen launchMaster then .next s
  else
    let m := s.mbox
    let off := m.2 + 128 * slot
    let full := (List.range 8).all (fun k => s.isFull 2 m.1 (off + 16 * k))
    let v := s.winN 2 m.1 off 128
    let s := (List.range 8).foldl (fun s k => s.setFull 2 m.1 (off + 16 * k) false) s
    let s := s.setMboxFull slot false
    if !full then .next (s.mboxFail slot 1 0)
    else
      let c := s.launchCode v
      .next (if c ≠ 0 then s.mboxFail slot 2 c else (s.enterStore (parseLaunch v)).2)

/-! ## LAUNCH (17 R343) -/

/-- The status of a launch reaches S(d) and Q(pred), a long result. -/
def launchDone (w : GA) (q : Option Nat) (code : Nat) (s : State) : Out :=
  let qs := match q with | some p => [(p, code == 0)] | none => []
  .next ((s.addLong { ss := [(w.d.toNat, BitVec.ofNat 32 code)], qs }).finish w.s {})

/-- Groups that wait in plain LAUNCH: since when, issuing core and slot, and the group (R79). -/
def State.launchWaiters (s : State) : List (Nat × Nat × Nat) :=
  s.groups.cells.filterMap (fun c => match c.2.wake with
    | some w => (match w.cond with | .storeEntry _ => some (w.since, c.2.coreKey * 64 + c.2.slot, c.1) | _ => none)
    | none => none)

/-- The store has an entry for a group that has asked for one since `since`: the waiting slots come first, then the
groups that have waited longer (R79). -/
def State.entryOpen (s : State) (gid since : Nat) : Bool :=
  let g := s.group gid
  let ahead := s.launchWaiters.filter (fun y => y.2.2 != gid && (y.1 < since || (y.1 == since && y.2.1 < g.coreKey * 64 + g.slot)))
  s.storeUsed + ((List.range 256).filter s.mboxFull).length + ahead.length < 4096

/-- A store entry can be given to this waiting group. -/
def State.entryFor (s : State) (gid : Nat) : Bool :=
  s.entryOpen gid (match (s.group gid).wake with | some w => w.since | none => s.clock)

/-- A record that has been read: refused, or taken into the store. -/
def launchTake (w : GA) (q : Option Nat) (v : Nat) (s : State) : Out :=
  let v := if s.supervisor then v
    else setBits (setBits v 191 128 s.launch.root) 207 192 s.asid
  let c := s.launchCode v
  launchDone w q c (if c = 0 then (s.enterStore (parseLaunch v)).2 else s)

/-- The common body of LAUNCH and LAUNCH.nb. -/
def launchBody (i : Instr) (w : GA) (q : Option Nat) (s : State) : Out :=
  groupIssue i w.s w.guard { sr := regs w.a 2, sw := [w.d.toNat], qw := q.toList } false false false s (fun s =>
    if (s.gridOf s.cur.gid).steered then .next (s.raiseAll w.s STEER 1 s.cur.lanes)
    else
      match s.g.sub s.cur with
      | some x => if x.done = 0 then launchRead s else launchEnter (x.got.get 0 0) x.parkedAt s
      | none => launchRead s)
where
  launchRead (s : State) : Out :=
    let va := s.sread64 w.a.toNat
    let low := s.cur.lanes.low
    memGroup w.s .load 0 0 128 (va : Nat) 0 s (fun a s =>
      fabricWait w.s 0 128 0 0 { ss := [(w.d.toNat, 0)], qs := q.toList.map (fun p => (p, false)) } [(low, a)] (fun _ => 0)
        (fun _ => 0) s (fun ans acc s =>
        match (laneFaults acc).head? with
        | some f => .next (s.raiseGroup w.s f)
        | none => launchEnter (s.loadLane 0 128 ans low a) s.clock (s.loadEffects 0 128 acc)))
  /-- The record has been read; the group has asked for an entry since `since`. -/
  launchEnter (v since : Nat) (s : State) : Out :=
    if s.entryOpen s.cur.gid since then launchTake w q v s
    else
      match q with
      | some _ => launchDone w q 0x10 (s.cause s.cur.gid 9 s.cur.pc (s.sread64 w.a.toNat))
      | none =>
        let s := s.setG (s.g.modSub s.cur (fun x => { x with done := s.cur.lanes, got := x.got.set 0 0 v }))
        .next (s.park w.s (.storeEntry (s.sread64 w.a.toNat)))

/-- LAUNCH (17 R343). -/
def execLaunch (w : GA) (x : GXC) (s : State) : Out := launchBody (.launch w x) w none s
/-- LAUNCH.nb (17 R343). -/
def execLaunchNb (w : GA) (x : GXC) (s : State) : Out := launchBody (.launchNb w x) w (some x.pred.toNat) s

end Sys2Proof.Machine
end

