-- ==== Sys2Proof/Machine/EngineMem.lean ====
section
/-! DEFINITION. What an engine command reads and writes (18 R346, R347): global bytes as its group would, team memory
and scratch at their slices, node memory (02 R32, R34), the barrier object (08 R170), and the faults it records. -/

namespace Sys2Proof.Machine
open Sys2Proof

/-! ## The list of commands in flight -/

def State.engOp (s : State) (k : Nat) : Option EngOp := s.eng.ops.find? (fun o => o.id == k)
def State.setOp (s : State) (o : EngOp) : State :=
  { s with eng := { s.eng with ops := s.eng.ops.map (fun x => if x.id == o.id then o else x) } }
/-- The command has been performed, or has stopped. -/
def State.dropOp (s : State) (k : Nat) : State :=
  { s with eng := { s.eng with ops := s.eng.ops.filter (fun x => x.id != k) } }
/-- Commands of the same group and queue that were issued before this one (08 R168). -/
def State.queueAhead (s : State) (o : EngOp) : Bool :=
  s.eng.ops.any (fun x => x.gid == o.gid && x.queue == o.queue && x.id < o.id)

def EngOp.teamKey (o : EngOp) : Nat := Machine.teamKey o.grid o.team
def EngOp.coreKey (o : EngOp) : Nat := Machine.coreKey o.die o.core
/-- The group as a command reads memory for it; once it is gone, only its identity is left. -/
def State.reader (s : State) (o : EngOp) : Group :=
  let g := s.group o.gid
  if g.status == .gone then { grid := o.grid, team := o.team, num := o.num, die := o.die, core := o.core } else g
/-- The agent that translates for the command: the TAE of its core (09 R176), or the Reflow engine, which is on I-die 1
and walks and asks for pages on C-die 3 (09 R177). -/
def EngOp.agent (o : EngOp) : Nat := if o.kind == .reshard then 4097 else 2048 + o.coreKey
def EngOp.walkDie (o : EngOp) : Nat := if o.kind == .reshard then 3 else o.die
/-- The master that a freeze of the command stops (04 R70). -/
def EngOp.master (o : EngOp) : Nat := if o.kind == .reshard then reflowMaster else taeMaster o.coreKey

/-- The versions that an engine commits for a command are its group's team's, not the group's own (06 R96). -/
def EngOp.owner (o : EngOp) : Owner := { grid := o.grid, team := o.team, num := 16 }

/-! ## The barrier object (08 R170) -/

/-- Subtracts n bytes at a barrier object of a team. -/
def State.subtract (s : State) (tk : Nat) (obj : Option Nat) (n : Nat) : State :=
  match obj with
  | none => s
  | some off =>
    if !(s.team tk).live then s
    else
      let v := s.winN 1 tk off 8
      let c := (BitVec.ofNat 32 v).toInt - n
      let carried := if c < 0 then 1 else bits v 32 32
      s.setWinN 1 tk off (bytesOfNat 8 (bits v 63 33 * 2 ^ 33 + carried * 2 ^ 32 + (c % (2 ^ 32 : Int)).toNat))

/-- Bytes performed: subtracted now, and no longer expected. -/
def State.counted (s : State) (o : EngOp) (n : Nat) : State := s.subtract o.teamKey o.obj n

/-! ## Faults (R347) -/

/-- Records a fault against the group, if it is still there. -/
def State.recordFault (s : State) (gid : Nat) (f : EngFault) : State :=
  let g := s.group gid
  if g.status == .gone then s else s.setGroup gid { g with faults := g.faults ++ [f] }

def EngOp.fault (o : EngOp) (cls sub addr : Nat) : EngFault :=
  { id := o.id, store := o.stores, lanes := o.lanes, cls, sub, addr := BitVec.ofNat 64 addr, engpc := o.pc,
    obj := o.obj, queue := o.queue }

/-- The command stops: its remaining bytes are subtracted, and its fault is recorded. -/
def State.engFail (s : State) (o : EngOp) (cls sub addr : Nat) : State :=
  ((s.counted o o.left).recordFault o.gid (o.fault cls sub addr)).dropOp o.id

/-! ## Node memory (02 R32, R34) -/

/-- Notes an access of a group to a granule of a node, and records a conflict: 0x0B. A granule needs room in the filter
of the port by which the access comes (R34). -/
def State.noteNode (s : State) (gid pc n port a : Nat) (write : Bool) : State :=
  let g := s.group gid
  let k := a / 16
  let l := (s.node n).filter.get [] k
  let hit := l.any (fun y => y.grid == g.grid && !(y.team == g.team && y.group == g.num) && (y.write || write))
  let s := if hit then s.cause gid 0xB pc (n * 2 ^ 60 + a / 16 * 16 % 2 ^ 42) else s
  let unit := 2 ^ 20 + 16 * n + port
  if !(l.any (fun y => y.port == port)) && 65536 ≤ s.nodeUsed n port then
    if s.mem.filterFull.contains unit then s
    else { s.causeGrid g.grid 0xB 0 with mem := { s.mem with filterFull := unit :: s.mem.filterFull } }
  else
    let y : Access := { grid := g.grid, team := g.team, group := g.num, write, at_ := s.clock, port }
    let l := y :: l.filter (fun z => !(z.grid == y.grid && z.team == y.team && z.group == y.group && z.write == y.write))
    let x := s.node n
    s.setNode n { x with filter := x.filter.set [] k l }
/-- The same for every granule of [a, a + len). -/
def State.noteNodes (s : State) (gid pc n port a len : Nat) (write : Bool) : State :=
  (List.range ((a + len - 1) / 16 - a / 16 + 1)).foldl
    (fun s k => s.noteNode gid pc n port (max a ((a / 16 + k) * 16)) write) s

/-! ## Reading and writing -/

inductive ERes where
  | ok (l : List Byte)
  | fault (cls sub addr : Nat)
  | absent (page : Nat)
  /-- It waits, for earlier accesses at a node or because its engine is frozen. -/
  | wait
  deriving DecidableEq, Repr

/-- An engine meets a secure target: it is frozen (04 R70); after the release, the command faults. -/
def State.engFrozen (s : State) (o : EngOp) (va pa : Nat) : ERes × State :=
  if s.isReleased o.id o.pc then (.fault MEMORY 5 va, s.clearFailed o.id) else (.wait, s.freeze o.master o.id o.pc pa)

/-- What the translation of an engine's access answers when it finds no memory. -/
def State.engMiss (s : State) (o : EngOp) (va : Nat) : XRes → ERes × State
  | .fault sub => (.fault MEMORY sub va, s)
  | .freeze pa => s.engFrozen o va pa
  | .absent =>
    (if s.pageFailed o.id (s.grid o.grid).launch.asid (pageOf va) then .fault MEMORY 0xB va else .absent (pageOf va), s)
  | _ => (.fault MEMORY 3 va, s)

/-- Lane accesses of the group to node n that have left and are not performed there (02 R32); those that wait at a
steering site have not left. -/
def State.lanesAt (s : State) (gid n : Nat) : Bool :=
  !(s.gridOf gid).steered && s.mem.fabric.any (fun x => x.gid == gid && x.node == n && x.kind != 3 && !x.replied)
/-- Multicast stores of the group to node n that it has not performed. -/
def State.mcastsAt (s : State) (gid n : Nat) : Bool := s.eng.mcasts.any (fun m => m.gid == gid && m.node == n)

/-- An access of a command to a node: a fault, a wait for the group's earlier accesses there, or `k` (02 R31, R32). -/
def State.engNode (s : State) (o : EngOp) (va n a len : Nat) (k : State → ERes × State) : ERes × State :=
  let p := s.portFor n o.core
  match s.linkFault n p with
  | some sub => (.fault FABRIC sub va, s)
  | none =>
    if s.nodeRefuses n a len then (.fault FABRIC 4 va, s)
    else if s.portWaits p || s.lanesAt o.gid n || s.mcastsAt o.gid n then (.wait, s)
    else k s
/-- The TAE asks for a walk ahead of its fetches (09 R176); one page is asked for once. -/
def State.walkAhead (s : State) (o : EngOp) (va : Nat) : State :=
  let gr := s.grid o.grid
  let asid := gr.launch.asid
  if (s.tlbFind o.agent asid va).isSome || s.xlat.walks.any (fun w => w.agent == o.agent && w.asid == asid && pageOf w.va == pageOf va)
  then s
  else
    let (id, s) := s.fresh
    let w : WalkReq := { id, die := o.walkDie, core := o.core, agent := o.agent, root := gr.launch.root, asid, va, at_ := s.clock }
    { s with xlat := { s.xlat with walks := s.xlat.walks ++ [w] } }

/-- Reads global bytes as a load by the group under the cut that it held at issue (R346). -/
def State.engLoad (s : State) (o : EngOp) : List (Nat × Nat) → ERes × State
  | [] => (.ok [], s)
  | (va, n) :: t =>
    let l := (s.grid o.grid).launch
    let more (s : State) (b : List Byte) : ERes × State :=
      match s.engLoad o t with
      | (.ok c, s) => (.ok (b ++ c), s)
      | r => r
    match s.translate o.agent l.root l.asid .load va with
    | (.node k a, s) => s.engNode o va k a n (fun s =>
        more (s.noteNodes o.gid o.pc k (s.portFor k o.core) a n false) ((List.range n).map (fun i => s.nodeByte k (a + i))))
    | (.ok pa cm, s) =>
      (match s.badIn cm pa n with
       | some a => (.fault MEMORY 8 (va + (a - pa)), s)
       | none =>
         let g := s.reader o
         more (s.readGlobal o.gid o.pc g o.cut va cm pa n) (s.loadAt g o.cut va cm pa n))
    | (r, s) => s.engMiss o va r

/-- Reads n bytes of a space: global, team memory or scratch of a die. -/
def State.engRead (s : State) (o : EngOp) (space place addr n : Nat) : ERes × State :=
  if space = 0 then s.engLoad o (pieces addr n)
  else
    match s.winBad space place addr n with
    | some a => (.fault MEMORY 8 a, s)
    | none => (.ok ((List.range n).map (fun i => s.winByte space place (addr + i))), s.winCorrect space place addr n)

/-- Watches on an engine write (10 R206, R207): a log entry, DEBUG 0x3 at the next wait, or a halt. -/
def State.watchEngine (s : State) (o : EngOp) (va pa n : Nat) : State :=
  (s.watchHits 3 pa n).foldl (fun s h =>
    let first := max pa (s.reg (0x3000 + 32 * h.1) % 2 ^ 52)
    let s := s.watchLog o.gid o.pc first
    let g := s.group o.gid
    let s := if h.2 == 1 && g.status == .running then s.recordFault o.gid (o.fault DEBUG 3 (va + (first - pa)))
      else if h.2 == 2 then s.setGroup o.gid { g with halted := true } else s
    let g := s.group o.gid
    if g.status == .draining && s.reg (0x3010 + 32 * h.1) / 128 % 2 == 1 then s.setGroup o.gid { g with held := true } else s) s

/-- Writes global bytes: unpublished bytes of the group, or posted to a node. Answers `ok []` when all are written;
a fault leaves the bytes before it written (R347). -/
def State.engStore (s : State) (o : EngOp) : List (Nat × Nat) → List Byte → ERes × State
  | [], _ => (.ok [], s)
  | (va, n) :: t, b =>
    let l := (s.grid o.grid).launch
    match s.translate o.agent l.root l.asid .store va with
    | (.node k a, s) => s.engNode o va k a n (fun s =>
        let s := s.cannotUndo o.gid o.pc (k * 2 ^ 60 + a / 16 * 16 % 2 ^ 42)
        ((s.noteNodes o.gid o.pc k (s.portFor k o.core) a n true).setNodeN k a (b.take n)).engStore o t (b.drop n))
    | (.ok pa _, s) =>
      let s := s.watchEngine o va pa n
      let s := if (s.group o.gid).status == .gone then s
        else s.addBytes o.gid (fun c => o.id < c.id) va (b.take n)
      s.engStore o t (b.drop n)
    | (r, s) => s.engMiss o va r

/-- Writes bytes to a space; team memory and scratch granules turn full (08 R154). -/
def State.engWrite (s : State) (o : EngOp) (space place addr : Nat) (l : List Byte) : ERes × State :=
  if space = 0 then s.engStore o (pieces addr l.length) l
  else
    let s := if (s.group o.gid).status == .gone then s else s.noteRange o.gid o.pc space place addr l.length true
    (.ok [], s.writeSetFull space place addr l false)

/-- A page that an engine waits for is requested (09 R180). -/
def State.engPage (s : State) (o : EngOp) (page : Nat) : State :=
  let l := (s.grid o.grid).launch
  (s.pageIn l.root l.asid page 0 o.walkDie).pageWaiter l.asid page o.id

/-- What follows a read: its bytes, a recorded fault, or a wait inside the engine. -/
def withBytes (o : EngOp) (r : ERes × State) (k : List Byte → State → State) : State :=
  match r with
  | (.ok l, s) => k l s
  | (.fault cls sub addr, s) => s.engFail o cls sub addr
  | (.absent p, s) => s.engPage o p
  | (.wait, s) => s

/-! ## Tensor layout records (R349, R350) -/

def parseTlr (v : Nat) : Tlr :=
  { base := byteF v 7 0, kind := byteF v 8 8 % 8, etype := byteF v 9 9 % 16, rank := byteF v 10 10,
    place := byteF v 11 11 % 16, mce := byteF v 12 12,
    dims := [byteF v 19 16, byteF v 23 20, byteF v 27 24, byteF v 31 28],
    strides := [byteF v 39 32, byteF v 47 40, byteF v 55 48], scale := byteF v 63 56 }

def Tlr.dim (t : Tlr) (k : Nat) : Nat := t.dims.getD k 1
def Tlr.stride (t : Tlr) (k : Nat) : Nat := t.strides.getD (k - 1) 0
/-- Bytes of a run of n elements of dim 0. -/
def Tlr.runBytes (t : Tlr) (n : Nat) : Nat := n * Fp.widthOf t.etype / 8
def Tlr.rowBytes (t : Tlr) : Nat := t.runBytes (t.dim 0)
def Tlr.rows (t : Tlr) : Nat := t.dim 1 * t.dim 2 * t.dim 3
def Tlr.bytes (t : Tlr) : Nat := t.rows * t.rowBytes
/-- Offset of row r of dims 1 to 3, dim 1 fastest. -/
def Tlr.rowOff (t : Tlr) (r : Nat) : Nat :=
  r % t.dim 1 * t.stride 1 + r / t.dim 1 % t.dim 2 * t.stride 2 + r / (t.dim 1 * t.dim 2) * t.stride 3
/-- Bytes from the first element to the end of the last. -/
def Tlr.span (t : Tlr) : Nat :=
  (t.dim 1 - 1) * t.stride 1 + (t.dim 2 - 1) * t.stride 2 + (t.dim 3 - 1) * t.stride 3 + t.rowBytes

/-- The span of the dims inside dim k. -/
def Tlr.inner (t : Tlr) : Nat → Nat
  | 0 => t.rowBytes
  | k + 1 => if k = 0 then t.rowBytes else (t.dim k - 1) * t.stride k + t.inner k

/-- The window's size for a kind other than global. -/
def Tlr.window (t : Tlr) (tmem : Nat) : Nat := if t.kind = 1 then tmem else 0x4000000

/-- Every check of R350 that the record alone decides; `kinds` are the kinds that the command accepts. -/
def tlrOk (v : Nat) (t : Tlr) (tmem : Nat) (kinds : List Nat) : Bool :=
  byteF v 8 8 / 8 == 0 && byteF v 9 9 / 16 == 0 && byteF v 11 11 / 16 == 0 && byteF v 15 13 == 0 &&
  (t.kind == 3 || byteF v 12 12 == 0) && kinds.contains t.kind && 1 ≤ t.rank && t.rank ≤ 4 &&
  (match t.kind with | 2 => t.place ≤ 8 | 3 => true | _ => t.place == 0) &&
  (t.kind == 0 || byteF v 7 4 == 0) && Fp.widthOf t.etype != 0 && (t.etype != 14 || t.dim 0 % 2 == 0) &&
  (List.range 4).all (fun k => if k < t.rank then t.dim k != 0 else t.dim k == 1) &&
  t.base % 16 == 0 &&
  [1, 2, 3].all (fun k => if k < t.rank then t.stride k % 16 == 0 && t.inner k ≤ t.stride k else t.stride k == 0) &&
  (t.kind == 0 || t.base + t.span ≤ t.window tmem)

/-- Team key or die that a TLR names (R349). -/
def Tlr.placeOf (t : Tlr) (o : EngOp) : Nat :=
  if t.kind = 1 then o.teamKey else if t.place = 8 then o.die else t.place

/-- Reads and checks a TLR of a command; a refused one is MATRIX 0x1 at its address. -/
def withTlr (o : EngOp) (va : Nat) (kinds : List Nat) (s : State) (k : Tlr → State → State) : State :=
  if va % 64 ≠ 0 then s.engFail o MEMORY 0xA va
  else
    withBytes o (s.engLoad o (pieces va 64)) (fun l s =>
      let v := natOfBytes l
      let t := parseTlr v
      if tlrOk v t (s.grid o.grid).launch.tmem kinds then k t s else s.engFail o MATRIX 1 va)

end Sys2Proof.Machine
end

