-- ==== Sys2Proof/Machine/EngineCmd.lean ====
section
/-! DEFINITION. The issue of an engine command (18 R345), COPY and GATHER (R351, R352), the waits BWAIT and QFENCE
(R353, R354), and FLUSH (R362). -/

namespace Sys2Proof.Machine
open Sys2Proof

/-! ## Issue (R345) -/

/-- The operand block w0 to w7. -/
def State.block (s : State) (w : GA) : List Nat := (List.range 8).map (fun k => (s.g.sreg (w.a.toNat + k)).toNat)
def word (l : List Nat) (k : Nat) : Nat := l.getD k 0
/-- A 64-bit value of the block, low word first. -/
def word64 (l : List Nat) (k : Nat) : Nat := word l k + 2 ^ 32 * word l (k + 1)

/-- The issue of an engine command that uses the block words `used`. -/
def engIssue (i : Instr) (w : GA) (f : Foot) (sup : Bool) (used : List Nat) (s : State)
    (k : List Nat → State → Out) : Out :=
  groupIssue i w.s w.guard { f with sr := regs w.a 8 ++ f.sr } false sup false s (fun s =>
    let l := s.block w
    if s.cur.stage = 0 && (List.range 8).any (fun j => !used.contains j && word l j != 0)
    then .next (s.raiseAll w.s ILLEGAL 3 s.cur.lanes)
    else k l s)

/-- The barrier offset of a command: none, or an aligned offset within TMEM. -/
def withBarrier (sbit : Bool) (off : Nat) (s : State) (k : Option Nat → State → Out) : Out :=
  if off = 0xFFFFFFFF then k none s
  else if off % 8 ≠ 0 then .next (s.raiseAddr sbit MEMORY 0xA s.cur.lanes off 1)
  else if s.launch.tmem < off + 8 then .next (s.raiseAddr sbit MEMORY 9 s.cur.lanes off 1)
  else k (some off) s

/-- A new command of the group. -/
def State.newOp (s : State) (kind : EngKind) (x : GXE) (l : List Nat) (obj : Option Nat) : EngOp × State :=
  let (id, s) := s.fresh
  let g := s.g
  let c := s.cur
  ({ id, gid := c.gid, grid := g.grid, team := g.team, num := g.num, die := g.die, core := g.core, kind,
     form := x.form.toNat, queue := x.eq.toNat, w := l, cut := g.cut, pc := c.pc, w0 := c.w0, w1 := c.w1,
     lanes := c.lanes, obj, tile := x.acc.toNat, ty := x.typea.toNat, smode := x.smode.toNat, gform := x.gform.toNat,
     gang := g.spec.ganginfo, dmode := g.spec.digestctl % 4, op0 := c.w0, op1 := c.w1, at_ := s.clock }, s)

def State.addOp (s : State) (o : EngOp) : State := { s with eng := { s.eng with ops := s.eng.ops ++ [o] } }

/-- The command is in its queue, and the group goes on. -/
def enqueue (sbit : Bool) (r : EngOp × State) : Out := .next ((r.2.addOp r.1).finish sbit {})

/-! ## COPY (R351) -/

/-- COPY (R351). -/
def execCopy (w : GA) (x : GXE) (s : State) : Out :=
  engIssue (.copy w x) w {} false [0, 1, 2, 3, 4] s (fun l s =>
    withBarrier w.s (word l 4) s (fun obj s => enqueue w.s (s.newOp .copy x l obj)))

/-- GATHER (R352): the index register is read now. -/
def execGather (w : GA) (x : GXE) (s : State) : Out :=
  engIssue (.gather w x) w {} false [0, 1, 2, 3, 4, 5] s (fun l s =>
    if 64 ≤ word l 5 then .next (s.raiseAll w.s ILLEGAL 3 s.cur.lanes)
    else
      withBarrier w.s (word l 4) s (fun obj s =>
        s.checked w.s { vr := [word l 5] } s.cur.lanes (fun _ s =>
          let r := s.newOp .gather x l obj
          enqueue w.s ({ r.1 with regs := [s.g.vreg (word l 5)] }, r.2))))

/-- Two views share a byte of one space. -/
def Tlr.overlaps (a b : Tlr) (pa pb : Nat) : Bool :=
  a.kind == b.kind && pa == pb &&
  (List.range a.rows).any (fun i => (List.range b.rows).any (fun j =>
    let x := a.base + a.rowOff i
    let y := b.base + b.rowOff j
    x < y + b.rowBytes && y < x + a.rowBytes))

/-- Reads both records, checks them, and starts the command (R346, R350 to R352). A refused record leaves no byte
count: the bytes to subtract are then a free value. -/
def State.startCopy (s : State) (o : EngOp) : State :=
  let r := s.drawNat
  let o0 : EngOp := { o with left := r.1 }
  withTlr o0 (word64 o.w 2) [0, 1, 2, 3] r.2 (fun d s =>
    let lanes := o.lanes.list
    let o1 : EngOp := { o with left := if o.kind == .gather then lanes.length * d.rowBytes else d.bytes }
    withTlr o1 (word64 o.w 0) [0, 1, 2] s (fun t s =>
      let same := if o.kind == .gather then t.rank == 2 && d.rank == 2 && t.etype == d.etype && t.dim 0 == d.dim 0
        else t.etype == d.etype && t.rank == d.rank && t.dims == d.dims
      if !same then s.engFail o1 MATRIX 1 (word64 o.w 0)
      else if o.kind == .copy && t.overlaps d (t.placeOf o) (d.placeOf o) then s.engFail o1 MATRIX 1 (word64 o.w 0)
      else
        let s := [t, d].foldl (fun s v => if v.kind = 0 then s.walkAhead o1 v.base else s) s
        s.setOp { o1 with src := t, dst := d, started := true,
                          total := if o.kind == .gather then lanes.length else d.rows }))

/-- The multicast table entry of a node: package mask, die and base; an entry never written lists no package. After a
node reset the table is undefined (02 R40): an entry is then a free value of the node's epoch. -/
def State.mcEntry (s : State) (n e : Nat) : Nat × Nat × Nat :=
  let x := s.node n
  match x.mcast.get [] e with
  | [m, d, b] => (m, d, b)
  | _ =>
    if x.epoch = 0 then (0, 0, 0)
    else
      let f (k : Nat) : Nat := Config.freeNode (n + 16 * x.epoch) (3 * e + k)
      (f 0, f 1 % 8, f 2 % 2 ^ 26)

/-- Posts one run to a multicast entry (02 R35): this package's copy arrives later, and other packages' copies are
outside the model. The entry is read here: it changes only by the node's control port, outside the package, or by a
reset, which fails the store. -/
def State.postMulticast (s : State) (o : EngOp) (t : Tlr) (off : Nat) (l : List Byte) : State :=
  match s.linkFault t.place (s.portFor t.place o.core) with
  | some sub => s.engFail o FABRIC sub off
  | none =>
    let e := s.mcEntry t.place t.mce
    if 0x4000000 < e.2.2 + off + l.length then s.engFail o FABRIC 4 off
    else
      let s := s.cannotUndo o.gid o.pc (t.place * 2 ^ 60 + off / 16 * 16 % 2 ^ 42)
      if e.1 / 2 ^ s.pkgid % 2 == 1 then
        let m : Mcast := { op := o.id, gid := o.gid, node := t.place, port := s.portFor t.place o.core, die := e.2.1, off := e.2.2 + off, bytes := l }
        { s with eng := { s.eng with mcasts := s.eng.mcasts ++ [m] } }.setOp { o with next := o.next + 1 }
      else (s.counted o l.length).setOp { o with next := o.next + 1, left := o.left - l.length }

/-- One row has been performed: it is counted, and the command ends with its last. -/
def State.endRow (s : State) (o : EngOp) (n : Nat) : State :=
  let s := (s.counted o n).setOp { o with next := o.next + 1, left := o.left - n }
  if o.next + 1 = o.total && !(s.eng.mcasts.any (fun m => m.op == o.id)) then s.dropOp o.id else s

/-- Moves `n` bytes from a place of the source view to a place of the destination view; a multicast leaves behind the
group's earlier accesses to its node (02 R32). -/
def State.moveRun (s : State) (o : EngOp) (src dst n : Nat) : State :=
  if o.dst.kind = 3 && s.lanesAt o.gid o.dst.place then s
  else withBytes o (s.engRead o o.src.kind (o.src.placeOf o) src n) (fun l s =>
    if o.dst.kind = 3 then s.postMulticast o o.dst dst l
    else withBytes o (s.engWrite o o.dst.kind (o.dst.placeOf o) dst l) (fun _ s => s.endRow o n))

/-- The next row of a COPY or GATHER. -/
def State.copyRow (s : State) (o : EngOp) : State :=
  if o.kind == .gather then
    let lane := o.lanes.list.getD o.next 0
    let i := ((o.regs.headD {}).get lane).toNat
    if o.src.dim 1 ≤ i || o.dst.dim 1 ≤ lane then s.engFail o MATRIX 1 i
    else s.moveRun o (o.src.base + i * o.src.stride 1) (o.dst.base + lane * o.dst.stride 1) o.src.rowBytes
  else s.moveRun o (o.src.base + o.src.rowOff o.next) (o.dst.base + o.dst.rowOff o.next) o.src.rowBytes

/-- One turn of a COPY or GATHER: its start, or its next row. -/
def State.copyTurn (s : State) (o : EngOp) : State :=
  if !o.started then s.startCopy o
  else if o.next < o.total then s.copyRow o
  else if s.eng.mcasts.any (fun m => m.op == o.id) then s
  else s.dropOp o.id

/-! ## BWAIT and QFENCE (R353, R354) -/

/-- COUNT of a barrier object is at most 0 (08 R170). -/
def State.objDone (s : State) (tk off : Nat) : Bool := (BitVec.ofNat 32 (s.winN 1 tk off 4)).toInt ≤ 0

/-- BWAIT (R353). -/
def execBwait (w : GA) (x : GXC) (s : State) : Out :=
  groupIssue (.bwait w x) w.s w.guard { sr := [w.a.toNat] } false false false s (fun s =>
    let off := (s.g.sreg w.a.toNat).toNat
    if off % 8 ≠ 0 then .next (s.raiseAddr w.s MEMORY 0xA s.cur.lanes off 1)
    else if s.launch.tmem < off + 8 then .next (s.raiseAddr w.s MEMORY 9 s.cur.lanes off 1)
    else if !s.objDone s.g.teamKey off then .next (s.park w.s (.barrierObj off))
    else
      match s.g.engFault (fun f => f.obj == some off) with
      | some f => .next (s.raiseEngine w.s s.cur.lanes f)
      | none => .next (s.finish w.s {}))

/-- The group has a command in a queue of the mask that was issued before number `bound`. -/
def State.queuesBusy (s : State) (gid mask bound : Nat) : Bool :=
  s.eng.ops.any (fun o => o.gid == gid && mask / 2 ^ o.queue % 2 == 1 && o.id < bound)

/-- QFENCE (R354); a split mark is taken whatever the mask (10 R203). -/
def execQfence (w : GA) (x : GXC) (s : State) : Out :=
  groupIssue (.qfence w x) w.s w.guard {} false false false s (fun s =>
    let mask := x.imm.toNat % 256
    let bound := if s.cur.stage = 0 then s.nextId else s.cur.aux
    if s.queuesBusy s.cur.gid mask bound then .next (s.waitOn (.queues mask bound) 1 bound)
    else
      match s.g.engFault (fun f => mask / 2 ^ f.queue % 2 == 1 || !f.tiles.isEmpty) with
      | some f => .next (s.raiseEngine w.s s.cur.lanes f)
      | none => .next (s.finish w.s {}))

/-! ## FLUSH (R362) -/

/-- Sends a FLUSH and parks; `peer` is the node, or the package. -/
def State.sendFlush (s : State) (sbit : Bool) (x : GXE) (form peer node : Nat) : State :=
  let (id, s) := s.fresh
  let op : FabricOp := { id, gid := s.cur.gid, node, port := s.portFor node s.g.core, kind := 3, aop := x.eq.toNat, akind := form, bytes := peer,
                         pc := s.cur.pc, at_ := s.clock }
  { s with mem := { s.mem with fabric := s.mem.fabric ++ [op] } }.park sbit (.fabric [id])

/-- The end of a FLUSH that has been answered: FABRIC, or its count. -/
def State.endFlush (s : State) (sbit : Bool) (d peer : Nat) (o : FabricOp) : State :=
  let s := s.dropAnswered
  if o.failed ≠ 0 then s.raiseAddr sbit FABRIC o.failed s.cur.lanes peer 0
  else (s.addLong { ss := [(d, BitVec.ofNat 32 (o.got.get 0 0))] }).finish sbit {}

/-- FLUSH.node (R362). -/
def execFlushNode (w : GA) (x : GXE) (s : State) : Out :=
  engIssue (.flushNode w x) w { sw := [w.d.toNat] } false [0] s (fun l s =>
    let n := word l 0
    if 16 ≤ n then .next (s.raiseAll w.s ILLEGAL 3 s.cur.lanes)
    else
      match s.answered with
      | o :: _ => .next (s.endFlush w.s w.d.toNat n o)
      | [] => .next (s.sendFlush w.s x 0 n n))

/-- FLUSH.pkg (R362): within the package it uses no fabric; else the relay node answers, and with none up, or its port
down, it is FABRIC 0x1. -/
def execFlushPkg (w : GA) (x : GXE) (s : State) : Out :=
  engIssue (.flushPkg w x) w { sw := [w.d.toNat] } false [0] s (fun l s =>
    let p := word l 0 % 2 ^ 31
    if word l 0 < 2 ^ 31 || 64 ≤ p then .next (s.raiseAll w.s ILLEGAL 3 s.cur.lanes)
    else
      match s.answered with
      | o :: _ => .next (s.endFlush w.s w.d.toNat p o)
      | [] =>
        if p = s.pkgid then .next (s.sendFlush w.s x 1 p 16)
        else
          match s.relayFor s.cur.gid p with
          | (some n, s) =>
            .next (if s.portDown (s.portFor n s.g.core) then s.raiseAddr w.s FABRIC 1 s.cur.lanes p 0 else s.sendFlush w.s x 1 p n)
          | (none, s) => .next (s.raiseAddr w.s FABRIC 1 s.cur.lanes p 0))

end Sys2Proof.Machine
end

