-- ==== Sys2Proof/Machine/MatrixArith.lean ====
section
/-! DEFINITION. The arithmetic of one k-block of a matrix operation (14 R260 to R262), and how elements lie in bytes
and registers (18 R350, R357). Nothing here depends on the machine's state. -/

namespace Sys2Proof.Machine
open Sys2Proof

/-- Element `j` of `w` bits in bytes; two 4-bit elements share a byte, the even one in its low half (R350). -/
def elemAt (w : Nat) (l : List Byte) (j : Nat) : Nat :=
  if w = 4 then (l.getD (j / 2) 0).toNat / 16 ^ (j % 2) % 16
  else ((List.range (w / 8)).map (fun i => (l.getD (j * (w / 8) + i) 0).toNat * 256 ^ i)).foldl (· + ·) 0

/-- The signed value of an .i8 code. -/
def i8 (c : Nat) : Int := (BitVec.ofNat 8 c).toInt

/-- The number that an element stands for; type 7 is .i8. -/
def elemNum (t c : Nat) : Fp.Num :=
  if t = 7 then Fp.numOfInt (i8 c) else match Fp.Fmt.ofCode t with | some f => Fp.decode f c | none => Fp.zero false

/-- Products of one k-block. -/
def products (ta tb : Nat) (a b : List Nat) : List (Fp.Num × Nat) :=
  List.zipWith (fun x y => Fp.mul (elemNum ta x) (elemNum tb y)) a b

def orAll (l : List Nat) : Nat := l.foldl (· ||| ·) 0

/-- One FP32 step: Round(acc + P × scales), with a NaN element setting NV (R260, R261). -/
def stepF32 (acc ta tb : Nat) (a b : List Nat) (scales : List Fp.Num) (nanScale : Bool) : Nat × Nat :=
  let ps := products ta tb a b
  let p := Fp.sum 0 (ps.map (·.1))
  let t := scales.foldl (fun (t : Fp.Num × Nat) x => let r := Fp.mul t.1 x; (r.1, t.2 ||| r.2)) p
  let s := Fp.sum 0 [Fp.decode Fp.f32 acc, t.1]
  let r := Fp.round Fp.f32 0 false s.1
  let nan := nanScale || a.any (fun c => (elemNum ta c).isNan) || b.any (fun c => (elemNum tb c).isNan)
  (r.1, orAll (ps.map (·.2)) ||| t.2 ||| s.2 ||| r.2 ||| (if nan then Fp.NV else 0))

/-- One INT32 step. -/
def stepI32 (acc : Nat) (a b : List Nat) : Nat :=
  let p := (List.zipWith (fun x y => i8 x * i8 y) a b).foldl (· + ·) (0 : Int)
  (((acc : Int) + p) % (2 ^ 32 : Int)).toNat

/-- One FP64 element: fused, for each k in turn. -/
def stepF64 (acc : Nat) (a b : List Nat) : Nat × Nat :=
  (List.zip a b).foldl (fun (r : Nat × Nat) (x : Nat × Nat) =>
    let u := Fp.decode Fp.f64 x.1
    let v := Fp.decode Fp.f64 x.2
    let p := Fp.mul u v
    let s := Fp.sum 0 [Fp.decode Fp.f64 r.1, p.1]
    let q := Fp.round Fp.f64 0 false s.1
    (q.1, r.2 ||| p.2 ||| s.2 ||| q.2 ||| (if u.isNan || v.isNan then Fp.NV else 0))) (acc, 0)

/-- The operands of one k-block of a member: 32 rows of A, 128 columns of B, scale codes of each row and column. -/
structure MmaBlock where
  a : List (List Nat) := []
  b : List (List Nat) := []
  sa : List Nat := []
  sb : List Nat := []
  st : Nat := 0
  deriving DecidableEq, Repr

/-- The step of one accumulator element (R260): code and flags. `mode` is the scale mode. -/
def mmaStep (mode ta tb : Nat) (k : MmaBlock) (h n acc : Nat) : Nat × Nat :=
  let a := k.a.getD h []
  let b := k.b.getD n []
  if mode = 0 then
    if ta = 7 then (stepI32 acc a b, 0)
    else if ta = 11 then stepF64 acc a b
    else stepF32 acc ta tb a b [] false
  else
    let f := if mode = 1 then Fp.e5m3 else Fp.f32
    let sa := Fp.decode f (k.sa.getD h 0)
    let sb := Fp.decode f (k.sb.getD n 0)
    stepF32 acc ta tb a b [sa, sb, Fp.decode Fp.f32 k.st] (mode == 1 && (sa.isNan || sb.isNan))

/-- The k-block of a scale mode (R201). -/
def kBlock (mode : Nat) : Nat := if mode = 2 then 128 else 32

end Sys2Proof.Machine
end

