-- ==== Sys2Proof/Machine/Matrix.lean ====
section
/-! DEFINITION. The matrix commands (18 R355 to R361), the rendezvous latch (07 R131), and the split of a matrix
operation (10 R201 to R203). -/

namespace Sys2Proof.Machine
open Sys2Proof

/-! ## Gangs and quadrants (07 R130) -/

/-- Quadrants of a QMASK, ascending. -/
def quadsOf (m : Nat) : List Nat := (List.range 4).filter (fun q => m / 2 ^ q % 2 == 1)
/-- A gang member's quadrant is its number mod 4 (R130, R333). -/
def EngOp.quad (o : EngOp) : Nat := o.num % 4
def EngOp.quadKey (o : EngOp) : Nat := o.coreKey * 4 + o.quad
def EngOp.isMma (o : EngOp) : Bool := o.kind == .mma || o.kind == .mres
def EngOp.isAcc (o : EngOp) : Bool := o.isMma || o.kind == .accz || o.kind == .accld || o.kind == .accst
/-- The tiles that a tile number and a type name: an FP64 tile is a pair (R356). -/
def tilesOf (tile ty : Nat) : List Nat := if ty = 11 then [tile, tile + 1] else [tile]
def EngOp.tiles (o : EngOp) : List Nat := tilesOf o.tile o.ty

/-- An earlier accumulator command of the quadrant that names one of the tiles (R356). -/
def State.tileAhead (s : State) (o : EngOp) : Bool :=
  s.eng.ops.any (fun x => x.id < o.id && x.isAcc && x.quadKey == o.quadKey && x.tiles.any o.tiles.contains)

/-! ## The checks of an accumulator command (R356, 10 R203) -/

/-- The accumulator file is taken, or the command waits for the team that holds it. -/
def withFile (s : State) (k : State → Out) : Out :=
  let qk := s.g.quadKey
  let q := s.quad qk
  match q.holder with
  | some t => if t = s.g.teamKey then k s else .next (s.waitOn (.accFile qk s.g.teamKey))
  | none => k (s.setQuad qk { q with holder := some s.g.teamKey })

/-- A split fault of a tile named is raised; a marked tile is MATRIX 0x4 where the command does not clear it; and a
command that reads a tile with uncorrectable data takes SOFT 0x3 (01 R24, 10 R191). -/
def accIssue (sbit : Bool) (tiles : List Nat) (marked reads : Bool) (s : State) (k : State → Out) : Out :=
  if s.g.spec.ganginfo / 2 ^ 20 % 2 = 0 then .next (s.raiseAll sbit GANG 4 s.cur.lanes)
  else
    match s.g.engFault (fun f => f.tiles.any tiles.contains) with
    | some f => .next (s.raiseEngine sbit s.cur.lanes f)
    | none =>
      withFile s (fun s =>
        if marked && tiles.any (s.quad s.g.quadKey).marks.contains then .next (s.raiseAll sbit MATRIX 4 s.cur.lanes)
        else if reads && tiles.any (s.quad s.g.quadKey).bad.contains then .next (s.raiseAll sbit SOFT 3 s.cur.lanes)
        else k s)

def State.clearMarks (s : State) (qk : Nat) (tiles : List Nat) : State :=
  let q := s.quad qk
  s.setQuad qk { q with marks := q.marks.filter (fun t => !tiles.contains t) }

/-! ## ACCZ, ACCLD, ACCST (R360) -/

/-- ACCZ (R360). -/
def execAccz (w : GA) (x : GXE) (s : State) : Out :=
  groupIssue (.accz w x) w.s w.guard {} false false false s (fun s =>
    let tiles := tilesOf x.acc.toNat x.typea.toNat
    accIssue w.s tiles false false s (fun s => enqueue w.s ((s.clearMarks s.g.quadKey tiles).newOp .accz x [] none)))

/-- The alignment checks of an accumulator move. -/
def accAligned (sbit : Bool) (l : List Nat) (form : Nat) (ty : Nat) (s : State) (k : State → Out) : Out :=
  let a := word64 l 0
  if a % 16 ≠ 0 then .next (s.raiseAddr sbit MEMORY 0xA s.cur.lanes a form)
  else if word l 2 % 16 ≠ 0 || word l 2 < 128 * Fp.widthOf ty / 8 then .next (s.raiseAll sbit MATRIX 1 s.cur.lanes)
  else k s

/-- ACCLD (R360). -/
def execAccld (w : GA) (x : GXE) (s : State) : Out :=
  engIssue (.accld w x) w {} false [0, 1, 2] s (fun l s =>
    let ty := x.typea.toNat
    let tiles := tilesOf x.acc.toNat ty
    accAligned w.s l x.form.toNat ty s (fun s =>
      accIssue w.s tiles false false s (fun s =>
        let r := (s.clearMarks s.g.quadKey tiles).newOp .accld x l none
        enqueue w.s ({ r.1 with total := 32 }, r.2))))

/-- ACCST (R360). -/
def execAccst (w : GA) (x : GXE) (s : State) : Out :=
  engIssue (.accst w x) w {} false [0, 1, 2, 3] s (fun l s =>
    let ty := x.typea.toNat
    accAligned w.s l x.form.toNat ty s (fun s =>
      withBarrier w.s (word l 3) s (fun obj s =>
        accIssue w.s (tilesOf x.acc.toNat ty) true true s (fun s =>
          let r := s.newOp .accst x l obj
          enqueue w.s ({ r.1 with total := 32, left := 32 * 128 * Fp.widthOf ty / 8 }, r.2)))))

/-! The accumulator file: row h, column n of tile t; an FP64 element's high word is in tile t + 1. -/

def accKey (t h n : Nat) : Nat := t * 4096 + h * 128 + n
def Quad.elem (q : Quad) (ty t h n : Nat) : Nat :=
  (q.acc.get 0 (accKey t h n)).toNat + (if ty = 11 then 2 ^ 32 * (q.acc.get 0 (accKey (t + 1) h n)).toNat else 0)
/-- Writes a row of elements. -/
def Quad.setRow (q : Quad) (ty t h : Nat) (l : List Nat) : Quad :=
  let m := q.acc.setMany 0 (accKey t h 0) (l.map (BitVec.ofNat 32))
  { q with acc := if ty = 11 then m.setMany 0 (accKey (t + 1) h 0) (l.map (fun v => BitVec.ofNat 32 (v / 2 ^ 32))) else m }

/-- Tiles that have been written whole hold no bad word. -/
def Quad.mendTiles (q : Quad) (tiles : List Nat) : Quad := { q with bad := q.bad.filter (fun t => !tiles.contains t) }

/-- The space and the place of an accumulator move's address. -/
def EngOp.place (o : EngOp) : Nat := if o.form = 1 then o.teamKey else o.die
/-- The window that a row must lie in; the global space has none. -/
def State.outside (s : State) (o : EngOp) (a n : Nat) : Bool :=
  o.form != 0 && (if o.form = 1 then (s.grid o.grid).launch.tmem else 0x4000000) < a + n

/-- ORs flags into a group's `fpflags`. -/
def State.flagsOf (s : State) (gid f : Nat) : State :=
  let g := s.group gid
  if g.status == .gone || f = 0 then s else s.setGroup gid { g with spec := { g.spec with fpflags := g.spec.fpflags ||| f } }

/-- What a row of a tile is stored as: bytes and flags; .f16 and .bf16 narrow RN (14 R256). -/
def Quad.rowOut (q : Quad) (ty t h : Nat) : List Byte × Nat :=
  let one (n : Nat) : Nat × Nat :=
    match (if ty = 9 then some Fp.f16 else if ty = 10 then some Fp.bf16 else none) with
    | some f => Fp.round f 0 false (Fp.decode Fp.f32 (q.elem 3 t h n))
    | none => (q.elem ty t h n, 0)
  let l := (List.range 128).map one
  (l.flatMap (fun v => bytesOfNat (Fp.widthOf ty / 8) v.1), orAll (l.map (·.2)))

/-- The next row of an ACCLD or ACCST, or the whole of an ACCZ. -/
def State.accTurn (s : State) (o : EngOp) : State :=
  let q := s.quad o.quadKey
  let h := o.next
  let n := 128 * Fp.widthOf o.ty / 8
  let a := word64 o.w 0 + h * word o.w 2
  match o.kind with
  | .accz => (s.setQuad o.quadKey ((o.tiles.foldl (fun q t => { q with acc := q.acc.clear (accKey t 0 0) 4096 }) q).mendTiles o.tiles)).dropOp o.id
  | .accld =>
    if s.outside o a n then s.engFail o MEMORY 9 a
    else
      withBytes o (s.engRead o o.form o.place a n) (fun l s =>
        let q := (s.quad o.quadKey).setRow o.ty o.tile h ((List.range 128).map (elemAt (Fp.widthOf o.ty) l))
        (s.setQuad o.quadKey (if h = 31 then q.mendTiles o.tiles else q)).endRow o 0)
  | _ =>
    if s.outside o a n then s.engFail o MEMORY 9 a
    else
      let r := q.rowOut o.ty o.tile h
      withBytes o (s.engWrite o o.form o.place a r.1) (fun _ s => (s.flagsOf o.gid r.2).endRow o n)

/-! ## The rendezvous latch (07 R131) -/

/-- The operation in the latch of a quadrant. -/
def State.latchOf (s : State) (qk : Nat) : Option EngOp := s.eng.ops.find? (fun o => o.latched && o.quadKey == qk)

/-- The members of an operation's gang that have issued theirs, in quadrant order. -/
def State.gangOps (s : State) (o : EngOp) : List (Option EngOp) :=
  (quadsOf (gangMask o.gang)).map (fun q =>
    s.eng.ops.find? (fun x => x.latched && x.teamKey == o.teamKey && x.coreKey == o.coreKey && x.num == gangField o.gang q))

/-- An instruction word without its d and a fields (13 R233). -/
def noRegs (w : Nat) : Nat := setBits (setBits w 17 12 0) 11 6 0

/-- The GANG sub-code of a full gang, 0 for a match. -/
def gangCode (o : EngOp) (l : List EngOp) : Nat :=
  let want := if o.gform = 1 then [15] else [3, 12]
  if l.any (fun x => noRegs x.w0 != noRegs o.w0 || x.w1 != o.w1 || x.kind != o.kind) then 1
  else if o.kind == .mres && l.any (fun x => x.op0 != o.op0 || x.op1 != o.op1 || x.kdone != o.kdone ||
      x.ktotal != o.ktotal || x.tile != o.tile || x.dmode != o.dmode) then 1
  else if l.any (fun x => x.gang != o.gang) || !want.contains (gangMask o.gang) then 2
  else 0

/-- B and scale registers of a member (R357, 14 R262): registers N to N + R × w ÷ 32 − 1, then the scale register. -/
def bCount (gform ty : Nat) : Nat := (if gform = 1 then 32 else 64) * Fp.widthOf ty / 32
def bRegs (l : List Nat) (gform smode ty : Nat) : List Nat :=
  (List.range (bCount gform ty)).map (word l 2 % 64 + ·) ++ (if smode = 1 then [word l 2 / 256 % 64] else [])

/-- The gangs of the latched operations beside `o` whose QMASK is complete: each one's code and members. -/
def State.fullGangs (s : State) (o : EngOp) : List (Nat × List Nat) :=
  (s.eng.ops.filter (fun x => x.latched && x.teamKey == o.teamKey && x.coreKey == o.coreKey)).filterMap (fun x =>
    let l := s.gangOps x
    if l.any (·.isNone) then none else some (gangCode x (l.filterMap id), (l.filterMap id).map (·.id)))

/-- The latch after an operation has entered it: a full gang that does not match takes GANG at every member, and one
that matches starts; a resumed operation's tile is then marked no more (10 R203). -/
def State.tryMatch (s : State) (o : EngOp) : State :=
  let gangs := s.fullGangs o
  let code (x : EngOp) : Nat := ((gangs.find? (fun g => g.1 != 0 && g.2.contains x.id)).map (·.1)).getD 0
  let mates (x : EngOp) : List Nat := ((gangs.find? (fun g => g.1 == 0 && g.2.contains x.id)).map (·.2)).getD []
  let s : State := { s with eng := { s.eng with ops := s.eng.ops.map (fun x =>
    if code x ≠ 0 then { x with latched := false, trap := some (GANG, code x) }
    else if (mates x).isEmpty then x
    else { x with latched := false, started := true, members := mates x,
                  regs := if x.form = 0 then (bRegs x.w x.gform x.smode x.ty).map (s.group x.gid).vreg else [] }) } }
  (s.eng.ops.filter (fun x => x.kind == .mres && (mates x).contains x.id)).foldl (fun s x => s.clearMarks x.quadKey x.tiles) s

/-- The end of a matrix command's issue: it waits in the latch, takes the latch's trap, or goes on. -/
def endMatrix (sbit : Bool) (k : Nat) (s : State) : Out :=
  match s.engOp k with
  | none => .next (s.finish sbit {})
  | some o =>
    match o.trap with
    | some t => .next ((s.dropOp k).raiseAll sbit t.1 t.2 s.cur.lanes)
    | none => if o.latched then .next (s.waitOn (.latch k) 1 k) else .next (s.finish sbit {})

/-- Puts a matrix command into the latch, once the latch is free. -/
def enterLatch (sbit : Bool) (o : State → EngOp × State) (s : State) : Out :=
  match s.latchOf s.g.quadKey with
  | some x => .next (s.waitOn (.latch x.id))
  | none =>
    let r := o s
    let op : EngOp := { r.1 with latched := true }
    endMatrix sbit op.id ((r.2.addOp op).tryMatch op)

/-! ## MMA (R355, R357, R358) -/

/-- MMA.R (R357). -/
def execMmaR (w : GA) (x : GXE) (s : State) : Out :=
  let mode := x.smode.toNat
  let ty := x.typea.toNat
  engIssue (.mmaR w x) w {} false (List.range (match mode with | 0 => 3 | 1 => 5 | _ => 6)) s (fun l s =>
    if s.cur.stage = 1 then endMatrix w.s s.cur.aux s
    else if 2 ^ 14 ≤ word l 2 || bits (word l 2) 7 6 ≠ 0 || (mode ≠ 1 && 256 ≤ word l 2) then
      .next (s.raiseAll w.s ILLEGAL 3 s.cur.lanes)
    else
      s.checked w.s { vr := bRegs l x.gform.toNat mode ty } s.cur.lanes (fun _ s =>
        let tm := s.launch.tmem
        let row := 128 * Fp.widthOf ty / 8
        if word l 0 % 16 ≠ 0 then .next (s.raiseAddr w.s MEMORY 0xA s.cur.lanes (word l 0) 1)
        else if mode ≠ 0 && word l 3 % 4 ≠ 0 then .next (s.raiseAddr w.s MEMORY 0xA s.cur.lanes (word l 3) 1)
        else if word l 1 % 16 ≠ 0 || word l 1 < row then .next (s.raiseAll w.s MATRIX 1 s.cur.lanes)
        else if tm < word l 0 + 31 * word l 1 + row then .next (s.raiseAddr w.s MEMORY 9 s.cur.lanes (word l 0) 1)
        else if mode ≠ 0 && tm < word l 3 + 128 then .next (s.raiseAddr w.s MEMORY 9 s.cur.lanes (word l 3) 1)
        else
          accIssue w.s (tilesOf x.acc.toNat ty) true true s (enterLatch w.s (fun s =>
            let r := s.newOp .mma x l none
            ({ r.1 with ktotal := 128 }, r.2)))))

/-- MMA.T (R358). -/
def execMmaT (w : GA) (x : GXE) (s : State) : Out :=
  let mode := x.smode.toNat
  engIssue (.mmaT w x) w {} false (List.range (if mode = 0 then 7 else 8)) s (fun l s =>
    let k := word l 4
    if s.cur.stage = 1 then endMatrix w.s s.cur.aux s
    else if k = 0 || 8192 < k || k % kBlock mode ≠ 0 then .next (s.raiseAll w.s MATRIX 2 s.cur.lanes)
    else
      accIssue w.s (tilesOf x.acc.toNat x.typea.toNat) true true s (enterLatch w.s (fun s =>
        let r := s.newOp .mma x l none
        ({ r.1 with ktotal := k }, r.2))))

/-! ## Continuation blocks (10 R202) and MRES (R361) -/

/-- The continuation block of a member. -/
def contBlock (o : EngOp) (kdone : Nat) (cause : Nat) : List Byte :=
  bytesOfNat 4 o.op0 ++ bytesOfNat 4 o.op1 ++ bytesOfNat 4 kdone ++ bytesOfNat 4 o.ktotal ++
    bytesOfNat 1 cause ++ bytesOfNat 1 o.tile ++ bytesOfNat 1 (gangMask o.gang) ++ bytesOfNat 1 0 ++
    (List.range 8).flatMap (fun k => bytesOfNat 4 (word o.w k)) ++ bytesOfNat 12 0

/-- The operation that a continuation block describes: its form and engine word. -/
def contInstr (v : Nat) : Option (Nat × GXE) :=
  match decodeWords (byteF v 3 0) (byteF v 7 4) with
  | .ok (.mmaR w x) => if (Instr.mmaR w x).wfCode = 0 then some (0, x) else none
  | .ok (.mmaT w x) => if (Instr.mmaT w x).wfCode = 0 then some (1, x) else none
  | _ => none

/-- MRES with its block in hand (R361, 10 R203). -/
def resumeBlock (w : GA) (x : GXE) (v : Nat) (s : State) : Out :=
  match contInstr v with
  | none => .next (s.raiseAll w.s MATRIX 3 s.cur.lanes)
  | some (form, y) =>
    let kdone := byteF v 11 8
    let ktotal := byteF v 15 12
    let tile := byteF v 17 17
    let ops := (List.range 8).map (fun k => byteF v (23 + 4 * k) (20 + 4 * k))
    if byteF v 19 19 ≠ 0 || byteF v 63 52 ≠ 0 || ktotal ≤ kdone || x.gform ≠ y.gform ||
        !(s.quad s.g.quadKey).marks.contains tile then .next (s.raiseAll w.s MATRIX 3 s.cur.lanes)
    else
      s.checked w.s { vr := if form = 0 then bRegs ops y.gform.toNat y.smode.toNat y.typea.toNat else [] } s.cur.lanes
        (fun _ => enterLatch w.s (fun s =>
          let r := s.newOp .mres x ops none
          ({ r.1 with form, tile, ty := y.typea.toNat, smode := y.smode.toNat, gform := y.gform.toNat,
                      op0 := byteF v 3 0, op1 := byteF v 7 4, kdone, ktotal, dmode := byteF v 18 16 },
           r.2)))

/-- MRES (R361): its block is read now; a tile with an unraised split fault raises that first. -/
def execMres (w : GA) (x : GXE) (s : State) : Out :=
  engIssue (.mres w x) w {} false [0, 1] s (fun l s =>
    let a := word64 l 0
    let go (v : Nat) (s : State) : Out := accIssue w.s [byteF v 17 17] false true s (resumeBlock w x v)
    if s.cur.stage = 1 then endMatrix w.s s.cur.aux s
    else if a = 0 then go (natOfBytes ((List.range 64).map (fun k => s.g.side.get 0 (0x880 + k)))) s
    else
      memGroup w.s .load 0 0 64 a 0 s (fun acc s =>
        let low := s.cur.lanes.low
        fabricWait w.s 0 64 0 0 {} [(low, acc)] (fun _ => 0) (fun _ => 0) s (fun ans acc s =>
          match (laneFaults acc).head? with
          | some f => .next (s.raiseGroup w.s f)
          | none =>
            let v := s.loadLane 0 64 ans low ((acc.head?.map (·.2)).getD (.win 0))
            go v (s.loadEffects 0 64 acc))))

/-! ## Operands of a k-block -/

inductive KRes where
  | ok (k : MmaBlock)
  | fault (cls sub addr : Nat)
  | absent (page : Nat)
  | wait
  deriving DecidableEq, Repr

/-- Reads `n` bytes at each address of a list, in order. -/
def State.readAll (s : State) (o : EngOp) (space place n : Nat) : List Nat → ERes × List (List Byte) × State
  | [] => (.ok [], [], s)
  | a :: t =>
    let s := if space = 1 && (s.group o.gid).status != .gone then s.noteRange o.gid o.pc 1 place a n false else s
    match s.engRead o space place a n with
    | (.ok l, s) => (let r := s.readAll o space place n t; (r.1, l :: r.2.1, r.2.2))
    | (r, s) => (r, [], s)

/-- What follows four reads. -/
def kresOf (r : ERes) (k : MmaBlock) : KRes :=
  match r with
  | .ok _ => .ok k
  | .fault c u a => .fault c u a
  | .absent p => .absent p
  | .wait => .wait

/-- The second of two results, unless the first failed. -/
def ERes.seq (a b : ERes) : ERes := match a with | .ok _ => b | r => r

/-- `ta` and `tb` of the engine word of an operation (13 R234). -/
def EngOp.types (o : EngOp) : Nat × Nat :=
  match decodeWords o.op0 o.op1 with
  | .ok (.mmaR _ x) => (x.typea.toNat, x.typeb.toNat)
  | .ok (.mmaT _ x) => (x.typea.toNat, x.typeb.toNat)
  | _ => (3, 3)
def EngOp.bsel (o : EngOp) : Nat :=
  match decodeWords o.op0 o.op1 with
  | .ok (.mmaR _ x) => x.bsel.toNat
  | _ => 0

/-- B of MMA.R at k-row k, column n: the member that holds the row, register j, lane n, element m (R357). -/
def bElem (ms : List EngOp) (gform ty k n : Nat) : Nat :=
  let R := if gform = 1 then 32 else 64
  let w := Fp.widthOf ty
  let per := 32 / w
  let v := (((ms.getD (k / R) {}).regs.getD (k % R / per) {}).get n).toNat
  v / 2 ^ (w * (k % per)) % 2 ^ w

/-- The B scale of k-block b, column n (14 R262). -/
def bScale (ms : List EngOp) (gform ty b n : Nat) : Nat :=
  let h := if gform = 1 then 1 else 2
  let m := ms.getD (b / h) {}
  ((m.regs.getD (bCount gform ty) {}).get n).toNat / 256 ^ (m.bsel + b % h) % 256

/-- Operands of the k-block at `k0` for member `o` of MMA.R (R357). -/
def State.blockR (s : State) (o : EngOp) (ms : List EngOp) (k0 : Nat) : KRes × State :=
  let (ta, tb) := o.types
  let kb := kBlock o.smode
  let b := k0 / 32
  let tk := o.teamKey
  let r := s.readAll o 1 tk (kb * Fp.widthOf ta / 8)
    ((List.range 32).map (fun h => word o.w 0 + h * word o.w 1 + k0 * Fp.widthOf ta / 8))
  let sc := match o.smode with
    | 0 => (ERes.ok [], [], r.2.2)
    | 1 => r.2.2.readAll o 1 tk 1 ((List.range 32).map (fun h => word o.w 3 + 4 * h + b))
    | _ => r.2.2.readAll o 1 tk 4 ((List.range 32).map (fun h => word o.w 3 + 4 * h))
  let blk : MmaBlock :=
    { a := r.2.1.map (fun l => (List.range kb).map (elemAt (Fp.widthOf ta) l)),
      b := (List.range 128).map (fun n => (List.range kb).map (fun j => bElem ms o.gform tb (k0 + j) n)),
      sa := sc.2.1.map natOfBytes,
      sb := (List.range 128).map (fun n => if o.smode = 1 then bScale ms o.gform tb b n else word o.w 5),
      st := word o.w 4 }
  (kresOf (r.1.seq sc.1) blk, sc.2.2)

/-- Operands of the k-block at `k0` for member `o` of MMA.T, the i-th of its gang (R358). -/
def State.blockT (s : State) (o : EngOp) (i k0 : Nat) : KRes × State :=
  let (ta, tb) := o.types
  let kb := kBlock o.smode
  let k := word o.w 5 + k0
  let m0 := word o.w 6 % 65536 + 32 * i
  let n0 := word o.w 6 / 65536
  let ra := s.readAll o o.src.kind (o.src.placeOf o) (kb * Fp.widthOf ta / 8)
    ((List.range 32).map (fun h => o.src.base + (m0 + h) * o.src.stride 1 + k * Fp.widthOf ta / 8))
  let rb := ra.2.2.readAll o o.dst.kind (o.dst.placeOf o) (kb * Fp.widthOf tb / 8)
    ((List.range 128).map (fun n => o.dst.base + (n0 + n) * o.dst.stride 1 + k * Fp.widthOf tb / 8))
  let size := if o.smode = 1 then 1 else 4
  let at_ (t : Tlr) (h : Nat) : Nat :=
    if o.smode = 1 then t.scale + h * (t.dim 0 / 32) + k / 32 else t.scale + 4 * (h * (t.dim 0 / 128) + k / 128)
  let sa := if o.smode = 0 then (ERes.ok [], [], rb.2.2)
    else rb.2.2.readAll o 0 0 size ((List.range 32).map (fun h => at_ o.src (m0 + h)))
  let sb := if o.smode = 0 then (ERes.ok [], [], sa.2.2)
    else sa.2.2.readAll o 0 0 size ((List.range 128).map (fun n => at_ o.dst (if o.smode = 1 then n0 + n else (n0 + n) / 128)))
  let blk : MmaBlock :=
    { a := ra.2.1.map (fun l => (List.range kb).map (elemAt (Fp.widthOf ta) l)),
      b := rb.2.1.map (fun l => (List.range kb).map (elemAt (Fp.widthOf tb) l)),
      sa := sa.2.1.map natOfBytes, sb := sb.2.1.map natOfBytes, st := word o.w 7 }
  (kresOf (((ra.1.seq rb.1).seq sa.1).seq sb.1) blk, sb.2.2)

/-! ## The joint operation (R359, 14 R260) -/

/-- Reads one TLR of MMA.T: none when it is refused. -/
def State.mmaTlr (s : State) (o : EngOp) (va ty need : Nat) : KRes × Tlr × State :=
  if va % 64 ≠ 0 then (.fault MEMORY 0xA va, {}, s)
  else
    match s.engLoad o (pieces va 64) with
    | (.ok l, s) =>
      let v := natOfBytes l
      let t := parseTlr v
      let k := word o.w 5
      let ok := tlrOk v t (s.grid o.grid).launch.tmem [0, 1] && t.rank == 2 && t.etype == ty &&
        k % kBlock o.smode == 0 && k + o.ktotal ≤ t.dim 0 && need ≤ t.dim 1 && (o.smode == 0 || t.scale != 0)
      (if ok then .ok {} else .fault MATRIX 1 va, t, s)
    | (.fault c u a, s) => (.fault c u a, {}, s)
    | (.absent p, s) => (.absent p, {}, s)
    | (.wait, s) => (.wait, {}, s)

/-- The records of a member of MMA.T, read once when the operation starts. -/
def State.startT (s : State) (o : EngOp) (i : Nat) : KRes × State :=
  let (ta, tb) := o.types
  if o.form = 0 || o.step = 1 then (.ok {}, s)
  else
    match s.mmaTlr o (word64 o.w 0) ta (word o.w 6 % 65536 + 32 * i + 32) with
    | (.ok _, a, s) =>
      (match s.mmaTlr o (word64 o.w 2) tb (word o.w 6 / 65536 + 128) with
       | (.ok _, b, s) => (.ok {}, s.setOp { o with src := a, dst := b, step := 1 })
       | (r, _, s) => (r, s))
    | (r, _, s) => (r, s)

/-- Runs `f` over members in quadrant order, stopping at the first that fails, or that waits for a page it then asks
for. -/
def overMembers (f : State → EngOp → Nat → KRes × State) : List EngOp → Nat → State → List MmaBlock →
    KRes × List MmaBlock × State
  | [], _, s, acc => (.ok {}, acc, s)
  | o :: t, i, s, acc =>
    match f s o i with
    | (.ok k, s) => overMembers f t (i + 1) s (acc ++ [k])
    | (.absent p, s) => (.wait, acc, s.engPage o p)
    | (r, s) => (r, acc, s)

/-- One k-block accumulated into a member's tile; answers the flags. -/
def Quad.accumulate (q : Quad) (o : EngOp) (k : MmaBlock) : Quad × Nat :=
  let (ta, tb) := o.types
  (List.range 32).foldl (fun (r : Quad × Nat) h =>
    let l := (List.range 128).map (fun n => mmaStep o.smode ta tb k h n (q.elem o.ty o.tile h n))
    (r.1.setRow o.ty o.tile h (l.map (·.1)), r.2 ||| orAll (l.map (·.2)))) (q, 0)

/-- The k-block is accumulated into every member's tile, and the flags reach every member. -/
def State.accumulate (s : State) (ms : List EngOp) (ks : List MmaBlock) (k0 : Nat) : State :=
  let r := (List.zip ms ks).foldl (fun (r : State × Nat) (x : EngOp × MmaBlock) =>
    if x.1.ktotal ≤ k0 then r
    else
      let q := (r.1.quad x.1.quadKey).accumulate x.1 x.2
      (r.1.setQuad x.1.quadKey q.1, r.2 ||| q.2)) (s, 0)
  ms.foldl (fun s o => (s.flagsOf o.gid r.2).setOp { o with kdone := k0 + kBlock o.smode }) r.1

/-- Writes a member's continuation block, to its side buffer or at `contptr` (10 R203). -/
def State.putBlock (s : State) (o : EngOp) : ERes × State :=
  let g := s.group o.gid
  let b := contBlock o o.kdone 1
  if g.spec.contptr = 0 then (.ok [], s.setGroup o.gid { g with side := g.side.setMany 0 0x880 b })
  else s.engStore o (pieces g.spec.contptr 64) b

/-- A fault split (10 R203): each member's block is written, its tile is marked, and it holds the fault; a block that
faults is not written (log 85). While a block's page is not resident, the split waits. -/
def State.splitFault (s : State) (ms : List EngOp) (cls sub addr : Nat) : State :=
  let rec put : List EngOp → List Nat → State → Option (List Nat) × State
    | [], w, s => (some w, s)
    | o :: t, w, s =>
      match s.putBlock o with
      | (.ok _, s) => put t (o.id :: w) s
      | (.fault _ _ _, s) => put t w s
      | (.absent p, s) => (none, s.engPage o p)
      | (.wait, s) => (none, s)
  match put ms [] s with
  | (none, s) => s
  | (some w, s) =>
    ms.foldl (fun s o =>
      let q := s.quad o.quadKey
      let s := s.setQuad o.quadKey { q with marks := o.tiles ++ q.marks.filter (fun t => !o.tiles.contains t) }
      let cont := w.contains o.id
      (s.recordFault o.gid { o.fault cls sub addr with
        tiles := o.tiles, cont, contsb := cont && (s.group o.gid).spec.contptr = 0 }).dropOp o.id) s

def State.membersOf (s : State) (o : EngOp) : List EngOp := o.members.filterMap s.engOp

/-- k-blocks in ascending order, from the first not done; at most `n` of them. -/
def State.runBlocks (lead : Nat) : Nat → State → State
  | 0, s => s
  | n + 1, s =>
    match s.engOp lead with
    | none => s
    | some o =>
      let ms := s.membersOf o
      let k0 := o.kdone
      if ms.all (fun m => m.ktotal ≤ k0) then ms.foldl (fun s m => s.dropOp m.id) s
      else
        match overMembers (fun s m i => if m.ktotal ≤ k0 then (.ok {}, s) else
            if m.form = 0 then s.blockR m ms k0 else s.blockT m i k0) ms 0 s [] with
        | (.ok _, ks, s) => (s.accumulate ms ks k0).runBlocks lead n
        | (.fault c u a, _, s) => s.splitFault ms c u a
        | (_, _, s) => s

/-- The joint operation led by `k` runs to its end, a fault, or a page that is not resident (R359). -/
def State.mmaRun (s : State) (k : Nat) : State :=
  match s.engOp k with
  | none => s
  | some o =>
    let ms := s.membersOf o
    if !o.started || o.split || s.isFrozen o.master || o.members.head? ≠ some k || ms.any (fun m => s.queueAhead m || s.tileAhead m) then s
    else
      match overMembers (fun s m i => s.startT m i) ms 0 s [] with
      | (.ok _, _, s) => s.runBlocks k 258
      | (.fault c u a, _, s) => s.splitFault ms c u a
      | (_, _, s) => s

/-- MMA_COMPLETE (R359). -/
def execMmaComplete (k : Nat) (s : State) : Out := .next (s.mmaRun k)

/-- MATRIX_RESUME: an operation split by an eviction goes on once every member is resident (10 R203). -/
def execMatrixResume (k : Nat) (s : State) : Out :=
  match s.engOp k with
  | none => .next s
  | some o =>
    let ms := s.membersOf o
    if o.split && ms.all (fun m => (s.group m.gid).status == .running) then
      .next (ms.foldl (fun s m => s.setOp { m with split := false }) s)
    else .next s

end Sys2Proof.Machine
end

