-- ==== Sys2Proof/Machine/Sha.lean ====
section
/-! DEFINITION. SHA-256 over bytes, which DIGEST, the touchmarks and the boot checks name (18 R372, 06 R117, 04 R67).
The spec gives only the name; FIPS 180-4 defines it (log 12). The eight working variables of FIPS are here two
histories, of a and of e, newest first: b, c, d are earlier values of a, and f, g, h of e. -/

namespace Sys2Proof.Sha
open Sys2Proof

/-- The first 64 primes. -/
def primes : List Nat :=
  [2, 3, 5, 7, 11, 13, 17, 19, 23, 29, 31, 37, 41, 43, 47, 53, 59, 61, 67, 71, 73, 79, 83, 89, 97, 101, 103, 107, 109, 113,
   127, 131] ++
  [137, 139, 149, 151, 157, 163, 167, 173, 179, 181, 191, 193, 197, 199, 211, 223, 227, 229, 233, 239, 241, 251, 257, 263,
   269, 271, 277, 281, 283, 293, 307, 311]

/-- The largest x below 2^n whose power e is at most v. -/
def root (e v : Nat) : Nat → Nat
  | 0 => 0
  | n + 1 => let x := root e (v / 2 ^ e) n; if (2 * x + 1) ^ e ≤ v then 2 * x + 1 else 2 * x

/-- 32 bits of the fraction of the e-th root of p. -/
def fraction (e p : Nat) : Word := BitVec.ofNat 32 (root e (p * 2 ^ (32 * e)) 37)

/-- XOR of a word's rotations to the right. -/
def spin (l : List Nat) (w : Word) : Word := l.foldl (fun x n => x ^^^ w.rotateRight n) 0

/-- Bytes as one number, the first most significant; and a word's four bytes in that order. -/
def number (l : List Byte) : Nat := natOfBytes l.reverse
def wordBytes (w : Word) : List Byte := (bytesOfNat 4 w.toNat).reverse

/-- The k-th last value of a history. -/
def ago (l : List Word) (k : Nat) : Word := l.getD (k - 1) 0

/-- The schedule's next word, from its history. -/
def nextW (l : List Word) : Word :=
  let a := ago l 2
  let b := ago l 15
  (spin [17, 19] a ^^^ a >>> 10) + (spin [7, 18] b ^^^ b >>> 3) + ago l 16 + ago l 7

/-- The history of the 64 schedule words of a block, newest first. -/
def schedule (l : List Byte) : List Word :=
  (List.range 48).foldl (fun h _ => nextW h :: h)
    ((List.range 16).foldl (fun h i => BitVec.ofNat 32 (number ((l.drop (4 * i)).take 4)) :: h) [])

/-- One round on the two histories; `x` is the round's constant plus its schedule word. -/
def turn (s : List Word × List Word) (x : Word) : List Word × List Word :=
  let e := ago s.2 1
  let a := ago s.1 1
  let t := x + ago s.2 4 + spin [6, 11, 25] e + (ago s.2 3 ^^^ e &&& (ago s.2 2 ^^^ ago s.2 3))
  ((t + spin [2, 13, 22] a + (a &&& ago s.1 2 ||| ago s.1 3 &&& (a ||| ago s.1 2))) :: s.1.take 3,
   (ago s.1 4 + t) :: s.2.take 3)

/-- One block of 64 bytes. -/
def block (s : List Word × List Word) (l : List Byte) : List Word × List Word :=
  let r := (List.zipWith (· + ·) (primes.map (fraction 3)) (schedule l).reverse).foldl turn s
  (List.zipWith (· + ·) s.1 r.1, List.zipWith (· + ·) s.2 r.2)

/-- The initial hash value. -/
def start : List Word × List Word :=
  let h := (primes.take 8).map (fraction 2)
  (h.take 4, h.drop 4)

/-- The padded message: a one bit, zeros, and the length in bits. -/
def padded (l : List Byte) : List Byte :=
  l ++ (0x80 : Byte) :: List.replicate ((119 - l.length % 64) % 64) 0 ++ (bytesOfNat 8 (8 * l.length)).reverse

/-- SHA-256. -/
def sha256 (l : List Byte) : List Byte :=
  let p := padded l
  let r := (List.range (p.length / 64)).foldl (fun s k => block s ((p.drop (64 * k)).take 64)) start
  (r.1 ++ r.2).flatMap wordBytes

/-- SHA-256 of the digests of the 4 KiB chunks (R372, mode 1; R117). -/
def chunked (l : List Byte) : List Byte :=
  sha256 ((List.range (l.length / 4096)).flatMap (fun k => sha256 ((l.drop (4096 * k)).take 4096)))

end Sys2Proof.Sha
end

