-- ==== Sys2Proof/Machine/Residency.lean ====
section
/-! DEFINITION. The residency commands PGREQ, PGTIER and SHOOT (09 R184 to R189, 18 R371), DIGEST (R372), and the turn
of an engine that performs one write (R346). -/

namespace Sys2Proof.Machine
open Sys2Proof

/-! ## PGREQ (09 R184) -/

/-- A length that a command refuses at issue (R371, R372). -/
def badLength (n : Nat) : Bool := n == 0 || 2 ^ 40 ≤ n

/-- PGREQ (R371). -/
def execPgreq (w : GA) (x : GXE) (s : State) : Out :=
  engIssue (.pgreq w x) w {} false [0, 1, 2, 3, 4] s (fun l s =>
    if badLength (word64 l 2) then .next (s.raiseAll w.s ILLEGAL 3 s.cur.lanes)
    else
      withBarrier w.s (word l 4) s (fun obj s =>
        let r := s.newOp .pgreq x l obj
        enqueue w.s ({ r.1 with left := word64 l 2 }, r.2)))

/-- Bytes of the range of a PGREQ in a page. -/
def EngOp.inPage (o : EngOp) (page : Nat) : Nat :=
  match (pieces (word64 o.w 0) (word64 o.w 2)).find? (fun p => pageOf p.1 == page) with
  | some p => p.2
  | none => 0

/-- One page of a PGREQ is settled: its bytes are subtracted, and a failure is recorded. -/
def State.settlePage (s : State) (k page : Nat) (fail : Option Nat) : State :=
  match s.engOp k with
  | none => s
  | some o =>
    let n := o.inPage page
    let s := s.counted o n
    let s := match fail with
      | some sub => s.recordFault o.gid (o.fault MEMORY sub (page * 65536))
      | none => s
    let o : EngOp := { o with left := o.left - n, open_ := o.open_.filter (· != page) }
    if o.started && o.open_.isEmpty then s.dropOp k else s.setOp o

/-- A PGREQ looks up every page that its range touches. -/
def State.pgreqTurn (s : State) (o : EngOp) : State :=
  let gr := s.grid o.grid
  let ps := (pieces (word64 o.w 0) (word64 o.w 2)).map (·.1)
  let s := s.setOp { o with open_ := ps.map pageOf }
  let s := ps.foldl (fun s va =>
    if !canonical va then s.settlePage o.id (pageOf va) (some 2)
    else
      match s.leafFor o.agent gr.launch.root gr.launch.asid va with
      | (.bad sub, s) => s.settlePage o.id (pageOf va) (some sub)
      | (.leaf p _ _, s) =>
        if pteRes p = 0 then s.settlePage o.id (pageOf va) none
        else if pteRes p = 1 then s.pageIn gr.launch.root gr.launch.asid (pageOf va) 1 o.die
        else s) s
  match s.engOp o.id with
  | some o => if o.open_.isEmpty then s.dropOp o.id else s.setOp { o with started := true }
  | none => s

/-- PGREQs that wait for a page hear of it (R184). -/
def State.enginePage (s : State) (asid page : Nat) (fail : Bool) : State :=
  let mine := s.eng.ops.filter (fun o => (s.grid o.grid).launch.asid == asid)
  mine.foldl (fun s o =>
    if o.kind == .pgreq && o.open_.contains page then s.settlePage o.id page (if fail then some 0xB else none) else s) s

/-! ## PGTIER (09 R185) -/

/-- PGTIER (R371). -/
def execPgtier (w : GA) (x : GXE) (s : State) : Out :=
  engIssue (.pgtier w x) w {} true [0, 1, 2, 3, 4] s (fun l s =>
    withBarrier w.s (word l 4) s (fun obj s => enqueue w.s (s.newOp .pgtier x l obj)))

/-- Frames of a tier that PGTIER may move between (R185). -/
def movable (a n : Nat) : Bool :=
  (tierOf a == .hbmA && tierOf (a + n - 1) == .hbmA) || (tierOf a == .lpddr && tierOf (a + n - 1) == .lpddr)

/-- Bytes [a, a + n) hold bytes of a commit being installed, or a word of an atomic on its way (R188). -/
def State.installingOn (s : State) (a n : Nat) : Bool :=
  s.mem.commits.any (fun c => c.installed && c.bytes.any (fun b => a ≤ b.pa && b.pa < a + n))
def State.atomicsOn (s : State) (a n : Nat) : Bool :=
  s.mem.homeOps.any (fun o => !o.done && o.lanes.any (fun h => !h.performed && a ≤ h.pa && h.pa < a + n))

/-- Writes a PTE at its home, as a commit of its own (09 R178). -/
def State.commitPte (s : State) (o : EngOp) (addr v : Nat) : State :=
  s.commitNow o.owner (s.stored 0 addr (bytesOfNat 8 v))

/-- The home of a PTE has retention for its commit (08 R162). -/
def State.pteRoom (s : State) (addr : Nat) : Bool := s.retentionOk (s.stored 0 addr (bytesOfNat 8 0))

/-- Drops TLB entries of every agent. -/
def State.dropTlb (s : State) (f : TlbEntry → Bool) : State :=
  { s with xlat := { s.xlat with tlbs := s.xlat.tlbs.mapV [] (fun l => l.filter (fun e => !f e)) } }

/-- Entries of a map whose keys, in units of `u` bytes, lie in a frame move to another frame. -/
def moveKeys {V : Type} [DecidableEq V] (d : V) (m : FMap V) (src dst n u : Nat) : FMap V :=
  let l := m.range (src / u) (n / u)
  l.foldl (fun m c => m.set d (c.1 - src / u + dst / u) c.2) ((m.clear (src / u) (n / u)).clear (dst / u) (n / u))

/-- The storage of two frames of map `cm`, run by run: source, destination and bytes. Frames that lie in one piece are
one run; else every line is one. -/
def State.runsOf (s : State) (cm src dst n : Nat) : List (Nat × Nat × Nat) :=
  if s.hashed cm || (tierOf src != .hbmA && tierOf dst != .hbmA) then [(src, dst, n)]
  else (List.range (n / 64)).map (fun k => (s.at cm (src + 64 * k), s.at cm (dst + 64 * k), 64))

/-- Where a byte of a run goes. -/
def moved (l : List (Nat × Nat × Nat)) (pa : Nat) : Nat :=
  match l.find? (fun r => r.1 ≤ pa && pa < r.1 + r.2.2) with
  | some r => pa - r.1 + r.2.1
  | none => pa

/-- One run of lines moves with its stamps: the source's bad lines are bad at the destination, whose own are
overwritten. -/
def MemSys.moveRun (m : MemSys) (r : Nat × Nat × Nat) : MemSys :=
  let (src, dst, n) := r
  let at_ (a : Nat) (l : Nat) : Bool := a / 64 ≤ l && l < (a + n) / 64
  let table := m.badTable.cells.flatMap (·.2)
  let bad := (m.badLines.filter (at_ src) ++ table.filter (at_ src)).map (fun l => l - src / 64 + dst / 64)
  { m with base := moveKeys 0 m.base src dst n 1, vers := moveKeys [] m.vers src dst n 1,
           atomics := moveKeys [] m.atomics src dst n 8, arrivals := moveKeys [] m.arrivals src dst n 1,
           dir := (m.dir.clear (dst / 64) (n / 64)).clear (src / 64) (n / 64),
           badLines := uniq (bad ++ m.badLines.filter (fun l => !at_ dst l)),
           badTable := m.badTable.mapV [] (fun l => l.filter (fun x => !at_ dst x)) }

/-- Each line of a page moves to the destination frame with its stamp (R185, step 4). -/
def State.movePage (s : State) (cm src dst n : Nat) : State :=
  let l := s.runsOf cm src dst n
  let s := { s with mem := l.foldl MemSys.moveRun s.mem }
  let s := { s with groups := s.groups.mapV {} (fun g =>
    match g.wake with
    | some w => (match w.cond with
      | .waitv va pa c ty v => { g with wake := some { w with cond := .waitv va (moved l pa) c ty v } }
      | _ => g)
    | none => g) }
  { s with grids := s.grids.mapV {} (fun g => if g.donePa = 0 then g else { g with donePa := moved l (g.donePa - 1) + 1 }) }

/-- The homes of a page keep no superseded version of its lines (R161). -/
def State.noneKept (s : State) (cm src n : Nat) : Bool :=
  (s.runsOf cm src src n).all (fun r => (s.mem.vers.range r.1 r.2.2).all (fun c => (keptOf s.mem.horizon c.2).isEmpty))

/-- The fault of a bad move; the bytes that remain are the page's, or a free value where there is no page. -/
def State.badMove (s : State) (o : EngOp) (size : Option Nat) : State :=
  match size with
  | some n => s.engFail { o with left := n } MEMORY 0xC (word64 o.w 0)
  | none => let r := s.drawNat; r.2.engFail { o with left := r.1 } MEMORY 0xC (word64 o.w 0)

/-- Wakes what waits on the pages of [va, va + n), as a PINDONE with FAIL = 0 does: requests there leave the queue. -/
def State.wakePages (s : State) (asid va n : Nat) : State :=
  let inside (p : Nat) : Bool := pageOf va ≤ p && p < pageOf va + n / 65536
  let ps := uniq (s.eng.ops.flatMap (fun o => if o.kind == .pgreq then o.open_.filter inside else []))
  let s := { s with xlat := { s.xlat with reqs := s.xlat.reqs.filter (fun r => !(r.asid == asid && inside r.page)) } }
  ps.foldl (fun s p => s.enginePage asid p false) s

/-- One step of PGTIER, taken when what it waits for has come. `total` is the page's size, `next` its PTE's address,
`ktotal` the PTE as found. -/
def State.pgtierTurn (s : State) (o : EngOp) : State :=
  let va := word64 o.w 0
  let dst := word64 o.w 2
  let gr := s.grid o.grid
  let src := pteFrame o.ktotal
  let n := o.total
  match o.step with
  | 0 =>
    if s.queueAhead o then s
    else if !canonical va then s.badMove o none
    else
      match s.walk gr.launch.root va with
      | .bad _ => s.badMove o none
      | .leaf p a size =>
        if pteRes p ≠ 0 || 1 < pteTier p || !movable (pteFrame p) (2 ^ size) || va % 2 ^ size ≠ 0 || dst % 2 ^ size ≠ 0
            || !movable dst (2 ^ size) then s.badMove o (some (2 ^ size))
        else if s.installingOn (pteFrame p) (2 ^ size) || !s.pteRoom a then s
        else
          (s.commitPte o a (setBits p 4 3 2)).setOp
            { o with step := 1, total := 2 ^ size, left := 2 ^ size, next := a, ktotal := p }
  | 1 =>
    let s := s.dropTlb (fun e => e.pteAddr == o.next)
    if s.installingOn src n || s.atomicsOn src n then s else s.setOp { o with step := 2 }
  | 2 =>
    if s.noneKept (pteCm o.ktotal) src n then s.setOp { o with step := 3 } else s
  | _ => if !s.pteRoom o.next then s else
    let s := s.movePage (pteCm o.ktotal) src dst n
    let p := s.newestN (s.at 0 o.next) 8
    let tier := if tierOf dst == .hbmA then 0 else 1
    let s := s.commitPte o o.next (setBits (setBits (setBits p 4 3 0) 6 5 tier) 51 16 (dst / 65536))
    ((s.wakePages gr.launch.asid va n).counted o n).dropOp o.id

/-- PGTIER_COPY: the next step of a move (R185). -/
def execPgtierCopy (k : Nat) (s : State) : Out :=
  match s.engOp k with
  | some o => .next (if o.kind == .pgtier then s.pgtierTurn o else s)
  | none => .next s

/-! ## SHOOT (09 R188, R189) -/

/-- Every translating agent: cores, TAEs, and the network, Reflow and Assay engines. -/
def agents : List Nat := List.range 4099

/-- SHOOT and SHOOT.all: a seventeenth waits (R189). -/
def shootIssue (i : Instr) (w : GA) (x : GXE) (used : List Nat) (s : State) : Out :=
  engIssue i w {} true used s (fun l s =>
    if 65536 ≤ word l 0 then .next (s.raiseAll w.s ILLEGAL 3 s.cur.lanes)
    else if 16 ≤ (s.eng.ops.filter (fun o => o.kind == .shoot)).length then .next (s.waitOn .shoots)
    else
      let r := s.newOp .shoot x l none
      enqueue w.s ({ r.1 with open_ := agents }, r.2))

/-- SHOOT (R371). -/
def execShoot (w : GA) (x : GXE) (s : State) : Out := shootIssue (.shoot w x) w x [0, 2, 3, 4, 5] s
/-- SHOOT.all (R371). -/
def execShootAll (w : GA) (x : GXE) (s : State) : Out := shootIssue (.shootAll w x) w x [0] s

/-- A SHOOT covers an entry of an address space at a virtual base, of 2^size bytes. -/
def EngOp.covers (o : EngOp) (asid va size : Nat) : Bool :=
  asid == word o.w 0 && (o.form == 1 || (va < word64 o.w 2 % 2 ^ 56 + word64 o.w 4 && word64 o.w 2 % 2 ^ 56 < va + 2 ^ size))

/-- Accesses of a core's groups that used a covered translation and are not yet performed. -/
def State.usesCovered (s : State) (o : EngOp) (ck : Nat) : Bool :=
  let here (gid : Nat) : Bool := (s.group gid).coreKey == ck && (s.gridOf gid).launch.asid == word o.w 0
  s.mem.homeOps.any (fun h => !h.done && here h.gid && h.lanes.any (fun l => !l.performed && o.covers (word o.w 0) (va56 l.va) 0)) ||
  s.mem.fabric.any (fun f => (f.kind == 0 || f.kind == 2) && !f.replied && here f.gid) ||
  s.mem.commits.any (fun c => c.installed && here c.gid && c.bytes.any (fun b => o.covers (word o.w 0) (va56 b.va) 0))

/-- SHOOT_ACK: an agent drops every matching entry and, once its accesses are performed, acknowledges; a walk that the
SHOOT covers restarts. -/
def execShootAck (k agent : Nat) (s : State) : Out :=
  match s.engOp k with
  | none => .next s
  | some o =>
    if o.kind != .shoot || !o.open_.contains agent then .next s
    else
      let l := (s.xlat.tlbs.get [] agent).filter (fun e => !o.covers e.asid e.va e.size)
      let s := { s with xlat := { s.xlat with
        tlbs := s.xlat.tlbs.set [] agent l,
        walks := s.xlat.walks.map (fun w => if w.agent == agent && o.covers w.asid (va56 w.va) 0 then { w with inFlight := false } else w) } }
      if agent < 2048 && s.usesCovered o agent then .next s
      else
        let o : EngOp := { o with open_ := o.open_.filter (· != agent) }
        .next (if o.open_.isEmpty then s.dropOp k else s.setOp o)

/-! ## DIGEST (R372) -/

/-- DIGEST: `digestctl` is captured now. -/
def execDigest (w : GA) (x : GXE) (s : State) : Out :=
  engIssue (.digest w x) w {} false [0, 1, 2, 3, 4, 5, 6] s (fun l s =>
    let n := word64 l 2
    let mode := s.g.spec.digestctl % 4
    if badLength n || 2 ≤ mode || (mode == 1 && n % 4096 != 0) || word64 l 5 % 32 ≠ 0 then
      .next (s.raiseAll w.s ILLEGAL 3 s.cur.lanes)
    else
      withBarrier w.s (word l 4) s (fun obj s =>
        let r := s.newOp .digest x l obj
        enqueue w.s ({ r.1 with left := 32 }, r.2)))

/-- A DIGEST reads its range and writes 32 unpublished bytes; a destination on a fabric page is refused. -/
def State.digestTurn (s : State) (o : EngOp) : State :=
  let gr := s.grid o.grid
  let dst := word64 o.w 5
  withBytes o (s.engLoad o (pieces (word64 o.w 0) (word64 o.w 2))) (fun l s =>
    match s.translate o.agent gr.launch.root gr.launch.asid .store dst with
    | (.node _ _, s) => s.engFail o MEMORY 3 dst
    | (_, s) =>
      withBytes o (s.engStore o [(dst, 32)] (if o.dmode = 1 then Sha.chunked l else Sha.sha256 l)) (fun _ s =>
        (s.counted o 32).dropOp o.id))

/-! ## The turn of an engine (R346) -/

/-- ENGINE_WRITE_PERFORMED: a command whose queue is clear performs its next write. -/
def execEngineWritePerformed (k : Nat) (s : State) : Out :=
  match s.engOp k with
  | none => .next s
  | some o =>
    if s.queueAhead o || s.isFrozen o.master then .next s
    else
      match o.kind with
      | .copy | .gather => .next (s.copyTurn o)
      | .accz | .accld | .accst => .next (if s.tileAhead o then s else s.accTurn o)
      | .pgreq => .next (if o.started then s else s.pgreqTurn o)
      | .digest => .next (s.digestTurn o)
      | _ => .next s

/-- MULTICAST_STORE_ARRIVE: the node has written this package's copy into scratch; the run of one of our commands is
counted (02 R35). A node performs a group's stores in their order (02 R32). -/
def execMulticastStoreArrive (m : McPacket) (s : State) : Out :=
  match m.op with
  | none => .next (s.writeSetFull 2 m.die m.off m.bytes false)
  | some k =>
    match s.eng.mcasts.find? (fun x => x.op == k && x.die == m.die && x.off == m.off && x.bytes == m.bytes) with
    | none => .next s
    | some x =>
      if s.eng.mcasts.find? (fun y => y.gid == x.gid && y.node == x.node) != some x then .next s else
      let s := s.writeSetFull 2 m.die m.off m.bytes false
      let s := { s with eng := { s.eng with mcasts := s.eng.mcasts.erase x } }
      .next (match s.engOp k with
        | none => s
        | some o =>
          let n := m.bytes.length
          let s := (s.counted o n).setOp { o with left := o.left - n }
          if o.next = o.total && !(s.eng.mcasts.any (fun y => y.op == k)) then s.dropOp k else s)

end Sys2Proof.Machine
end

