-- ==== Sys2Proof/Machine/Reshard.lean ====
section
/-! DEFINITION. The Reflow engine: RESHARD and RSTAT (18 R366 to R370). -/

namespace Sys2Proof.Machine
open Sys2Proof

/-! ## The command block (R366) -/

/-- A mesh and its map: axis extents, and the axis of each tensor dim. -/
structure Mesh where
  axes : List Nat
  map : List Nat
  deriving DecidableEq, Repr

structure ReHead where
  rank : Nat
  etype : Nat
  dims : List Nat
  src : Mesh
  dst : Mesh
  nsrc : Nat
  ndst : Nat
  prog : Nat
  deriving DecidableEq, Repr

def byteList (v lo n : Nat) : List Nat := (List.range n).map (fun k => byteF v (lo + k) (lo + k))

def parseHead (v : Nat) : ReHead :=
  { rank := byteF v 4 4, etype := byteF v 5 5 % 16,
    dims := [byteF v 11 8, byteF v 15 12, byteF v 19 16, byteF v 23 20],
    src := { axes := byteList v 24 4, map := byteList v 32 4 }, dst := { axes := byteList v 28 4, map := byteList v 36 4 },
    nsrc := byteF v 41 40, ndst := byteF v 43 42, prog := byteF v 55 48 }

/-- A source or destination entry: index, kind, address, and the bytes that must be 0 are. -/
structure ReEntry where
  idx : Nat
  kind : Nat
  addr : Nat
  clean : Bool
  deriving DecidableEq, Repr

def parseSrc (v : Nat) : ReEntry :=
  { idx := byteF v 3 0, kind := byteF v 4 4, addr := byteF v 15 8,
    clean := byteF v 7 5 == 0 && byteF v 31 20 == 0 && byteF v 4 4 ≤ 1 &&
      (if byteF v 4 4 = 1 then byteF v 17 16 / 4096 == 0 else byteF v 19 16 == 0) }
def parseDst (v : Nat) : ReEntry :=
  { idx := byteF v 3 0, kind := 0, addr := byteF v 15 8, clean := byteF v 7 4 == 0 && byteF v 31 16 == 0 }

/-! ## Shard geometry (R367) -/

/-- The extent of an axis; a mesh has `n` axes, and an unlisted one has extent 1. -/
def Mesh.axis (m : Mesh) (k : Nat) : Nat := m.axes.getD k 1
def Mesh.shards (m : Mesh) : Nat := (List.range 4).foldl (fun a k => a * m.axis k) 1
/-- Coordinate of a shard on an axis; axis 0 is outermost. -/
def Mesh.coord (m : Mesh) (i k : Nat) : Nat :=
  i / ((List.range 4).filter (k < ·)).foldl (fun a j => a * m.axis j) 1 % m.axis k
/-- Offset and extent of a shard in a tensor dim. -/
def Mesh.range (m : Mesh) (h : ReHead) (i d : Nat) : Nat × Nat :=
  let g := h.dims.getD d 1
  let a := m.map.getD d 255
  if a = 255 then (0, g) else (m.coord i a * (g / m.axis a), g / m.axis a)
def Mesh.box (m : Mesh) (h : ReHead) (i : Nat) : List (Nat × Nat) := (List.range 4).map (m.range h i)

/-- The intersection of two boxes; none when it is empty. -/
def meet (a b : List (Nat × Nat)) : Option (List (Nat × Nat)) :=
  let l := List.zipWith (fun x y => (max x.1 y.1, min (x.1 + x.2) (y.1 + y.2) - max x.1 y.1)) a b
  if l.any (fun x => x.2 == 0) then none else some l

/-- The REASON of a header that is refused, 0 for none (R367). -/
def headReason (v : Nat) (h : ReHead) : Nat :=
  let smr := byteF v 6 6
  let dmr := byteF v 7 7
  let meshBad (m : Mesh) (n : Nat) : Bool := (List.range 4).any (fun k => if k < n then m.axis k == 0 else m.axis k != 1)
  let undivided (m : Mesh) : Bool := (List.range 4).any (fun d =>
    let a := m.map.getD d 255
    a < 4 && m.axis a != 0 && h.dims.getD d 1 % m.axis a != 0)
  let mapBad (m : Mesh) (n : Nat) : Bool := (List.range 4).any (fun d =>
    let a := m.map.getD d 255
    a != 255 && (n ≤ a || (List.range d).any (fun e => m.map.getD e 255 == a)))
  if byteF v 3 0 ≠ 0x46523950 || byteF v 5 5 / 16 ≠ 0 || byteF v 47 44 ≠ 0 || byteF v 63 56 ≠ 0 then 1
  else if h.rank = 0 || 4 < h.rank || smr = 0 || 4 < smr || dmr = 0 || 4 < dmr || meshBad h.src smr || meshBad h.dst dmr ||
      (List.range 4).any (fun d => if d < h.rank then h.dims.getD d 1 == 0 else h.dims.getD d 1 != 1) then 2
  else if undivided h.src || undivided h.dst then 3
  else if mapBad h.src smr || mapBad h.dst dmr then 4
  else if h.nsrc = 0 || 4096 < h.nsrc || h.ndst = 0 || 4096 < h.ndst then 5
  else 0

/-- The REASON of the entries, 0 for none. -/
def entryReason (h : ReHead) (src dst : List ReEntry) : Nat :=
  let rises : List Nat → Bool := fun l => (List.zip l (l.drop 1)).all (fun x => x.1 < x.2)
  if src.any (fun e => !e.clean) || dst.any (fun e => !e.clean) then 1
  else if src.any (fun e => h.src.shards ≤ e.idx) || dst.any (fun e => h.dst.shards ≤ e.idx) || !rises (dst.map (·.idx)) then 5
  else 0

/-! ## The plan (R368) -/

/-- Source shards that are not replicas of a lower one. -/
def distinct (h : ReHead) : List Nat :=
  (List.range h.src.shards).filter (fun i => (List.range i).all (fun j => h.src.box h j != h.src.box h i))

/-- Address of a point of a box in a view of it: the box lies at `box`, the point at `p`. -/
def viewAt (t : Tlr) (box : List (Nat × Nat)) (p : List Nat) : Nat :=
  let rel (d : Nat) : Nat := p.getD d 0 - (box.getD d (0, 1)).1
  t.base + t.runBytes (rel 0) + rel 1 * t.stride 1 + rel 2 * t.stride 2 + rel 3 * t.stride 3

/-- The point of row r of a box, dim 1 fastest. -/
def rowPoint (x : List (Nat × Nat)) (r : Nat) : List Nat :=
  let o (d : Nat) : Nat := (x.getD d (0, 1)).1
  let e (d : Nat) : Nat := (x.getD d (0, 1)).2
  [o 0, o 1 + r % e 1, o 2 + r / e 1 % e 2, o 3 + r / (e 1 * e 2)]

/-- The units of one intersection: at most 1 MiB each. -/
def unitsOf (h : ReHead) (pull : Bool) (place : Nat) (s d : Tlr) (sbox dbox x : List (Nat × Nat)) : List ReUnit :=
  let e (k : Nat) : Nat := (x.getD k (0, 1)).2
  let rows := e 1 * e 2 * e 3
  let rb := e 0 * Fp.widthOf h.etype / 8
  let mib := 2 ^ 20
  let base : ReUnit := { pull, space := s.kind, place }
  if rb ≤ mib then
    let per := mib / rb
    (List.range ((rows + per - 1) / per)).map (fun u =>
      { base with runs := (List.range (min per (rows - u * per))).map (fun r =>
          let p := rowPoint x (u * per + r)
          (viewAt s sbox p, viewAt d dbox p, rb)) })
  else
    let cuts := (rb + mib - 1) / mib
    (List.range (rows * cuts)).map (fun u =>
      let p := rowPoint x (u / cuts)
      let o := u % cuts * mib
      { base with runs := [(viewAt s sbox p + o, viewAt d dbox p + o, min mib (rb - o))] })

/-- A dense row-major view of a shard at a remote offset (R366). -/
def denseTlr (h : ReHead) (box : List (Nat × Nat)) (roff : Nat) : Tlr :=
  let e (d : Nat) : Nat := (box.getD d (0, 1)).2
  let b := e 0 * Fp.widthOf h.etype / 8
  { base := roff, etype := h.etype, rank := h.rank, dims := (List.range 4).map e,
    strides := [b, b * e 1, b * e 1 * e 2] }

/-- The plan over the destinations in order; `none` when a source entry that it needs is absent. -/
def planOf (o : EngOp) (h : ReHead) (src : List (ReEntry × Tlr)) : List (ReEntry × Tlr) → Option (List ReUnit)
  | [] => some []
  | (d, dt) :: t =>
    let dbox := h.dst.box h d.idx
    let here := (distinct h).foldl (fun (a : Option (List ReUnit)) i =>
      let sbox := h.src.box h i
      match a, meet dbox sbox with
      | some l, some x =>
        (match src.find? (fun e => e.1.idx == i) with
         | some e => some (l ++ unitsOf h (e.1.kind == 1) (e.2.placeOf o) e.2 dt sbox dbox x)
         | none => none)
      | a, _ => a) (some [])
    match here, planOf o h src t with
    | some l, some m => some (l ++ m)
    | _, _ => none

/-! ## The progress record (R369) -/

structure Prog where
  cb : Nat := 0
  next : Nat := 0
  total : Nat := 0
  status : Nat := 0
  reason : Nat := 0
  fclass : Nat := 0
  fsub : Nat := 0
  faddr : Nat := 0
  deriving DecidableEq, Repr

def Prog.bytes (p : Prog) : List Byte :=
  bytesOfNat 8 p.cb ++ bytesOfNat 8 p.next ++ bytesOfNat 8 p.total ++ bytesOfNat 1 p.status ++ bytesOfNat 1 p.reason ++
    bytesOfNat 1 p.fclass ++ bytesOfNat 1 p.fsub ++ bytesOfNat 4 0 ++ bytesOfNat 8 p.faddr ++ bytesOfNat 24 0
def parseProg (v : Nat) : Prog :=
  { cb := byteF v 7 0, next := byteF v 15 8, total := byteF v 23 16, status := byteF v 24 24, reason := byteF v 25 25,
    fclass := byteF v 26 26, fsub := byteF v 27 27, faddr := byteF v 39 32 }

/-- The physical address of the progress record; a record that is misaligned, off phased memory or not mapped is a
fault, and one that is not resident is waited for. -/
def withProg (o : EngOp) (prog : Nat) (s : State) (k : Nat → Nat → State → State) : State :=
  let gr := s.grid o.grid
  if prog % 64 ≠ 0 then s.engFail o MEMORY 0xA prog
  else
    match s.translate o.agent gr.launch.root gr.launch.asid .atomic prog with
    | (.ok pa cm, s) => k pa cm s
    | (r, s) => withBytes o (s.engMiss o prog r) (fun _ s => s)

/-- Commits the whole record, as an atomic is committed, and goes on with `k`; it waits while its home lacks retention
(08 R162). -/
def State.putProg (s : State) (o : EngOp) (cm pa : Nat) (p : Prog) (k : State → State) : State :=
  let l := s.stored cm pa p.bytes
  if s.retentionOk l then k (s.commitNow o.owner l) else s

/-- The command ends with a record (it has been performed when it stops). -/
def State.endReshard (s : State) (o : EngOp) (prog : Nat) (p : Prog) : State :=
  withProg o prog s (fun pa cm s => s.putProg o cm pa p (·.dropOp o.id))

/-- A fault stops the command with STATUS 2, and is recorded (R347, R369). -/
def State.reshardFault (s : State) (o : EngOp) (prog : Nat) (p : Prog) (cls sub addr : Nat) : State :=
  withProg o prog s (fun pa cm s =>
    s.putProg o cm pa { p with status := 2, fclass := cls, fsub := sub, faddr := addr } (·.engFail o cls sub addr))

/-! ## RESHARD (R366) -/

/-- RESHARD. -/
def execReshard (w : GA) (x : GXE) (s : State) : Out :=
  engIssue (.reshard w x) w {} false [0, 1] s (fun l s =>
    let r := s.newOp .reshard x l none
    enqueue w.s (r.1, r.2.cannotUndo r.2.cur.gid r.2.cur.pc (word64 l 0)))

/-- Reads n entries of 32 bytes. -/
def State.readEntries (s : State) (o : EngOp) (va n : Nat) (f : Nat → ReEntry) : ERes × List ReEntry × State :=
  match s.engLoad o (pieces va (32 * n)) with
  | (.ok l, s) => (.ok [], (List.range n).map (fun k => f (natOfBytes ((l.drop (32 * k)).take 32))), s)
  | (r, s) => (r, [], s)

/-- Reads the TLR of each entry and holds it against the shard's extents; a KIND 1 source is dense. -/
def State.entryTlrs (s : State) (o : EngOp) (h : ReHead) (m : Mesh) (kinds : List Nat) :
    List ReEntry → ERes × Bool × List (ReEntry × Tlr) × State
  | [] => (.ok [], true, [], s)
  | e :: t =>
    let box := m.box h e.idx
    if e.kind = 1 then
      let r := s.entryTlrs o h m kinds t
      (r.1, r.2.1, (e, denseTlr h box e.addr) :: r.2.2.1, r.2.2.2)
    else
      match s.engLoad o (pieces e.addr 64) with
      | (.ok l, s) =>
        let v := natOfBytes l
        let tl := parseTlr v
        let ok := e.addr % 64 == 0 && tlrOk v tl (s.grid o.grid).launch.tmem kinds && tl.rank == h.rank && tl.etype == h.etype &&
          tl.dims == box.map (·.2)
        let r := s.entryTlrs o h m kinds t
        (r.1, ok && r.2.1, (e, tl) :: r.2.2.1, r.2.2.2)
      | (r, s) => (r, true, [], s)

/-- The plan is built, and the record is read: the command completes, resumes, or starts afresh (R369); a
reserved field that is not 0 refuses it (00 R3, R367). -/
def State.startPlan (s : State) (o : EngOp) (h : ReHead) (plan : List ReUnit) : State :=
  let cb := word64 o.w 0
  withProg o h.prog s (fun pa cm s =>
    let v := natOfBytes (s.newestAt cm pa 64)
    let p := parseProg v
    let n := plan.length
    let mine := p.cb == cb && p.total == n
    if byteF v 31 28 ≠ 0 || byteF v 63 40 ≠ 0 then s.putProg o cm pa { cb, status := 3, reason := 1 } (·.dropOp o.id)
    else if mine && p.status = 1 then s.dropOp o.id
    else
      let next := if mine && (p.status = 0 || p.status = 2) then p.next else 0
      let p : Prog := { cb, next, total := n, status := if n ≤ next then 1 else 0 }
      s.putProg o cm pa p (fun s =>
        if n ≤ next then s.dropOp o.id
        else s.setOp { o with started := true, plan, next, total := n, ktotal := h.prog }))

/-- The engine reads the block, checks it, and builds the plan. -/
def State.startReshard (s : State) (o : EngOp) : State :=
  let cb := word64 o.w 0
  if cb % 64 ≠ 0 then s.engFail o MEMORY 0xA cb
  else
    withBytes o (s.engLoad o (pieces cb 64)) (fun l s =>
      let v := natOfBytes l
      let h := parseHead v
      let refuse (s : State) (r : Nat) : State := s.endReshard o h.prog { cb, status := 3, reason := r }
      if headReason v h ≠ 0 then refuse s (headReason v h)
      else
        let a := s.readEntries o (cb + 64) h.nsrc parseSrc
        withBytes o (a.1, a.2.2) (fun _ s =>
          let b := s.readEntries o (cb + 64 + 32 * h.nsrc) h.ndst parseDst
          withBytes o (b.1, b.2.2) (fun _ s =>
            let r := entryReason h a.2.1 b.2.1
            if r ≠ 0 then refuse s r
            else
              let x := s.entryTlrs o h h.src [0, 1, 2] a.2.1
              withBytes o (x.1, x.2.2.2) (fun _ s =>
                let y := s.entryTlrs o h h.dst [0] b.2.1
                withBytes o (y.1, y.2.2.2) (fun _ s =>
                  match planOf o h x.2.2.1 y.2.2.1 with
                  | none => refuse s 6
                  | some plan => if x.2.1 && y.2.1 then s.startPlan o h plan else refuse s 7)))))

/-- Source bytes of the runs of a unit: pulled, or read under the cut held at issue. -/
def State.readRuns (s : State) (o : EngOp) (u : ReUnit) : List (Nat × Nat × Nat) → ERes × List (List Byte) × State
  | [] => (.ok [], [], s)
  | (a, _, n) :: t =>
    match s.engRead o u.space u.place a n with
    | (.ok l, s) => (let r := s.readRuns o u t; (r.1, l :: r.2.1, r.2.2))
    | (r, s) => (r, [], s)

/-- Bytes of the destinations of a unit, at the places found for them. -/
def State.placeRuns (s : State) (o : EngOp) : List (Nat × List Byte) → ERes × List CByte × State
  | [] => (.ok [], [], s)
  | (va, l) :: t =>
    let gr := s.grid o.grid
    match s.translate o.agent gr.launch.root gr.launch.asid .store va with
    | (.ok pa cm, s) =>
      let r := s.placeRuns o t
      (r.1, (List.range l.length).map (fun k => { va := va + k, pa := pa + k, loc := s.at cm (pa + k), val := l.getD k 0 }) ++ r.2.1, r.2.2)
    | (r, s) => let q := s.engMiss o va r; (q.1, [], q.2)

/-- The bytes of a run, cut at the pages of its destination. -/
def cutPieces : List (Nat × Nat) → List Byte → List (Nat × List Byte)
  | [], _ => []
  | (va, n) :: t, l => (va, l.take n) :: cutPieces t (l.drop n)

/-- NEXT moves past every unit that has been committed, one commit for each (R369). -/
def State.advanceNext (s : State) (o : EngOp) (pa cm : Nat) : Nat → State
  | 0 => s
  | n + 1 =>
    match s.engOp o.id with
    | none => s
    | some o =>
      if !o.open_.contains o.next then s
      else
        let next := o.next + 1
        let p : Prog := { cb := word64 o.w 0, next, total := o.total, status := if next = o.total then 1 else 0 }
        s.putProg o cm pa p (fun s =>
          if next = o.total then s.dropOp o.id
          else (s.setOp { o with next, open_ := o.open_.filter (· != o.next) }).advanceNext o pa cm n)

/-- Cuts a list into the lengths of runs. -/
def cutRuns : List (Nat × Nat × Nat) → List Byte → List (List Byte)
  | [], _ => []
  | (_, _, n) :: t, l => l.take n :: cutRuns t (l.drop n)

/-- One unit: its bytes are read, or have been pulled, and are committed under one stamp; then NEXT advances. -/
def State.reshardUnit (s : State) (o : EngOp) (u : Nat) (pulled : List Byte) (status : Nat) : State :=
  let un := o.plan.getD u {}
  let p : Prog := { cb := word64 o.w 0, next := o.next, total := o.total }
  let bytes := (un.runs.map (·.2.2)).foldl (· + ·) 0
  if un.pull && status ≠ 0 then
    withProg o o.ktotal s (fun pa cm s => s.putProg o cm pa { p with status := 2, reason := status } (·.dropOp o.id))
  else if un.pull && pulled.length ≠ bytes then s
  else
    let r := if un.pull then (ERes.ok [], cutRuns un.runs pulled, s) else s.readRuns o un un.runs
    match r.1 with
    | .fault c f a => r.2.2.reshardFault o o.ktotal p c f a
    | .absent pg => r.2.2.engPage o pg
    | .wait => r.2.2
    | .ok _ =>
      let q := r.2.2.placeRuns o ((List.zipWith (fun x l => cutPieces (pieces x.2.1 x.2.2) l) un.runs r.2.1).flatten)
      let s := q.2.2
      match q.1 with
      | .fault c f a => s.reshardFault o o.ktotal p c f a
      | .absent pg => s.engPage o pg
      | .wait => s
      | .ok _ =>
        if !s.retentionOk (q.2.1.map (fun b => (b.loc, b.val))) then s
        else
          let g := { s.reader o with cut := o.cut }
          let s := (s.publishBytes g o.gid o.pc o.owner q.2.1).setOp { o with open_ := u :: o.open_ }
          withProg o o.ktotal s (fun pa cm s => s.advanceNext o pa cm 8)

/-- RESHARD_UNIT_COMMIT: the engine starts, or one of the up to eight units in flight commits. What a pull brought, or
the UET status with which it failed, comes from the peer with the event. -/
def execReshardUnitCommit (k u : Nat) (pulled : List Byte) (status : Nat) (s : State) : Out :=
  match s.engOp k with
  | none => .next s
  | some o =>
    if o.kind != .reshard || s.queueAhead o || s.isFrozen o.master then .next s
    else if !o.started then .next (s.startReshard o)
    else if o.open_.contains o.next then .next (withProg o o.ktotal s (fun pa cm s => s.advanceNext o pa cm 8))
    else if o.next ≤ u && u < min o.total (o.next + 8) && !o.open_.contains u then
      .next (s.reshardUnit o u pulled status)
    else .next s

/-! ## RSTAT (R370) -/

/-- A RESHARD of the group with this block address is in flight. -/
def State.reshardsBusy (s : State) (gid va : Nat) : Bool :=
  s.eng.ops.any (fun o => o.gid == gid && o.kind == .reshard && word64 o.w 0 == va)

/-- RSTAT: NEXT and STATUS of the block's record, which is in phased memory. -/
def execRstat (w : GA) (x : GXE) (s : State) : Out :=
  engIssue (.rstat w x) w { sw := regs w.d 2 } false [0, 1] s (fun l s =>
    let va := word64 l 0
    if s.reshardsBusy s.cur.gid va then .next (s.waitOn (.reshards va))
    else
      memGroup w.s .load 0 0 64 va 0 s (fun a s =>
        let low := s.cur.lanes.low
        fabricWait w.s 0 64 0 0 {} [(low, a)] (fun _ => 0) (fun _ => 0) s (fun ans acc s =>
          match (laneFaults acc).head? with
          | some f => .next (s.raiseGroup w.s f)
          | none =>
            let prog := byteF (s.loadLane 0 64 ans low a) 55 48
            memGroup w.s .load 0 0 64 prog 0 (s.loadEffects 0 64 acc) (fun a s =>
              match a with
              | .ok _ pa cm =>
                let p := parseProg (natOfBytes (s.newestAt cm pa 64))
                .next ((s.addLong { ss := [(w.d.toNat, BitVec.ofNat 32 p.next), (w.d.toNat + 1, BitVec.ofNat 32 p.status)] }).finish w.s {})
              | _ => .next (s.raiseAddr w.s MEMORY 3 s.cur.lanes prog 0)))))

end Sys2Proof.Machine
end

