-- ==== Sys2Proof/Machine/Net.lean ====
section
/-! DEFINITION. The Ultra Ethernet engine as its commands use it: registers and counters (03 R50, R54), the checks of a
request (R45, R387), the network commands (18 R363 to R365), and local completion (03 R46). -/

namespace Sys2Proof.Machine
open Sys2Proof

namespace State

/-! ## Registers (R54 to R57) -/

def ue (s : State) (off : Nat) : Nat := s.reg (ueBase + off)
def setUe (s : State) (off v : Nat) : State := s.setReg (ueBase + off) v
def netOn (s : State) : Bool := s.ue 0 % 2 == 1
/-- The engine runs: ENABLE is 1, and no freeze holds it (R54, 04 R70). -/
def netRuns (s : State) : Bool := s.netOn && !s.isFrozen netMaster
def rnrMax (s : State) : Nat := bits (s.ue 0) 39 32
def rtoMax (s : State) : Nat := bits (s.ue 0) 31 24
def dupThresh (s : State) : Nat := bits (s.ue 0) 7 4
/-- What NSCC would give a sending context, within NSCCWIN (R53): UET 1.0's initial window, and what ECN marks and
round-trip times make of it, are free values (log 15). -/
def drawWindow (s : State) : Nat × State :=
  let r := s.drawNat
  (min (bits (s.ue 8) 63 32) (max (bits (s.ue 8) 31 0) r.1), r.2)

/-- Adds 1 to a 16-bit field of NETSTAT, from bit `lo`; it wraps. -/
def netStat (s : State) (lo : Nat) : State :=
  let v := s.ue 0x18
  s.setUe 0x18 (setBits v (lo + 15) lo (bits v (lo + 15) lo + 1))

/-- A 32-byte table entry as one number. -/
def ueEntry (s : State) (off : Nat) : Nat :=
  s.ue off + 2 ^ 64 * s.ue (off + 8) + 2 ^ 128 * s.ue (off + 16) + 2 ^ 192 * s.ue (off + 24)
def peerEntry (s : State) (i : Nat) : Nat := s.ueEntry (0x10000 + 32 * i)
/-- The entry in force: an RMA never sees one that is written in part (R55, log 87). -/
def rkeyEntry (s : State) (k : Nat) : Nat := s.net.rkeys.get 0 k
/-- The words written of an entry come into force together. -/
def latchRkey (s : State) (k : Nat) : State :=
  { s with net := { s.net with rkeys := s.net.rkeys.set 0 k (s.ueEntry (0x30000 + 32 * k)) } }
/-- FLAGS of a key table entry share a word with EPOCH and CTL (R56). -/
def keyWord (d : Nat) : Nat := 0x60000 + 128 * d + 64
def keyValid (s : State) (d : Nat) : Bool := s.ue (keyWord d) / 2 ^ 32 % 2 == 1

/-- A usable peer entry: valid, with no reserved field set, and a security domain with a key (R44, R53). -/
def peerOk (s : State) (i : Nat) : Bool :=
  let e := s.peerEntry i
  byteF e 25 25 == 1 && byteF e 31 26 == 0 && s.keyValid (byteF e 24 24)

/-- A self peer: ADDR is one of the ports', and JOB and PID are this package's (R381). -/
def selfPeer (s : State) (i : Nat) : Bool :=
  let e := s.peerEntry i
  (List.range 4).any (fun p => byteF e 15 0 == s.ue (0x40 + 16 * p) + 2 ^ 64 * s.ue (0x48 + 16 * p)) &&
  byteF e 19 16 == bits (s.ue 0x20) 31 0 && byteF e 23 20 == bits (s.ue 0x20) 63 32

/-! ## Counters (R50) -/

def ctrOff (c : Nat) : Nat := 0x50000 + 8 * c
def counter (s : State) (c : Nat) : Nat := s.ue (ctrOff c)
def setCounter (s : State) (c v : Nat) : State := s.setUe (ctrOff c) v

/-- A message ends: SUCCESS advances, or ERRORS and LASTERR take its status. -/
def netCount (s : State) (c status : Nat) : State :=
  let v := s.counter c
  if status = 0 then s.setCounter c (setBits v 47 0 (v + 1))
  else s.setCounter c (setBits (setBits v 55 48 (min 255 (bits v 55 48 + 1))) 63 56 status)

/-! ## The engine's lists -/

def netMsg (s : State) (k : Nat) : Option NetMsg := s.net.msgs.find? (fun m => m.id == k)
def setMsg (s : State) (m : NetMsg) : State :=
  { s with net := { s.net with msgs := s.net.msgs.map (fun x => if x.id == m.id then m else x) } }
def pdc (s : State) (k : Nat) : Option Pdc := s.net.pdcs.find? (fun p => p.id == k)
def setPdc (s : State) (p : Pdc) : State :=
  { s with net := { s.net with pdcs := s.net.pdcs.map (fun x => if x.id == p.id then p else x) } }

/-- A message or a buffer reaches local completion with a status; `none` withdraws it uncounted (R46, R50). Packets that
it has sent stay until they are acknowledged. -/
def endNet (s : State) (k : Nat) (status : Option Nat) : State :=
  let s := match s.engOp k, status with
    | some o, some st => s.netCount (bits (word o.w 0) 25 16) st
    | _, _ => s
  let now := s.clock
  let n : NetSys := s.net
  let n : NetSys := { n with
    msgs := n.msgs.filter (fun m => m.id != k), bufs := n.bufs.filter (fun b => b.op != k),
    pdcs := n.pdcs.map (fun p => if n.msgs.any (fun m => m.id == k && m.pdc == p.id) then { p with last := now } else p) }
  { s with net := n }.dropOp k

/-- Packets of a message that has failed are resent with no data, so that their numbers are acknowledged (log 88). -/
def voidPackets (s : State) (k : Nat) : State :=
  let void (u : Unacked) : Unacked := if u.msg == k then { u with pkt := { u.pkt with kind := 7, bytes := [] } } else u
  { s with net := { s.net with pdcs := s.net.pdcs.map (fun p => { p with unacked := p.unacked.map void }) } }

/-- A PDC is idle: no message of it is open, and no packet unacknowledged. -/
def pdcIdle (s : State) (p : Pdc) : Bool := p.unacked.isEmpty && !(s.net.msgs.any (fun m => m.pdc == p.id))
/-- A receiving context is idle: no packet is missing or waits for its SACK, and no message is open; a self peer's sending
context is idle too. -/
def rxIdle (s : State) (r : RxPdc) : Bool :=
  r.since == 0 && r.got.isEmpty &&
    !(s.net.rxMsgs.any (fun m => m.peer == r.peer && m.mode == r.mode && !m.done && !m.refused)) &&
    (!s.selfPeer r.peer || s.net.pdcs.all (fun p => p.id != r.spdc || s.pdcIdle p))

/-- Closes a sending context, or a receiving one; the two of a self peer close together (R43). -/
def closePdc (s : State) (id : Nat) : State :=
  let n := s.net
  let pair (r : RxPdc) : Bool := s.selfPeer r.peer && (r.spdc == id || r.id == id)
  { s with net := { n with
    pdcs := n.pdcs.filter (fun p => p.id != id && !(n.rx.any (fun r => r.id == id && pair r && r.spdc == p.id))),
    rx := n.rx.filter (fun r => r.id != id && !pair r) } }

/-- Room for a context: of the package's 2048, the one idle longest is closed; none where all are in use (R43). -/
def roomPdc (s : State) : Option State :=
  if s.net.pdcs.length + s.net.rx.length < 2048 then some s
  else
    match (s.net.pdcs.filter s.pdcIdle).map (fun p => (p.last, p.id)) ++ (s.net.rx.filter s.rxIdle).map (fun r => (r.last, r.id)) with
    | [] => none
    | x :: t => some (s.closePdc (t.foldl (fun (b : Nat × Nat) y => if y.1 < b.1 then y else b) x).2)

/-- The PDC of a peer and mode: the one in use, or a new one (R43). -/
def openPdc (s : State) (peer mode : Nat) : Option (Nat × State) :=
  match s.net.pdcs.find? (fun p => p.peer == peer && p.mode == mode) with
  | some p => some (p.id, s)
  | none => s.roomPdc.map (fun s =>
      let (id, s) := s.fresh
      let (window, s) := s.drawWindow
      let p : Pdc := { id, peer, mode, last := s.clock, window }
      (id, { s with net := { s.net with pdcs := s.net.pdcs ++ [p] } }))

end State

/-! ## The checks of a request (R45, R387) -/

/-- KIND of a command: 0 send, 1 RMA write, 2 RMA read, 3 a posted buffer. -/
def reqKind (form : Nat) (l : List Nat) : Nat := if form = 0 then bits (word l 0) 14 14 else form

/-- The request breaks a rule of R45. -/
def reqBad (form : Nat) (l : List Nat) : Bool :=
  let w0 := word l 0
  let w6 := word l 6
  let mode := bits w0 13 12
  let len := word l 1
  bits w0 31 26 != 0 || mode == 3 || word l 7 != 0 || len == 0 || (if mode = 2 then 4096 else 2 ^ 24) < len ||
  (match reqKind form l with
   | 3 => bits w0 15 12 != 0 || w6 != 0
   | 2 => bits w0 14 14 != 0 || mode == 2 || bits w6 31 26 != 0
   | 1 => bits w6 31 26 != 0
   | _ => mode == 1 || bits w6 31 26 != 0 || bits w6 15 0 != 0)

/-- The status of the first check that fails, 0 for none; the PDC is the fourth. -/
def State.reqStatus (s : State) (form : Nat) (l : List Nat) : Nat :=
  if !s.netOn then 1
  else if reqBad form l then 6
  else if !s.peerOk (bits (word l 0) 11 0) then 1
  else 0

/-- How many messages with this tag have gone to the peer, and one more. -/
def State.nextOrd (s : State) (peer tag : Nat) : Nat × State :=
  let l := s.net.sent
  let n := ((l.find? (fun x => x.1 == peer && x.2.1 == tag)).map (·.2.2)).getD 0
  (n, { s with net := { s.net with sent := (peer, tag, n + 1) :: l.filter (fun x => !(x.1 == peer && x.2.1 == tag)) } })

/-- The common issue of NSEND, NGET and NPOST: a request that fails a check completes at once; it never traps. -/
def netIssue (i : Instr) (w : GA) (x : GXE) (form : Nat) (s : State) : Out :=
  engIssue i w {} false (List.range 8) s (fun l s =>
    let s := s.cannotUndo s.cur.gid s.cur.pc (word64 l 2)
    let peer := bits (word l 0) 11 0
    let tag := word64 l 4
    let kind := reqKind form l
    let fail (st : Nat) : Out := .next ((s.netCount (bits (word l 0) 25 16) st).finish w.s {})
    let st := s.reqStatus form l
    if st ≠ 0 then fail st
    else if kind = 3 then
      let r := s.newOp .net x l none
      let b : NetBuf := { op := r.1.id, peer, tag, laddr := word64 l 2, len := word l 1 }
      enqueue w.s ({ r.1 with form := 3 }, { r.2 with net := { r.2.net with bufs := r.2.net.bufs ++ [b] } })
    else
      match s.openPdc peer (bits (word l 0) 13 12) with
      | none => fail 7
      | some (p, s) =>
        let r := s.newOp .net x l none
        let o := if kind = 0 then r.2.nextOrd peer tag else (0, r.2)
        let m : NetMsg := { id := r.1.id, pdc := p, ord := o.1, total := (word l 1 + 4095) / 4096 }
        enqueue w.s ({ r.1 with form := kind }, { o.2 with net := { o.2.net with msgs := o.2.net.msgs ++ [m] } }))

/-- NSEND (18 R363). -/
def execNsend (w : GA) (x : GXE) (s : State) : Out := netIssue (.nsend w x) w x 0 s
/-- NGET (18 R363). -/
def execNget (w : GA) (x : GXE) (s : State) : Out := netIssue (.nget w x) w x 2 s
/-- NPOST: the buffer enters its match table now (18 R363, 03 R382). -/
def execNpost (w : GA) (x : GXE) (s : State) : Out := netIssue (.npost w x) w x 3 s

/-! ## NWAIT and NCTR (18 R364, R365) -/

/-- What NWAIT's counter answers: none while it waits. `v` holds T and the expected ERRORS. -/
def State.nwaitAnswer (s : State) (c v : Nat) : Option Nat :=
  let n := s.counter c
  if (bits n 47 0 + 2 ^ 48 - bits v 47 0) % 2 ^ 48 < 2 ^ 47 then some 0
  else if bits n 55 48 ≠ bits v 55 48 then some (0x100 + bits n 63 56)
  else none

/-- The subgroup has parked at its instruction before. -/
def Group.parkedHere (g : Group) (c : Cur) : Bool := match g.sub c with | some x => x.parkedAt != 0 | none => false

/-- NWAIT (18 R364). -/
def execNwait (w : GA) (x : GXE) (s : State) : Out :=
  engIssue (.nwait w x) w { sw := [w.d.toNat] } false [0, 1, 2, 3] s (fun l s =>
    let c := word l 0
    if 1024 ≤ c || 65536 ≤ word l 2 || 256 ≤ word l 3 then .next (s.raiseAll w.s ILLEGAL 3 s.cur.lanes)
    else
      let s := if s.g.parkedHere s.cur then s else s.cannotUndo s.cur.gid s.cur.pc (0x100 + c)
      let v := word64 l 1 + 2 ^ 48 * word l 3
      match s.nwaitAnswer c v with
      | some r => .next ((s.addLong { ss := [(w.d.toNat, BitVec.ofNat 32 r)] }).finish w.s {})
      | none => .next (s.park w.s (.nwait c v)))

/-- The common issue of NCTR; the counter's number fills w0. -/
def nctrIssue (i : Instr) (w : GA) (f : Foot) (s : State) (k : Nat → List Nat → State → State) : Out :=
  engIssue i w f false [0, 1, 2] s (fun l s =>
    let c := word l 0
    if 1024 ≤ c then .next (s.raiseAll w.s ILLEGAL 3 s.cur.lanes)
    else .next ((k c l (s.cannotUndo s.cur.gid s.cur.pc (0x100 + c))).finish w.s {}))

/-- NCTR.rd: its value depends on timing, code 0x07 (03 R51). -/
def execNctrRd (w : GA) (x : GXE) (s : State) : Out :=
  nctrIssue (.nctrRd w x) w { sw := regs w.d 2 } s (fun c _ s =>
    let v := s.counter c
    (s.causeAny s.cur.gid 7 s.cur.pc (0x100 + c)).addLong
      { ss := [(w.d.toNat, BitVec.ofNat 32 v), (w.d.toNat + 1, BitVec.ofNat 32 (v / 2 ^ 32))] })
/-- NCTR.set. -/
def execNctrSet (w : GA) (x : GXE) (s : State) : Out :=
  nctrIssue (.nctrSet w x) w {} s (fun c l s => s.setCounter c (word64 l 1))
/-- NCTR.add. -/
def execNctrAdd (w : GA) (x : GXE) (s : State) : Out :=
  nctrIssue (.nctrAdd w x) w {} s (fun c l s =>
    let v := s.counter c
    s.setCounter c (setBits v 47 0 (v + word l 1)))

end Sys2Proof.Machine
end

