-- ==== Sys2Proof/Machine/NetPackets.lean ====
section
/-! DEFINITION. Packets of the Ultra Ethernet engine: forming, placing, matching, acknowledging and resending
(03 R47 to R53, R381, R382, R388), RMA (R55), and the key table (R56). A packet to a self peer travels in
`net.wire`, and what its receiver sends back in `net.replies`; what remote peers send comes with the event. -/

namespace Sys2Proof.Machine
open Sys2Proof

/-! ## Local memory (R47, R48, R388) -/

/-- What an access of the network engine finds: storage, node bytes, a failed check, or a wait while a freeze holds it. -/
inductive NetAt where
  | mem (pa cm : Nat)
  | node (n a : Nat)
  | failed
  | wait
  deriving DecidableEq, Repr

/-- Who accesses memory, and where: the command or message and its PC, and the address space. -/
structure NetWho where
  id : Nat
  pc : Nat
  root : Nat
  asid : Nat
  deriving DecidableEq, Repr

/-- The engine's access for a command of this package. -/
def State.netFor (s : State) (o : EngOp) : NetWho :=
  let l := (s.grid o.grid).launch
  { id := o.id, pc := o.pc, root := l.root, asid := l.asid }
/-- Its access for a peer's RMA. -/
def netTarget (p : Packet) (root asid : Nat) : NetWho := { id := 2 ^ 62 + p.msg, pc := 0, root, asid }

/-- The engine's access to n bytes of one page; a node refuses what it does not hold (02 R31). -/
def State.netReach (s : State) (w : NetWho) (a : Acc) (va n : Nat) : NetAt × State :=
  match s.translate 4096 w.root w.asid a va with
  | (.ok pa cm, s) => (if a = .load && (s.badIn cm pa n).isSome then .failed else .mem pa cm, s)
  | (.node k b, s) => (if (s.nodeFault k).isSome || s.nodeRefuses k b n then .failed else .node k b, s)
  | (.freeze pa, s) =>
    if s.isReleased w.id w.pc then (.failed, s.clearFailed w.id) else (.wait, s.freeze netMaster w.id w.pc pa)
  | (_, s) => (.failed, s)

/-- Reads pieces as newest committed bytes; `error true` while it must wait, `error false` where a page fails. -/
def State.netRead (s : State) (w : NetWho) : List (Nat × Nat) → Except Bool (List Byte) × State
  | [] => (.ok [], s)
  | (va, n) :: t =>
    let more (s : State) (b : List Byte) : Except Bool (List Byte) × State :=
      match s.netRead w t with
      | (.ok c, s) => (.ok (b ++ c), s)
      | r => r
    match s.netReach w .load va n with
    | (.mem pa cm, s) => more (s.countLines cm pa n 0) (s.newestAt cm pa n)
    | (.node k a, s) => more s ((List.range n).map (fun i => s.nodeByte k (a + i)))
    | (.failed, s) => (.error false, s)
    | (.wait, s) => (.error true, s)

/-- Bytes at their storage that pieces place. Bytes on a fabric page go to their node. -/
def State.netPlace (s : State) (w : NetWho) : List (Nat × Nat) → List Byte → Except Bool (List (Nat × Byte)) × State
  | [], _ => (.ok [], s)
  | (va, n) :: t, l =>
    match s.netReach w .store va n with
    | (.mem pa cm, s) =>
      (match s.netPlace w t (l.drop n) with
       | (.ok b, s) => (.ok (s.stored cm pa (l.take n) ++ b), s)
       | r => r)
    | (.node k a, s) => (s.setNodeN k a (l.take n)).netPlace w t (l.drop n)
    | (.failed, s) => (.error false, s)
    | (.wait, s) => (.error true, s)

inductive PRes where
  | placed | failed | wait
  deriving DecidableEq, Repr

/-- Places a packet's bytes under one stamp; it waits while a home lacks retention (08 R162). -/
def State.netCommit (s : State) (w : NetWho) (who : Owner) (va : Nat) (l : List Byte) : PRes × State :=
  match s.netPlace w (pieces va l.length) l with
  | (.error false, t) => (.failed, { s with xlat := t.xlat, host := t.host })
  | (.error true, t) => (.wait, { s with host := t.host })
  | (.ok b, t) => if s.retentionOk b then (.placed, t.commitNow who b) else (.wait, s)

/-! ## Sending (R52, R57) -/

def State.keysOf (s : State) (d : Nat) : Nat × Nat × Option Nat := s.net.keys.get (0, 0, none) d
/-- The security domain of a peer, and the current epoch of one. -/
def State.domain (s : State) (peer : Nat) : Nat := byteF (s.peerEntry peer) 24 24
def State.keyEpoch (s : State) (d : Nat) : Nat := s.ue (State.keyWord d) % 2 ^ 32

/-- A packet leaves under the current epoch's key (R56): to a self peer it stays in the engine, to any other it leaves
the package. -/
def State.transmit (s : State) (p : Packet) : State :=
  let d := s.domain p.peer
  let p := { p with epoch := s.keyEpoch d, key := (s.keysOf d).1 }
  if s.selfPeer p.peer then { s with net := { s.net with wire := s.net.wire ++ [p] } } else s

/-- A first transmission, which NETDROP may drop (R57). -/
def State.firstSend (s : State) (p : Packet) : State :=
  let d := s.ue 0x10
  if bits d 32 32 = 1 && bits d 47 36 = p.peer && bits d 35 34 = p.mode && bits d 31 0 = p.psn then
    (s.setUe 0x10 (setBits d 32 32 0)).netStat 0
  else s.transmit p

/-- A resend (R52), counted in RESENT. -/
def State.resend (s : State) (u : Unacked) : State := (s.netStat 16).transmit u.pkt

/-- What a remote key table entry allows for an access: address, ROOT and ASID (R55). -/
def State.region (s : State) (rkey off len : Nat) (write : Bool) : Option (Nat × Nat × Nat) :=
  if 4096 ≤ rkey then none
  else
    let e := s.rkeyEntry rkey
    let f := byteF e 26 26
    let n := byteF e 15 8
    if f % 2 = 0 || 8 ≤ f || byteF e 31 27 ≠ 0 || n = 0 || n < off + len || (if write then f / 4 % 2 else f / 2 % 2) = 0
    then none
    else some (byteF e 7 0 + off, byteF e 23 16, byteF e 25 24)

/-- The physical ranges of resident pages of virtual bytes: node plus 1, or 0 for the package; address and length. -/
def State.rangesOf (s : State) (root va n : Nat) : List (Nat × Nat × Nat) :=
  (pieces va n).filterMap (fun p =>
    match s.walk root p.1 with
    | .leaf e _ sz => if pteRes e != 0 then none else
        some (if pteTier e == 2 then pteNode e + 1 else 0, pteFrame e + va56 p.1 % 2 ^ sz, p.2)
    | .bad _ => none)
def rangesMeet (a b : List (Nat × Nat × Nat)) : Bool :=
  a.any (fun x => b.any (fun y => x.1 == y.1 && x.2.1 < y.2.1 + y.2.2 && y.2.1 < x.2.1 + x.2.2))

/-- Bytes of this package that a network command still writes: its buffer, or its region at a self peer. -/
def State.netWrites (s : State) (x : EngOp) : List (Nat × Nat × Nat) :=
  if x.form == 3 then s.rangesOf (s.grid x.grid).launch.root (word64 x.w 2) (word x.w 1)
  else if x.form == 1 && s.selfPeer (bits (word x.w 0) 11 0) then
    match s.region (bits (word x.w 6) 15 0) (word64 x.w 4) (word x.w 1) true with
    | some r => s.rangesOf r.2.1 r.1 (word x.w 1)
    | none => []
  else []
/-- Bytes of this package that a message reads: n from `va`, or its region at a self peer. -/
def State.netReads (s : State) (o : EngOp) (va n : Nat) : List (Nat × Nat × Nat) :=
  if o.form ≠ 2 then s.rangesOf (s.grid o.grid).launch.root va n
  else if s.selfPeer (bits (word o.w 0) 11 0) then
    match s.region (bits (word o.w 6) 15 0) (word64 o.w 4) (word o.w 1) false with
    | some r => s.rangesOf r.2.1 r.1 (word o.w 1)
    | none => []
  else []

/-- An earlier command of the queue holds back a message's reads (08 R168, 18 R363): an NGET, or any command but a
network one, until it is performed; a buffer or a self peer's RMA write (03 R382) only where it writes those bytes. -/
def State.netHeld (s : State) (o : EngOp) (va n : Nat) : Bool :=
  s.eng.ops.any (fun x => x.gid == o.gid && x.queue == o.queue && x.id < o.id &&
    (x.kind != .net || x.form == 2 || rangesMeet (s.netWrites x) (s.netReads o va n)))

/-- Bytes of a PDC in flight (R53). -/
def Pdc.inFlight (p : Pdc) : Nat := p.unacked.foldl (fun a u => a + u.pkt.bytes.length) 0

/-- The packet of a message at an offset, before it has its bytes. -/
def packetOf (o : EngOp) (m : NetMsg) (p : Pdc) (off : Nat) (bytes : List Byte) : Packet :=
  { peer := p.peer, mode := p.mode, psn := p.psn, msg := o.id, ord := m.ord, kind := o.form, off, len := word o.w 1,
    tag := if o.form = 0 then word64 o.w 4 else 0, rkey := bits (word o.w 6) 15 0, roff := if o.form = 0 then 0 else word64 o.w 4,
    rctr := if bits (word o.w 0) 15 15 = 1 then some (bits (word o.w 6) 25 16) else none, bytes, authOk := true,
    supported := true, status := 0, pdc := p.id, epoch := 0, key := 0 }

/-- The PDC after a packet has taken its PSN. -/
def State.takePsn (s : State) (p : Pdc) (k : Nat) (pkt : Packet) : State :=
  s.setPdc { p with psn := (p.psn + 1) % 2 ^ 32, last := s.clock,
                    unacked := if p.mode = 2 then p.unacked else p.unacked ++ [{ psn := p.psn, msg := k, pkt }] }

/-- PACKET_FORM: the next packet of a message is formed from committed bytes and sent (R47); where a page fails, the
message ends, and the receiver is told how much of it was sent (R388). -/
def execPacketForm (k : Nat) (s : State) : Out :=
  match s.engOp k, s.netMsg k with
  | some o, some m =>
    match s.pdc m.pdc with
    | none => .next s
    | some p =>
      let off := 4096 * m.formed
      let n := if o.form = 2 then 0 else min 4096 (word o.w 1 - off)
      let va := word64 o.w 2 + off
      if !s.netRuns || (if o.form = 2 then 1 else m.total) ≤ m.formed || s.netHeld o va n ||
          (p.mode ≠ 2 && !p.unacked.isEmpty && p.window < p.inFlight + n) then .next s
      else
        match s.netRead (s.netFor o) (pieces va n) with
        | (.error true, s) => .next s
        | (.error false, s) =>
          .next ((s.transmit { packetOf o m p off [] with kind := 5 + o.form, status := 4 }).endNet k (some 4))
        | (.ok l, s) =>
          let pkt := packetOf o m p off l
          let s := ((s.takePsn p k pkt).setMsg { m with formed := m.formed + 1 }).firstSend pkt
          .next (if p.mode = 2 && m.formed + 1 = m.total then s.endNet k (some 0) else s)
  | _, _ => .next s

/-! ## Acknowledgements (R52) -/

/-- Packets that satisfy `f` have been acknowledged, and NSCC sets the window anew (R53); a message all of whose packets
have been reaches local completion (R46). -/
def State.acked (s : State) (p : Pdc) (f : Nat → Bool) : State :=
  let hit := p.unacked.filter (fun u => f u.psn)
  if hit.isEmpty then s
  else
    let (window, s) := s.drawWindow
    let s := s.setPdc { p with unacked := p.unacked.filter (fun u => !f u.psn), fails := 0, window }
    (uniq (hit.map (·.msg))).foldl (fun s k =>
      match s.engOp k, s.netMsg k, s.pdc p.id with
      | some o, some m, some q =>
        if o.form ≠ 2 && m.formed = m.total && !(q.unacked.any (fun u => u.msg == k)) then s.endNet k (some 0) else s
      | _, _, _ => s) s

/-- An answer from a self peer must be one that its receiver sent; from a remote peer it comes with the event. An engine
that is off takes none (log 89). -/
def State.takeReply (s : State) (p : Pdc) (r : NetReply) : Option State :=
  if !s.netRuns then none
  else if !s.selfPeer p.peer then some s
  else if s.net.replies.contains r then some { s with net := { s.net with replies := s.net.replies.erase r } }
  else none

/-- ACK_RECEIVE: one packet has been acknowledged. -/
def execAckReceive (pdc psn : Nat) (s : State) : Out :=
  match s.pdc pdc with
  | none => .next s
  | some p =>
    match s.takeReply p (.ack pdc psn) with
    | none => .next s
    | some s => .next (s.acked p (fun x => x == psn))

/-- How far PSN b lies past PSN a; PSNs have 32 bits, and one half of them lies before a (R52). -/
def ahead (a b : Nat) : Nat := (b + 2 ^ 32 - a % 2 ^ 32) % 2 ^ 32

/-- SACK_RECEIVE: `cum` is c + 1, the packets received with no gap; a received packet DUPTHRESH past a missing one makes
the sender resend it (R52). -/
def execSackReceive (pdc cum : Nat) (bitmap : DWord) (s : State) : Out :=
  match s.pdc pdc with
  | none => .next s
  | some p =>
    match s.takeReply p (.sack pdc cum bitmap.toNat) with
    | none => .next s
    | some s =>
      let has (x : Nat) : Bool := 2 ^ 31 ≤ ahead cum x || (ahead cum x < 64 && bitmap.getLsbD (ahead cum x))
      let top := (List.range 64).foldl (fun a i => if bitmap.getLsbD i then cum + i + 1 else a) cum
      let s := s.acked p has
      match s.pdc pdc with
      | none => .next s
      | some q =>
        let d := s.dupThresh
        .next (if d = 0 then s else
          (q.unacked.filter (fun u => !has u.psn && d < ahead u.psn top && ahead u.psn top < 2 ^ 31)).foldl (fun s u => s.resend u) s)

/-- NOT_READY_RECEIVE: the message found no buffer; that counts as progress (R49). -/
def execNotReadyReceive (pdc msg : Nat) (s : State) : Out :=
  match s.pdc pdc, s.netMsg msg with
  | some p, some m =>
    match s.takeReply p (.notReady pdc msg) with
    | none => .next s
    | some s => .next ((s.setPdc { p with fails := 0 }).setMsg { m with notReady := true })
  | _, _ => .next s

/-- RTO_EXPIRY: messages that wait for a buffer use up a retry, the expiries without progress are counted, and every
unacknowledged packet is sent again; after RTOMAX of them the PDC's open messages end, and it closes (R49, R52). -/
def execRtoExpiry (pdc : Nat) (s : State) : Out :=
  match s.pdc pdc with
  | none => .next s
  | some p =>
    if p.unacked.isEmpty || !s.netRuns then .next s
    else
      let mine := s.net.msgs.filter (fun m => m.pdc == pdc)
      let progress := mine.any (·.notReady)
      let s := mine.foldl (fun s m =>
        if !m.notReady then s
        else if s.rnrMax ≤ m.rnr then (s.endNet m.id (some 2)).voidPackets m.id
        else s.setMsg { m with notReady := false, rnr := m.rnr + 1 }) s
      let fails := if progress then 0 else p.fails + 1
      if s.rtoMax ≤ fails && !progress then
        .next (((s.net.msgs.filter (fun m => m.pdc == pdc)).foldl (fun s m => s.endNet m.id (some 1)) s).closePdc pdc)
      else
        match s.pdc pdc with
        | none => .next s
        | some q => .next (q.unacked.foldl (fun s u => s.resend u) (s.setPdc { q with fails, last := s.clock }))

/-! ## The receiving side (R49, R52) -/

def State.setRx (s : State) (r : RxPdc) : State :=
  { s with net := { s.net with rx := s.net.rx.map (fun x => if x.id == r.id then r else x) } }
def State.rxPdc (s : State) (k : Nat) : Option RxPdc := s.net.rx.find? (fun r => r.id == k)

/-- The receiving context of a peer and mode, opened at its first packet, and anew when the peer has opened another
sending context; none for a packet of an older one, or where no context is free (R43, log 86). -/
def State.openRx (s : State) (p : Packet) : Option (RxPdc × State) :=
  match s.net.rx.find? (fun r => r.peer == p.peer && r.mode == p.mode) with
  | some r =>
    if r.spdc = p.pdc then some (r, s)
    else if p.pdc < r.spdc then none
    else
      let r : RxPdc := { id := r.id, peer := r.peer, mode := r.mode, spdc := p.pdc, last := s.clock }
      some (r, s.setRx r)
  | none => s.roomPdc.map (fun s =>
      let (id, s) := s.fresh
      let r : RxPdc := { id, peer := p.peer, mode := p.mode, spdc := p.pdc, last := s.clock }
      (r, { s with net := { s.net with rx := s.net.rx ++ [r] } }))

/-- What the receiver sends back: to a self peer's sending context, or out of the package. -/
def State.reply (s : State) (peer : Nat) (r : NetReply) : State :=
  if s.selfPeer peer then { s with net := { s.net with replies := s.net.replies ++ [r] } } else s

/-- A SACK is returned. -/
def State.sendSack (s : State) (r : RxPdc) : State :=
  let map := (r.got.filter (fun x => ahead r.cum x < 64)).foldl (fun a x => a ||| 2 ^ ahead r.cum x) 0
  (s.setRx { r with since := 0 }).reply r.peer (.sack r.spdc r.cum map)

/-- The packets received without a gap grow over those received above them. -/
def closeGap : Nat → RxPdc → RxPdc
  | 0, r => r
  | n + 1, r =>
    if r.got.contains r.cum then closeGap n { r with cum := (r.cum + 1) % 2 ^ 32, got := r.got.filter (· != r.cum) } else r

/-- The context has received this PSN. -/
def RxPdc.has (r : RxPdc) (psn : Nat) : Bool := 2 ^ 31 ≤ ahead r.cum psn || r.got.contains psn

/-- A packet has been received: a SACK at once where it opens or fills a gap; UUD acknowledges nothing (R52). -/
def State.received (s : State) (k psn : Nat) : State :=
  match s.rxPdc k with
  | none => s
  | some r =>
    if r.mode = 2 then s.setRx { r with last := s.clock }
    else if r.has psn then s.setRx { r with since := r.since + 1, last := s.clock }
    else
      let top := r.got.foldl (fun a x => max a (ahead r.cum x + 1)) 0
      let q := closeGap (r.got.length + 1) { r with got := psn :: r.got, since := r.since + 1, last := s.clock }
      if ahead r.cum psn ≠ top then (s.setRx q).sendSack q else s.setRx q

/-- SACK_TIMER: 2 µs have passed since an unacknowledged packet. -/
def execSackTimer (pdc : Nat) (s : State) : Out :=
  match s.rxPdc pdc with
  | some r => .next (if r.since = 0 || r.mode = 2 || !s.netRuns then s else s.sendSack r)
  | none => .next s
/-- SACK_PACKET_COUNT: eight packets have been received since the last. -/
def execSackPacketCount (pdc : Nat) (s : State) : Out :=
  match s.rxPdc pdc with
  | some r => .next (if r.since < 8 || r.mode = 2 || !s.netRuns then s else s.sendSack r)
  | none => .next s

def State.setRxMsg (s : State) (m : RxMsg) : State :=
  let same (x : RxMsg) : Bool := x.peer == m.peer && x.mode == m.mode && x.msg == m.msg
  let l := s.net.rxMsgs
  { s with net := { s.net with rxMsgs := if l.any same then l.map (fun x => if same x then m else x) else l ++ [m] } }
def State.rxMsgOf (s : State) (p : Packet) : RxMsg :=
  (s.net.rxMsgs.find? (fun x => x.peer == p.peer && x.mode == p.mode && x.msg == p.msg)).getD
    { peer := p.peer, mode := p.mode, msg := p.msg, ord := p.ord, tag := p.tag, len := p.len, rctr := p.rctr }

/-- A notice to the sender of a message: it has been refused, or its placement failed. -/
def State.refuse (s : State) (p : Packet) (status : Nat) : State :=
  let s := s.transmit { p with kind := 4, status, bytes := [] }
  match p.rctr with
  | some c => s.netCount c status
  | none => s

/-- A self peer's message of this tag and place may still reach the receiver: it is open, or a packet of it is kept or on
its way. -/
def State.mayArrive (s : State) (peer tag i : Nat) : Bool :=
  let pkt (p : Packet) : Bool := p.peer == peer && p.kind == 0 && p.tag == tag && p.ord == i
  s.net.msgs.any (fun x => x.ord == i && (match s.engOp x.id with
    | some o => o.form == 0 && bits (word o.w 0) 11 0 == peer && word64 o.w 4 == tag
    | none => false)) ||
  s.net.wire.any pkt || s.net.pdcs.any (fun p => p.unacked.any (fun u => pkt u.pkt))

/-- The buffer that a message takes: earlier messages of the tag that have not been matched or refused, and that may
still arrive, hold the oldest (R49). -/
def State.freeBuf (s : State) (m : RxMsg) : Option NetBuf :=
  let settled (i : Nat) : Bool := s.net.rxMsgs.any (fun x => x.peer == m.peer && x.tag == m.tag && x.ord == i &&
    (x.buf.isSome || x.refused || x.done)) || (s.selfPeer m.peer && !s.mayArrive m.peer m.tag i)
  let held := ((List.range m.ord).filter (fun i => !settled i)).length
  (s.net.bufs.filter (fun b => b.peer == m.peer && b.tag == m.tag && b.taken.isNone))[held]?

/-- The message at the receiver ends with a status: its buffer's NPOST and the remote counter take it. -/
def State.endRx (s : State) (m : RxMsg) (status : Nat) : State :=
  let s := s.setRxMsg { m with done := true }
  let s := match m.rctr with | some c => s.netCount c status | none => s
  match m.buf with
  | some k => s.endNet k (some status)
  | none => s

/-- Matches a message to a buffer: `none` while it has none, else the message and the state. -/
def State.matchMsg (s : State) (p : Packet) (m : RxMsg) : Option (RxMsg × State) :=
  if m.buf.isSome || m.refused || m.done then some (m, s)
  else
    match s.freeBuf m with
    | none => none
    | some b =>
      if b.len < m.len then
        let m := { m with refused := true }
        some (m, (s.setRxMsg m).refuse p 5)
      else
        let m := { m with buf := some b.op }
        let s := s.setRxMsg m
        some (m, { s with net := { s.net with bufs := s.net.bufs.map (fun x => if x.op == b.op then { x with taken := some p.msg } else x) } })

/-- Ends a message whose last packet has been placed, or the last that its sender sent before it failed (R46, R388). -/
def State.settleRx (s : State) (m : RxMsg) : State :=
  if m.done then s.setRxMsg m
  else if m.placed.length = (m.len + 4095) / 4096 then s.endRx m 0
  else
    match m.stop with
    | some k => if k ≤ m.placed.length then s.endRx m 4 else s.setRxMsg m
    | none => s.setRxMsg m

/-- Records a placed packet of a message. -/
def State.placedAt (s : State) (m : RxMsg) (off : Nat) : State :=
  s.settleRx { m with placed := if m.placed.contains off then m.placed else off :: m.placed }

/-- The sender has failed after `k` packets of a message (R388). -/
def State.stopRx (s : State) (p : Packet) (k : Nat) : State :=
  let m := s.rxMsgOf p
  if m.done || m.refused then s else s.settleRx { m with stop := some k }

/-- A send's packet: placed in its buffer, refused, or answered "not ready"; UUD drops it instead (R49, log 90). Answers
none while it must wait. -/
def State.receiveSend (s : State) (rx : Nat) (p : Packet) : Option State :=
  match s.matchMsg p (s.rxMsgOf p) with
  | none =>
    if p.mode = 2 then some (s.setRxMsg { s.rxMsgOf p with done := true })
    else some (s.reply p.peer (.notReady p.pdc p.msg))
  | some (m, s) =>
    match m.buf.bind s.engOp with
    | none => some (s.received rx p.psn)
    | some o =>
      match s.netCommit (s.netFor o) o.owner (word64 o.w 2 + p.off) p.bytes with
      | (.wait, _) => none
      | (.failed, s) => some (((s.endRx m 4).transmit { p with kind := 4, status := 4, bytes := [] }).received rx p.psn)
      | (.placed, s) => some ((s.placedAt m p.off).received rx p.psn)

/-! ## RMA (R55) -/

/-- Every page of a range is resident and translates; `error true` while a freeze holds the engine. -/
def State.rangeOk (s : State) (w : NetWho) (a : Acc) : List (Nat × Nat) → Except Bool Unit × State
  | [] => (.ok (), s)
  | (va, n) :: t =>
    match s.netReach w a va n with
    | (.failed, s) => (.error false, s)
    | (.wait, s) => (.error true, s)
    | (_, s) => s.rangeOk w a t

/-- An RMA write's packet at the target: refused whole with status 0x3, or placed; RUDI places every copy (R52). -/
def State.receiveWrite (s : State) (rx : Nat) (p : Packet) : Option State :=
  let m := s.rxMsgOf p
  let refuse (s : State) : State :=
    if m.done then s.received rx p.psn else ((s.setRxMsg { m with refused := true }).refuse p 3).received rx p.psn
  if m.refused || (m.done && p.mode ≠ 1) then some (s.received rx p.psn)
  else
    match s.region p.rkey p.roff p.len true with
    | none => some (refuse s)
    | some (va, root, asid) =>
      let w := netTarget p root asid
      match s.rangeOk w .store (pieces va p.len) with
      | (.error true, _) => none
      | (.error false, s) => some (refuse s)
      | (.ok (), s) =>
        match s.netCommit w {} (va + p.off) p.bytes with
        | (.wait, _) => none
        | (.failed, s) => some (refuse s)
        | (.placed, s) => some ((s.placedAt m p.off).received rx p.psn)

/-- An RMA read's answer at its issuer. -/
def State.receiveAnswer (s : State) (p : Packet) : Option State :=
  match s.engOp p.msg, s.netMsg p.msg with
  | some o, some m =>
    if o.form ≠ 2 then some s
    else
      match s.netCommit (s.netFor o) o.owner (word64 o.w 2 + p.off) p.bytes with
      | (.wait, _) => none
      | (.failed, s) => some (s.endNet o.id (some 4))
      | (.placed, s) =>
        let placed := if m.placed.contains p.off then m.placed else p.off :: m.placed
        some (if placed.length = m.total then s.endNet o.id (some 0) else s.setMsg { m with placed })
  | _, _ => some s

/-- A packet from a self peer must be on its way; it is taken off the wire. -/
def State.takePacket (s : State) (p : Packet) : Option State :=
  if !s.selfPeer p.peer then some s
  else if s.net.wire.contains p then some { s with net := { s.net with wire := s.net.wire.erase p } }
  else none

/-- The packet authenticates under the key of its epoch, the current or the previous one of its peer's domain (R53,
R56). -/
def State.authentic (s : State) (p : Packet) : Bool :=
  let d := s.domain p.peer
  let k := s.keysOf d
  p.authOk && s.keyValid d && ((p.epoch == s.keyEpoch d && p.key == k.1) ||
    ((p.epoch + 1) % 2 ^ 32 == s.keyEpoch d && k.2.2 == some p.key))

/-- A packet that reaches the engine: dropped and counted, or `k` on the state without it (R42, R53). One that uses an
unsupported feature is counted as such whether or not it authenticates (log 91). An engine that is off takes none, and a
self peer's packet stays on its way (log 89). -/
def State.arrives (s : State) (p : Packet) (k : State → Out) : Out :=
  if !s.netRuns then .next s
  else
    match s.takePacket p with
    | none => .next s
    | some t =>
      if !p.supported then .next (t.netStat 32)
      else if !t.authentic p then .next (t.netStat 48)
      else k t

/-- PACKET_RECEIVE (R52): a packet is dropped, discarded as a duplicate, placed, refused, or answered. -/
def execPacketReceive (p : Packet) (s : State) : Out :=
  if p.kind = 2 then .next s
  else s.arrives p (fun t =>
    match p.kind with
    | 4 =>
      .next (match t.engOp p.msg with
        | some o => if o.kind == .net && o.form != 3 then (t.endNet p.msg (some p.status)).voidPackets p.msg else t
        | none => t)
    | 5 | 6 => .next (t.stopRx p (p.off / 4096))
    | 3 => .next ((t.receiveAnswer p).getD s)
    | _ =>
      match t.openRx p with
      | none => .next t
      | some r =>
        if p.kind = 7 || (p.mode = 0 && r.1.has p.psn) then .next (r.2.received r.1.id p.psn)
        else .next ((if p.kind = 0 then r.2.receiveSend r.1.id p else r.2.receiveWrite r.1.id p).getD s))

/-- The answer to an RMA read: its packets, of 4096 bytes, from newest committed bytes. -/
def answerPackets (p : Packet) (l : List Byte) : List Packet :=
  (List.range ((l.length + 4095) / 4096)).map (fun k =>
    { p with kind := 3, off := 4096 * k, bytes := (l.drop (4096 * k)).take 4096 })

/-- RMA_READ_REQUEST (R55): checked at the target, and refused or answered; a duplicate is acknowledged again. No byte
of a read is placed at the target, so RCTR takes only a refusal there (R46, log 92). -/
def execRmaReadRequest (p : Packet) (s : State) : Out :=
  if p.kind ≠ 2 then .next s
  else s.arrives p (fun t =>
    match t.openRx p with
    | none => .next t
    | some r =>
      let id := r.1.id
      let ack (s : State) : Out := .next ((s.reply p.peer (.ack p.pdc p.psn)).received id p.psn)
      let t := r.2
      if p.mode = 0 && r.1.has p.psn then ack t
      else
        match t.region p.rkey p.roff p.len false with
        | none => ack (t.refuse p 3)
        | some (va, root, asid) =>
          match t.netRead (netTarget p root asid) (pieces va p.len) with
          | (.error true, u) => .next { s with host := u.host }
          | (.error false, u) => ack (u.refuse p 3)
          | (.ok l, u) => ack ((answerPackets p l).foldl (fun s q => s.transmit q) u))

/-! ## Keys (R56) -/

def State.setKeys (s : State) (d : Nat) (k : Nat × Nat × Option Nat) : State :=
  { s with net := { s.net with keys := s.net.keys.set (0, 0, none) d k } }

/-- ENGINE_KEY_LOAD: KEY is loaded and VALID set. -/
def execEngineKeyLoad (d : Nat) (key : BitVec 256) (s : State) : Out :=
  let k := s.keysOf d
  let s := s.setKeys d (key.toNat, k.2.1, k.2.2)
  .next (s.setUe (State.keyWord d) (setBits (s.ue (State.keyWord d)) 32 32 1))
/-- ENGINE_KEYNEXT_LOAD: KEYNEXT is loaded and NEXTVALID set. -/
def execEngineKeynextLoad (d : Nat) (key : BitVec 256) (s : State) : Out :=
  let k := s.keysOf d
  let s := s.setKeys d (k.1, key.toNat, k.2.2)
  .next (s.setUe (State.keyWord d) (setBits (s.ue (State.keyWord d)) 33 33 1))
/-- KEY_ROLL: KEYNEXT becomes KEY and EPOCH rises by 1; ignored while NEXTVALID = 0. -/
def execKeyRoll (d : Nat) (s : State) : Out :=
  let v := s.ue (State.keyWord d)
  if bits v 33 33 = 0 then .next s
  else
    let k := s.keysOf d
    .next ((s.setKeys d (k.2.1, 0, if bits v 32 32 = 1 then some k.1 else none)).setUe (State.keyWord d) (setBits (setBits (setBits v 33 33 0) 32 32 1) 31 0 (v + 1)))

end Sys2Proof.Machine
end

