-- ==== Sys2Proof/Machine/CoreEvents.lean ====
section
/-! DEFINITION. Events inside the cores and at the homes: long results (07 R127), queue entries (R135), handler entry
(10 R194), walks (09 R177), atomics, notices and commits (08 R157 to R163), fabric replies (02 R31 to R34) and
deliveries (07 R143). An event whose condition does not hold changes nothing (log 23). -/

namespace Sys2Proof.Machine
open Sys2Proof

/-! ## Results, queues, handlers, walks -/

/-- LONG_RESULT_WRITE: a value that has come back is written, and its pending bits are cleared. -/
def execLongResultWrite (gid k : Nat) (s : State) : Out :=
  let g := s.group gid
  match g.longs.find? (fun x => x.id == k && x.ready) with
  | some x => .next (s.setGroup gid (g.writeLong x))
  | none => .next s

/-- QUEUE_ENTRY_FILL: the oldest reserved entry of an oq has its data. -/
def execQueueEntryFill (gid q : Nat) (s : State) : Out := .next (s.fillQueue gid q)

/-- HANDLER_ENTER: a free handler set is taken by the head of its queue. -/
def execHandlerEnter (part : Nat) (s : State) : Out := .next (s.serveHandler part)

/-- The waiting walk that starts next on a die: the oldest request, ties to the lower core. -/
def nextWalk (l : List WalkReq) (die : Nat) : Option WalkReq :=
  match l.filter (fun w => w.die == die && !w.inFlight) with
  | [] => none
  | x :: t => some (t.foldl (fun (b : WalkReq) y => if y.at_ < b.at_ || (y.at_ == b.at_ && y.core < b.core) then y else b) x)

/-- WALK_START: a free walk engine of the die, of its 1024, takes it. -/
def execWalkStart (die : Nat) (s : State) : Out :=
  let l := s.xlat.walks
  if 1024 ≤ (l.filter (fun w => w.die == die && w.inFlight)).length then .next s
  else
    match nextWalk l die with
    | none => .next s
    | some w => .next { s with xlat := { s.xlat with walks := l.map (fun x => if x.id == w.id then { x with inFlight := true } else x) } }

/-- WALK_COMPLETE: the walk fills its agent's TLB and sets A; a walk ahead that fails leaves no trace (R176). -/
def execWalkComplete (k : Nat) (s : State) : Out :=
  match s.xlat.walks.find? (fun w => w.id == k && w.inFlight) with
  | none => .next s
  | some w =>
    let s := { s with xlat := { s.xlat with walks := s.xlat.walks.filter (fun x => x.id != k) } }
    .next (if canonical w.va then (s.leafFor w.agent w.root w.asid w.va).2 else s)

/-! ## Atomics at their home (08 R163, 17 R324) -/

/-- An atomic whose order of arrival matters (06 R93). -/
def HomeOp.ordered (o : HomeOp) : Bool := o.kind != 4 && (o.long.isSome || o.kind == 1 || o.kind == 2 || o.kind == 3)

/-- What a lane writes, if it writes: the new word; and flags. -/
def State.homeResult (s : State) (o : HomeOp) (h : HomeLane) : Option Nat × Nat :=
  let old := s.newestN h.loc o.width
  if o.kind = 4 then (some (if old + 1 = o.n then 0 else (old + 1) % 2 ^ 32), 0)
  else atomResult o.kind o.aop o.width old h.a h.b

/-- A lane may be performed: its home has room for what it supersedes (R162). -/
def State.homeReady (s : State) (o : HomeOp) (h : HomeLane) : Bool :=
  match (s.homeResult o h).1 with
  | some v => s.retentionOk (bytesAt h.loc o.width v)
  | none => true

/-- The old value reaches the long result that the operation fills, at its lane. -/
def Group.fillLong (g : Group) (k lane v flags : Nat) : Group :=
  { g with longs := g.longs.map (fun x =>
      if x.id != k then x
      else { x with flags := x.flags ||| flags,
                    vs := (List.zip (List.range x.vs.length) x.vs).map (fun y =>
                      (y.2.1, y.2.2.1, y.2.2.2.merge (Mask.one lane) (fun _ => BitVec.ofNat 32 (v / 2 ^ (32 * y.1))))) }) }

/-- The value of a long result has come back. -/
def Group.readyLong (g : Group) (k : Nat) : Group :=
  { g with longs := g.longs.map (fun x => if x.id == k then { x with ready := true } else x) }

/-- Codes 0x01 and, in a steered grid, 0x0D for an atomic (06 R93). -/
def State.atomicCauses (s : State) (o : HomeOp) (h : HomeLane) : State :=
  let g := s.group o.gid
  let gr := s.grid g.grid
  let word := h.pa / 8 * 8
  let met := (s.mem.atomics.get [] (h.loc / 8)).any (fun m => !(m.grid == g.grid && m.team == g.team && m.num == g.num) && gr.cut < m.at_)
  let s := if o.ordered && met then s.cause o.gid 1 o.pc word else s
  let outside := (List.range o.width).any (fun i => match s.versOf (h.loc + i) with
    | v :: _ => v.grid != g.grid && gr.cut < v.time
    | [] => false)
  if gr.steered && outside then s.cause o.gid 0xD o.pc word else s

/-- One lane of an atomic or ARRIVE is performed, as a commit of its own; `lclk` is its logical clock. -/
def State.homeLane (s : State) (o : HomeOp) (h : HomeLane) (lclk : Nat) : State :=
  let g := s.group o.gid
  let old := s.newestN h.loc o.width
  let r := s.homeResult o h
  let s := s.atomicCauses o h
  let m := s.mem
  let marks := (m.atomics.get [] (h.loc / 8)).filter (fun x => !(x.grid == g.grid && x.team == g.team && x.num == g.num))
  let mark : AtomicMark := { grid := g.grid, team := g.team, num := g.num, at_ := s.clock }
  let s := { s with mem := { m with atomics := m.atomics.set [] (h.loc / 8) (mark :: marks) } }
  let s := match r.1 with
    | some v => s.commitNow (g.owner lclk) (bytesAt h.loc o.width v)
    | none => s.count h.loc 0
  let s := if h.tagged then s.tagRecord o.gid h.va o.pc 1 (some h.loc) 0 else s
  let full := o.kind == 4 && old + 1 == o.n
  let who := s.mem.arrivals.get [] h.loc ++ [(g.grid, g.team, s.clock)]
  let s := if o.kind = 4 then { s with mem := { s.mem with arrivals := s.mem.arrivals.set [] h.loc (if full then [] else who) } } else s
  let s := match o.long with
    | some k => s.setGroup o.gid ((s.group o.gid).fillLong k h.lane old r.2)
    | none => s.flagsOf o.gid r.2
  let s := s.observe o.gid h.loc
  let lanes := o.lanes.map (fun x => if x.lane == h.lane then { x with performed := true } else x)
  let done := lanes.all (·.performed)
  let o : HomeOp := { o with lanes, done, result := full, who := if full then who else [] }
  let s := match o.long with
    | some k => if done then s.setGroup o.gid ((s.group o.gid).readyLong k) else s
    | none => s
  let ops := s.mem.homeOps
  let ops := if done && o.kind != 4 then ops.filter (fun x => x.id != o.id) else ops.map (fun x => if x.id == o.id then o else x)
  { s with mem := { s.mem with homeOps := ops } }

def State.homeOp (s : State) (k : Nat) : Option HomeOp := s.mem.homeOps.find? (fun o => o.id == k)

/-- Lanes in ascending order, as far as retention allows. -/
def State.homeLanes (s : State) (k : Nat) : List HomeLane → State
  | [] => s
  | h :: t =>
    match s.homeOp k with
    | none => s
    | some o => if h.performed then s.homeLanes k t else if s.homeReady o h then (s.homeLane o h 0).homeLanes k t else s

/-- HOME_ATOMIC: an operation that has reached its home; in a steered grid the sequencer performs it. -/
def execHomeAtomic (k : Nat) (s : State) : Out :=
  match s.homeOp k with
  | some o => .next (if (s.gridOf o.gid).steered then s else s.homeLanes k o.lanes)
  | none => .next s

/-! ## Commits (R157, R160) -/

/-- SUPERSEDED_NOTICE: the L1 of a core acknowledges its oldest notice. -/
def execSupersededNotice (core : Nat) (s : State) : Out :=
  match s.mem.commits.find? (fun c => c.notices.contains core) with
  | none => .next s
  | some c =>
    let lines := uniq (c.bytes.map (·.loc / 64))
    let dir := lines.foldl (fun d n => d.set [] n ((d.get [] n).filter (· != core))) s.mem.dir
    .next ({ s with mem := { s.mem with dir } }.setCommit { c with notices := c.notices.filter (· != core) })

/-- COMMIT_VISIBLE: the commit becomes visible whole; in a steered grid the sequencer performs it. -/
def execCommitVisible (k : Nat) (s : State) : Out :=
  match s.commitOf k with
  | some c => .next (if (s.gridOf c.gid).steered || !s.commitReady c then s else s.publish c 0)
  | none => .next s

/-! ## Fabric accesses at their node (02 R31 to R34) -/

def State.fabricOp (s : State) (k : Nat) : Option FabricOp := s.mem.fabric.find? (fun o => o.id == k)
def State.setFabric (s : State) (o : FabricOp) : State :=
  { s with mem := { s.mem with fabric := s.mem.fabric.map (fun x => if x.id == o.id then o else x) } }
/-- A group's store at a node is lost, or may be: its next FLUSH there says so (R33, R39). -/
def State.loseStore (s : State) (n gid : Nat) : State :=
  let x := s.node n
  s.setNode n { x with lost := if x.lost.contains gid then x.lost else x.lost ++ [gid] }

/-- A posted store has been acknowledged. -/
def State.endPosted (s : State) (o : FabricOp) : State :=
  let g := s.group o.gid
  let s := if g.status == .gone then s else s.setGroup o.gid { g with posted := g.posted - 1 }
  { s with mem := { s.mem with fabric := s.mem.fabric.filter (fun x => x.id != o.id) } }

/-- One lane at the node: refused, or performed on the node's current bytes. -/
def State.nodeLane (s : State) (o : FabricOp) (l : Nat × Nat × Nat × Nat) : State :=
  match s.fabricOp o.id with
  | none => s
  | some o =>
    let (lane, a, x, y) := l
    if s.nodeRefuses o.node a o.bytes then s.setFabric { o with refused := o.refused ||| Mask.one lane }
    else
      let s := s.noteNode o.gid o.pc o.node o.port a (o.kind != 0)
      let old := s.nodeN o.node a o.bytes
      match o.kind with
      | 0 => s.setFabric { o with got := o.got.set 0 lane old }
      | 1 => s.setNodeN o.node a (bytesOfNat o.bytes x)
      | _ =>
        let r := atomResult o.akind o.aop o.bytes old x y
        let s := match r.1 with | some v => s.setNodeN o.node a (bytesOfNat o.bytes v) | none => s
        (s.flagsOf o.gid r.2).setFabric { o with got := o.got.set 0 lane old }

/-- The access has been performed at its node, or failed there: a reply, or the acknowledgement of a store. A posted
store that could not be performed is lost (R33). -/
def State.endFabric (s : State) (o : FabricOp) : State :=
  match s.fabricOp o.id with
  | none => s
  | some o =>
    if o.kind ≠ 1 then s.setFabric { o with replied := true }
    else if o.failed = 0 then s.endPosted o
    else (s.endPosted o).loseStore o.node o.gid

/-- An earlier access of the group to the same node, a multicast store included, has not been performed (R32). -/
def State.fabricAhead (s : State) (o : FabricOp) : Bool :=
  s.mem.fabric.any (fun x => x.gid == o.gid && x.node == o.node && x.id < o.id && x.kind != 3 && !x.replied) ||
  s.eng.mcasts.any (fun m => m.gid == o.gid && m.node == o.node && m.op < o.id)

/-- A FLUSH's answer: a failure, or its count (R33, 18 R362). -/
def State.answerFlush (s : State) (o : FabricOp) (failed count : Nat) : State :=
  s.setFabric { o with replied := true, failed, got := ({} : FMap Nat).set 0 0 count }

/-- FLUSH to a node: every earlier store, atomic and multicast store has been performed; the node's filter forgets the
group's writes, which conflict no longer (R33, R34). -/
def State.flushNode (s : State) (o : FabricOp) : State :=
  let x := s.node o.node
  match s.linkFault o.node o.port with
  | some sub => s.answerFlush o sub 0
  | none =>
    if x.lost.contains o.gid then (s.setNode o.node { x with lost := x.lost.filter (· != o.gid) }).answerFlush o 5 0
    else
      if s.fabricAhead o then s
      else
        let g := s.group o.gid
        let keep (y : Access) : Bool := !(y.write && y.grid == g.grid && y.team == g.team && y.group == g.num)
        (s.setNode o.node { x with filter := x.filter.mapV [] (fun l => l.filter keep) }).answerFlush o 0 0

/-- FLUSH to a package: every earlier delivery has been written or dropped; the count is then reset. -/
def State.flushPkg (s : State) (o : FabricOp) : State :=
  let p := o.bytes
  let mine := s.eng.deliveries.filter (fun d => d.gid == o.gid && d.pkg == p && d.id < o.id)
  let far := p != s.pkgid
  let down := if far then s.linkFault o.node o.port else none
  let outside := far && !s.host.pod.contains p
  match down with
  | some sub => s.answerFlush o sub 0
  | none =>
    let s := if outside then mine.foldl (fun s d => (s.undelivered o.gid p).dropDelivery d.id) s else s
    if !outside && !mine.isEmpty then s
    else
      let g := s.group o.gid
      (s.setGroup o.gid { g with undelivered := g.undelivered.set 0 p 0 }).answerFlush o 0 (g.undelivered.get 0 p)

/-- FABRIC_LOAD_REPLY: an access reaches its node after the group's earlier ones there and is performed, or a FLUSH is
answered. A steered access waits for its site; a port that trains or holds sends nothing. -/
def execFabricLoadReply (k : Nat) (s : State) : Out :=
  match s.fabricOp k with
  | none => .next s
  | some o =>
    if o.replied || (s.portWaits o.port && !(o.kind == 3 && o.akind != 0 && o.bytes == s.pkgid)) then .next s
    else if o.kind = 3 then
      .next (if s.eng.ops.any (fun e => e.gid == o.gid && e.queue == o.aop && e.id < o.id) then s
        else if o.akind = 0 then s.flushNode o else s.flushPkg o)
    else if (s.gridOf o.gid).steered || s.fabricAhead o then .next s
    else
      match s.linkFault o.node o.port with
      | some sub => .next ((s.setFabric { o with failed := sub }).endFabric o)
      | none => .next ((o.lanes.foldl (fun s l => s.nodeLane o l) s).endFabric o)

/-! ## Deliveries (07 R143) -/

/-- DELIVERY_ARRIVE: delivery k of this package reaches the name agent, or one comes from another package. A steered
delivery within its grid waits for its site. -/
def execDeliveryArrive (k : Nat) (ext : Option RegDelivery) (s : State) : Out :=
  match ext with
  | some d =>
    let v := Lanes.make (fun l => d.data.getD l 0)
    let r := s.agentTake d.target 0 d.reg (2 ^ 40 + d.sender) 0 (fun _ => false) id v
    let s := r.2
    let (id, s) := s.fresh
    let x : Delivery := { id, gid := 2 ^ 40 + d.sender, target := d.target, reg := d.reg, data := v, pkg := s.pkgid, held := true, at_ := s.clock }
    .next (if r.1 then { s with eng := { s.eng with deliveries := s.eng.deliveries ++ [x] } } else s)
  | none =>
    match s.eng.deliveries.find? (fun d => d.id == k) with
    | none => .next s
    | some d =>
      let sited := (s.grid d.grid).steer.ops.any (fun o => o.kind == 5 && o.obj == k)
      .next (if sited || !s.deliveryReady d then s else s.performDelivery d)

end Sys2Proof.Machine
end

