-- ==== Sys2Proof/Machine/Eviction.lean ====
section
/-! DEFINITION. Eviction and restore (05 R87 to R89, 10 R198 to R200, 07 R143), placement of teams with the evictions
that it takes (05 R88), the end of draining (05 R90, 11 R213), and the abort of a grid (05 R76). -/

namespace Sys2Proof.Machine
open Sys2Proof

/-! ## The group image (R198) -/

/-- The wake condition as type, object and value (R87). -/
def State.wakeCode (s : State) (c : Cond) : Nat × Nat × Nat :=
  match c with
  | .bar n gen => (1, n, gen)
  | .barrierObj off => (2, off, 0)
  | .waitv va _ _ _ v => (3, va, v.toNat)
  | .waitlow k => (4, 0, k)
  | .qpop q => (5, q, 0)
  | .granule _ off fe => (6, off, fe)
  | .hold r => (7, r, 0)
  | .blocks k => (8, 0, k)
  | .storeEntry a => (9, a, 0)
  | .fabric ks => (10, ((s.mem.fabric.find? (fun o => ks.contains o.id)).map (·.node)).getD 0, 0)
  | .page _ ps => (11, ps.headD 0 * 65536, 0)
  | .nwait c v => (12, c, v)
  | _ => (0, 0, 0)

/-- A blocking point of R87. -/
def Cond.blocking : Cond → Bool
  | .bar _ _ | .barrierObj _ | .waitv _ _ _ _ _ | .waitlow _ | .qpop _ | .granule _ _ _ | .hold _ | .blocks _
  | .storeEntry _ | .fabric _ | .page _ _ | .nwait _ _ => true
  | _ => false

/-- Where a live lane is: its subgroup's PC, or its JOIN's. -/
def Group.pcOf (g : Group) (l : Nat) : Nat :=
  match g.subs.find? (fun x => x.lanes.has l) with
  | some x => x.pc
  | none => ((g.joining.find? (fun x => x.1.has l)).map (·.2)).getD 0

def Group.laneState (g : Group) (l : Nat) : Nat :=
  (if g.exited.has l then 1 else if g.joining.any (fun x => x.1.has l) then 2 else 0) + 4 * (g.joins.get [] l).length

/-- The join stack of a lane, bottom entry first. -/
def joinBytes (l : List (Nat × Mask)) : List Byte :=
  l.reverse.flatMap (fun e => bytesOfNat 8 e.1 ++ bytesOfMask e.2)

/-- The A-context (R198). -/
def State.actxBytes (s : State) (g : Group) : List Byte :=
  if !g.sliced then []
  else
    let count (q : Nat) : Nat := (g.queues.get [] q).length
    let fault := g.a.fault.getD {}
    bytesOfNat 8 g.a.pc ++ (List.range 16).flatMap (fun r => bytesOfNat 4 (g.a.regs.get 0 r).toNat) ++
      bytesOfNat 8 g.a.cut ++ bytesOfNat 1 g.a.slip ++
      (List.range 6).flatMap (fun q =>
        bytesOfNat 1 (g.a.heads.get 0 q) ++ bytesOfNat 1 ((g.a.heads.get 0 q + count q) % max 1 (s.qdepth g q)) ++
          bytesOfNat 1 (count q)) ++
      (match g.a.fault with
       | some t => bytesOfNat 1 t.cls ++ bytesOfNat 1 t.sub ++ bytesOfNat 3 0
       | none => bytesOfNat 5 0) ++
      bytesOfNat 8 (fault.recs.get {} fault.lanes.low).addr.toNat

/-- The matrix operation of the group that an eviction has split. -/
def State.splitOp (s : State) (gid : Nat) : Option EngOp := s.eng.ops.find? (fun o => o.gid == gid && o.isMma && o.split)

/-- A mask of register numbers. -/
def regMask (l : List Nat) : Nat := (uniq l).foldl (fun n r => n + 2 ^ r) 0
/-- The pending bits that remain (R129, R198). -/
def Group.pendingBytes (g : Group) : List Byte :=
  bytesOfNat 8 (regMask g.pendV) ++ bytesOfNat 8 (regMask g.pendS) ++ bytesOfNat 1 (regMask g.pendP) ++
    bytesOfNat 1 (regMask g.pendQ)
/-- Lanes of the parked access that have been performed (08 R152). -/
def Group.wakeDone (g : Group) : Mask :=
  match g.wake with
  | some w => ((g.subs.find? (fun x => x.lanes == w.lanes)).map (·.done)).getD 0
  | none => 0
/-- The accumulator file of the group's quadrant: its team's, while that is out. -/
def State.fileOf (s : State) (g : Group) : FMap Word :=
  match (s.team g.teamKey).accs.find? (fun a => a.1 == g.num % 4) with
  | some a => a.2.acc
  | none => (s.quad g.quadKey).acc
/-- The four tiles of a file, or zeros without a gang. -/
def tileBytes (gang : Nat) (file : FMap Word) : List Byte :=
  if gang = 0 then []
  else (List.range 4).flatMap (fun t => (List.range 32).flatMap (fun h => (List.range 128).flatMap (fun n =>
    bytesOfNat 4 (file.get 0 (accKey t h n)).toNat)))

/-- The image's segments, by rising offset. -/
def State.imageParts (s : State) (gid : Nat) (team : Nat) : List (Nat × List Byte) :=
  let g := s.group gid
  let gr := s.grid g.grid
  let gang := g.spec.ganginfo / 2 ^ 20 % 2
  let me : State := { s with cur := { s.cur with gid, aslice := false } }
  let w := g.wake.getD {}
  let k := s.wakeCode w.cond
  [ (0, bytesOfNat 4 0x47493950 ++ bytesOfNat 4 g.spec.name ++ bytesOfNat 3 g.team ++ bytesOfNat 1 g.num ++
        bytesOfNat 4 gr.launch.gridid ++
        bytesOfNat 1 (g.sliced.toNat + 2 * gang + (if team = 0 then 0 else 4)) ++ bytesOfNat 1 g.budget ++
        bytesOfNat 1 gr.launch.mode ++ bytesOfNat 5 0 ++ bytesOfNat 8 (if gr.steered then g.lcut else g.cut) ++ bytesOfNat 8 team ++
        bytesOfNat 8 g.exitHall.toNat ++ bytesOfNat 8 g.issued),
    (0x100, (List.range 128).flatMap (fun l => bytesOfNat 8 (g.pcOf l))),
    (0x500, (List.range 128).flatMap (fun l => bytesOfNat 1 (g.laneState l))),
    (0x580, (List.range 7).flatMap (fun p => bytesOfMask (g.pred p)) ++
        bytesOfNat 1 ((List.range 7).foldl (fun n q => n + (g.qpred q).toNat * 2 ^ q) 0)),
    (0x600, (List.range 64).flatMap (fun r => bytesOfNat 4 (g.sreg r).toNat)),
    (0x700, (List.range 23).flatMap (fun n => bytesOfNat 8 (me.special n))),
    (0x800, g.pendingBytes),
    (0x840, (List.range 64).flatMap (fun r => bytesOfNat 1 (g.holds.get 0 r))),
    (0x880, bytesOfNat 8 k.1 ++ bytesOfNat 8 k.2.1 ++ bytesOfNat 8 k.2.2 ++ bytesOfNat 8 0 ++ bytesOfMask g.wakeDone),
    (0x8C0, match s.splitOp gid with
      | some o => contBlock o o.kdone 0
      | none => []),
    (0x900, s.actxBytes g),
    (0xA00, (List.range 128).flatMap (fun l => bytesOfNat 8 (g.hall.get 0 l).toNat)) ] ++
  (List.range 128).map (fun l => (0x1000 + 192 * l, joinBytes (g.joins.get [] l))) ++
  [ (0x7000, (List.range 64).flatMap (fun r => (List.range 128).flatMap (fun l => bytesOfNat 4 ((g.vreg r).get l).toNat))),
    (0x10000, tileBytes gang (s.fileOf g)) ]

/-- Bytes of an image: the nonzero ones of its segments. -/
def imageCells (l : List (Nat × List Byte)) : FMap Byte := ⟨l.flatMap (fun p => (FMap.ofBytes p.1 p.2).cells)⟩

/-- An internal write of n bytes of an image at a physical address: it keeps no superseded version, and the lines that it
writes whole have no error any longer (01 R25). -/
def State.placeImage (s : State) (pa n : Nat) (m : FMap Byte) : State :=
  let whole (k : Nat) : Bool := decide (pa ≤ 64 * k ∧ 64 * k + 64 ≤ pa + n)
  let x := s.mem
  let s : State := { s with mem := { x with
    vers := x.vers.clear pa n, base := m.cells.foldl (fun b c => b.set 0 (pa + c.1) c.2) (x.base.clear pa n),
    badLines := x.badLines.filter (fun k => !whole k), badTable := x.badTable.mapV [] (fun l => l.filter (fun k => !whole k)) } }
  s.countLines 0 pa n 1

/-- A 64 KiB aligned place in region B for `n` units of 64 KiB: a free value (log 24). -/
def State.imagePlace (s : State) (n : Nat) : Nat × State :=
  let r := s.drawNat
  (0x8000000000 + r.1 % (2 ^ 20 - n) * 65536, r.2)

def State.writeImage (s : State) (gid : Nat) : State :=
  let g := s.group gid
  let r := if g.image = 0 then s.imagePlace 1 else (g.image, s)
  let s := r.2.setGroup gid { g with image := r.1 }
  s.placeImage r.1 0x20000 (imageCells (s.imageParts gid (s.team g.teamKey).image))

/-! ## The team image (R199) -/

/-- Queue storage of a sliced group (07 R134). -/
def State.queueStore (s : State) (g : Group) : List Byte :=
  (List.range 6).flatMap (fun q =>
    let l := g.queues.get [] q
    let d := s.qdepth g q
    (List.range d).flatMap (fun k =>
      let e := l.getD ((k + d - g.a.heads.get 0 q) % d) {}
      (List.range 128).flatMap (fun n => bytesOfNat 4 (e.data.get n).toNat) ++ (if q < 4 then bytesOfMask e.mask else []))) ++
  bytesOfNat ((s.grid g.grid).launch.queueBytes -
    (528 * (s.grid g.grid).launch.oqSum + 512 * (s.qdepth g 4 + s.qdepth g 5))) 0

def State.teamImage (s : State) (tk : Nat) : List (Nat × List Byte) :=
  let t := s.team tk
  let l := (s.grid t.grid).launch
  let fulls := (List.range (l.tmem / 128)).flatMap (fun k =>
    bytesOfNat 1 ((List.range 8).foldl (fun n b => n + (t.full.get false (8 * k + b)).toNat * 2 ^ b) 0))
  let sliced := (t.gids.map s.group).filter (fun g => g.status != .gone && g.sliced)
  [ (0, bytesOfNat 4 l.tmem ++ bytesOfNat 1 l.groups), (0x40, t.tmem.getMany 0 0 l.tmem), (0x40 + l.tmem, fulls),
    (0x40 + l.tmem + l.tmem / 128, sliced.flatMap s.queueStore) ]

/-! ## Evicting (R87, R88, R129) -/

/-- A subgroup whose commit, atomic or site operation is under way (08 R162). -/
def Sub.committing (x : Sub) : Bool :=
  match x.wait with
  | .commit _ | .writes _ | .homeOp _ | .site => true
  | _ => false

/-- The group waits at a blocking point, the debugger does not hold it, and nothing that eviction waits for is pending
(R87, R129, 08 R162; log 25). -/
def State.canEvict (s : State) (gid : Nat) : Bool :=
  let g := s.group gid
  g.status == .running && !g.halted && g.longs.all (·.fabric) && !(g.subs.any (·.committing)) && g.trap.isNone && g.parked.isEmpty &&
    (match g.wake with | some w => w.cond.blocking | none => false) &&
    !(s.eng.ops.any (fun o => o.gid == gid && o.latched)) &&
    !(s.mem.fabric.any (fun o => o.gid == gid && o.kind == 2)) &&
    (List.range 4).all (fun q => (g.queues.get [] q).all (·.filled))

/-- No command of the team uses its memory or its accumulators, but for split matrix operations. -/
def State.teamQuiet (s : State) (tk : Nat) : Bool :=
  !(s.eng.ops.any (fun o => teamKey o.grid o.team == tk &&
    (o.kind == .copy || o.kind == .gather || o.kind == .digest || o.obj.isSome || (o.isAcc && !(o.isMma && o.started)))))

/-- The groups of a team that have not left their slots or images. -/
def State.teamGids (s : State) (tk : Nat) : List Nat := (s.team tk).gids.filter (fun k => (s.group k).status != .gone)

/-- The matrix operations under way of which the group is a member are split (R201). -/
def State.splitFor (s : State) (gid : Nat) : State :=
  (s.eng.ops.filter (fun o => o.gid == gid && o.isMma && o.started && !o.split)).foldl (fun s o =>
    (s.membersOf o).foldl (fun s m => s.setOp { m with split := true }) s) s

/-- A wait whose request is made anew at restore (R87, R200). -/
def Cond.again : Cond → Bool
  | .fabric _ | .granule _ _ _ => true
  | _ => false

/-- The budget that the group holds once it is restored: that of an XACQ, or of CALLI's implicit one, completes then by
acquiring the blocks that its wake value names (R200). -/
def Group.wantBudget (g : Group) : Nat :=
  match g.wake with
  | some w => (match w.cond with | .blocks k => max k g.budget | _ => g.budget)
  | none => g.budget

/-- The group leaves its core for its image. -/
def State.evict (s : State) (gid : Nat) : State :=
  let s := (s.splitFor gid).writeImage gid
  let g := s.group gid
  let redo := match g.wake with | some w => w.cond.again | none => false
  let s := (s.releaseCore gid).setGroup gid { g with
    status := .evicted,
    wake := if redo then g.wake.map (fun w => { w with cond := .none }) else g.wake,
    subs := if redo then g.subs.map (fun x => if x.wait.again then { x with wait := .none } else x) else g.subs }
  s.setMem { s.mem with fabric := s.mem.fabric.filter (fun o => !(o.gid == gid && (o.kind == 0 || o.kind == 3))),
                        feWaits := s.mem.feWaits.filter (fun w => w.gid != gid) }

/-- Every group of the team is evicted: its memory goes into a team image, its accumulator files with its groups'
images (R199, 18 R356). -/
def State.teamOut (s : State) (tk : Nat) : State :=
  let l := s.teamGids tk
  if !(l.all (fun k => (s.group k).status == .evicted)) then s
  else
    let t := s.team tk
    let r := s.imagePlace 5
    let ck := coreKey t.die t.core
    let accs := ((List.range 4).filter (fun q => (s.quad (ck * 4 + q)).holder == some tk)).map (fun q =>
      (q, s.quad (ck * 4 + q)))
    let s := (r.2.setTeam tk { t with out := true, image := r.1, accs }).releaseAcc tk
    let s := s.placeImage r.1 0x50000 (imageCells (s.teamImage tk))
    l.foldl (fun s k =>
      let g := s.group k
      let gang := g.spec.ganginfo / 2 ^ 20 % 2
      let s := s.placeImage (g.image + 16) 1 (FMap.ofBytes 0 (bytesOfNat 1 (g.sliced.toNat + 2 * gang + 4)))
      let s := s.placeImage (g.image + 32) 8 (FMap.ofBytes 0 (bytesOfNat 8 r.1))
      if gang = 0 then s else s.placeImage (g.image + 0x10000) 0x10000 (FMap.ofBytes 0 (tileBytes gang (s.fileOf g)))) s

/-- MGMT_EVICT (R88): a group at a blocking point; the last group of its team takes the team's memory with it. -/
def execMgmtEvict (g : Nat) (s : State) : Out :=
  let tk := (s.group g).teamKey
  let last := (s.teamGids tk).all (fun k => k == g || (s.group k).status == .evicted)
  .next (if !s.canEvict g || (last && !s.teamQuiet tk) then s else (s.evict g).teamOut tk)

/-! ## Restoring (R89, R200) -/

/-- The group takes up a slot: it is placed anew, which arms its trace (11 R214, 17 R321); its commands follow it, and the
blocks that it waited for are its own. -/
def State.settle (s : State) (gid die core slot : Nat) (st : GStatus) : State :=
  let s := s.takeBlocks gid (s.group gid).wantBudget
  let g := { s.group gid with die, core, slot, status := st, placedAt := s.clock }
  let g := { g with traced := s.armed g, subs := g.subs.map (fun x => { x with since := s.clock }) }
  let s := s.setGroup gid (if st == .running then { g with image := 0 } else g)
  { s with eng := { s.eng with ops := s.eng.ops.map (fun o => if o.gid == gid then { o with die, core } else o) } }

/-- Deliveries that the agent held for a migrating group are written in the order of their arrival (07 R143). -/
def State.heldDeliveries (s : State) : State :=
  (s.eng.deliveries.filter (·.held)).foldl (fun s d =>
    if d.gid < 2 ^ 40 then s.performDelivery d
    else
      let r := s.agentTake d.target 0 d.reg d.gid 0 (fun _ => false) id d.data
      if r.1 then r.2 else r.2.dropDelivery d.id) s

/-- The team's accumulator files return to the quadrants of its core. -/
def State.returnAccs (s : State) (tk die core : Nat) : State :=
  let t := s.team tk
  let s := t.accs.foldl (fun s a =>
    let k := coreKey die core * 4 + a.1
    s.setQuad k { a.2 with duty := (s.quad k).duty }) s
  s.setTeam tk { t with accs := [] }

/-- Slots for the groups of an evicted team with their budgets (R89), where the core admits the team (R80). -/
def State.returnSlots (s : State) (tk die core : Nat) : Option (List Nat) :=
  let t := s.team tk
  let l := (s.grid t.grid).launch
  match s.admits l die core with
  | none => none
  | some slots =>
    let ck := coreKey die core
    let fits := (List.range 16).all (fun p =>
      ((s.teamGids tk).filter (fun k => slots.getD (s.group k).num 0 / 4 == p)).foldl (fun n k => n + (s.group k).wantBudget) 0
        ≤ s.poolFree (ck * 16 + p))
    let files := t.accs.all (fun a => (s.quad (ck * 4 + a.1)).holder.isNone)
    if fits && files then some slots else none

/-- A ready launch that goes ahead of a returning team: its priority is higher and some core admits it (R89). -/
def State.launchFirst (s : State) (prio : Nat) : Bool :=
  (s.queueOrder).any (fun j => prio < (s.grid j).launch.prio && (s.lowestCore (s.grid j).launch).isSome)

/-- The migration of a team ends: its groups run, and held deliveries are written. -/
def State.endMigration (s : State) (tk : Nat) : State :=
  ((s.teamGids tk).foldl (fun s k =>
    let g := s.group k
    s.settle k g.die g.core g.slot .running) s).heldDeliveries

/-- GROUP_RESTORE (R89, R200). A group whose team memory is resident returns to its core, to a free slot of its quadrant.
A team evicted whole returns to a core that admits it; another core than its own makes it a migration, which a second
GROUP_RESTORE ends. -/
def execGroupRestore (gid die core slot : Nat) (s : State) : Out :=
  let g := s.group gid
  let tk := g.teamKey
  let t := s.team tk
  match g.status with
  | .migrating => .next (s.endMigration tk)
  | .evicted =>
    if !t.out then
      let taken := (s.resident g.coreKey).any (fun k => (s.group k).slot == slot)
      .next (if die = g.die && core = g.core && slot < 64 && slot / 16 = g.num % 4 && !taken &&
          g.wantBudget ≤ s.poolFree (partKey die core slot)
        then s.settle gid die core slot .running else s)
    else if 8 ≤ die || 256 ≤ core || s.launchFirst (s.grid g.grid).launch.prio then .next s
    else
      match s.returnSlots tk die core with
      | none => .next s
      | some slots =>
        let st : GStatus := if die = t.die && core = t.core then .running else .migrating
        let s := (s.setTeam tk { t with out := false, image := 0, die, core }).returnAccs tk die core
        .next ((s.teamGids tk).foldl (fun s k => s.settle k die core (slots.getD (s.group k).num 0) st) s)
  | _ => .next s

/-! ## Placement (R79, R80, R88) -/

/-- Whole teams of a core that may be evicted for a launch of priority `prio`: the next one to go. -/
def State.victim (s : State) (ck prio : Nat) : Option Nat :=
  let age (t : Team) : Nat := t.gids.foldl (fun n k => max n (s.group k).placedAt) 0
  let l := (s.teamsOn ck).filter (fun t =>
    let tk := teamKey t.grid t.idx
    (s.grid t.grid).launch.prio < prio && s.teamQuiet tk && !(s.teamGids tk).isEmpty &&
      (s.teamGids tk).all (fun k => s.canEvict k || (s.group k).status == .evicted))
  match l with
  | [] => none
  | x :: r =>
    let b := r.foldl (fun (b : Team) y =>
      let p (t : Team) : Nat := (s.grid t.grid).launch.prio
      if p y < p b || (p y == p b && age b < age y) then y else b) x
    some (teamKey b.grid b.idx)

/-- Evicts teams of a core until it admits the launch; at most `n`. -/
def State.makeRoom (s : State) (l : Launch) (die core : Nat) : Nat → Option (List Nat × State)
  | 0 => none
  | n + 1 =>
    match s.admits l die core with
    | some slots => some (slots, s)
    | none =>
      match s.victim (coreKey die core) l.prio with
      | none => none
      | some tk => (((s.teamGids tk).foldl (fun s k => if (s.group k).status == .evicted then s else s.evict k) s).teamOut tk).makeRoom l die core n

/-- TEAM_DISPATCH: the next team of grid k is placed on this core, if it is its turn (R79, R80). A steered grid's
first teams are placed together (R375); its later ones at the end of a round. Where no core admits the team and its
priority is above every team's of this core, teams of the core are evicted for it (R88). -/
def execTeamDispatch (k die core : Nat) (s : State) : Out :=
  let gr := s.grid k
  let l := gr.launch
  let before := (s.queueOrder).takeWhile (fun j => j != k)
  let turn := (s.queueOrder).contains k && before.all (fun j => (s.lowestCore (s.grid j).launch).isNone || (s.grid j).steered && (s.grid j).started)
    && !s.returningFirst l.prio
  if !turn || 8 ≤ die || 256 ≤ core then .next s
  else if gr.steered && gr.started then .next s
  else
    match s.lowestCore l with
    | some low =>
      if gr.steered then .next (s.placeWhile k l.teams)
      else
        match s.admits l die core with
        | none => .next s
        | some slots => .next (if gr.det && (low.1, low.2.1) != (die, core) then s else s.placeTeam k die core slots)
    | none =>
      if (s.teamsOn (coreKey die core)).any (fun t => l.prio ≤ (s.grid t.grid).launch.prio) then .next s
      else
        match s.makeRoom l die core 65 with
        | none => .next s
        | some (slots, s) => .next (if gr.steered then s.placeWhile k l.teams else s.placeTeam k die core slots)

/-! ## The end of draining (R90, 11 R213) -/

/-- A command that a draining group waits for. -/
def EngOp.drains (o : EngOp) : Bool := !(o.isMma || o.kind == .accz)

/-- Nothing keeps a draining group. -/
def State.drained (s : State) (gid : Nat) : Bool :=
  let g := s.group gid
  g.status == .draining && !g.held && !g.halted && g.posted == 0 && !(s.eng.ops.any (fun o => o.gid == gid && o.drains))

/-- A drained group leaves: its slot is freed and, if it has executed EXIT, its exit record is written; the last group
retires its team. -/
def State.drainEnd (s : State) (gid : Nat) : State :=
  let g := s.group gid
  let tk := g.teamKey
  let s := if g.stopped then s else s.ringPut g.die exitRing
    (bytesOfNat 8 g.exitHall.toNat ++ bytesOfNat 4 g.spec.name ++ bytesOfNat 3 g.team ++ bytesOfNat 1 g.num ++
      bytesOfNat 4 (s.grid g.grid).launch.gridid ++ bytesOfNat 4 g.retired ++ bytesOfNat 8 g.exitAt)
  let s := s.freeGroup gid
  if (s.teamGids tk).isEmpty then s.retireTeam tk else s

/-- GROUP_DRAIN_END: the group leaves once nothing keeps it; one of a grid that stops starts to drain at the end of its
instruction (05 R76). -/
def execGroupDrainEnd (gid : Nat) (s : State) : Out :=
  let g := s.group gid
  .next (if s.drained gid then s.drainEnd gid
    else if (s.grid g.grid).stopping && g.status == .running then s.stopGroup gid else s)

/-! ## Abort (R76) -/

/-- GRID_ABORT: buffers that the grid posted and that are not filled are withdrawn; the grid stops with status 3. -/
def execGridAbort (k : Nat) (s : State) : Out :=
  let posts := (s.net.bufs.filter (fun b => (match s.engOp b.op with | some o => o.grid == k | none => false))).map (·.op)
  .next ((posts.foldl (fun s b => s.endNet b none) s).stopGrid k 3)

end Sys2Proof.Machine
end

