-- ==== Sys2Proof/Machine/Waitfor.lean ====
section
/-! DEFINITION. The wait-for graph and its deadlock reports (11 R216, R217), and the conditions of waits (05 R87). -/

namespace Sys2Proof.Machine
open Sys2Proof

/-! ## When a wait is over -/

/-- The group's site operations that keep it parked: all but deliveries and fabric stores (06 R101). -/
def State.siteParked (s : State) (gid : Nat) : Bool :=
  (s.gridOf gid).steer.ops.any (fun o => o.gid == gid && o.cls != 4 &&
    !(o.kind == 6 && s.mem.fabric.any (fun f => f.id == o.obj && f.kind == 1)))

/-- The condition holds for group `gid`. In a steered grid WAITV and WAITLOW are tested again only by the round's end,
which then clears them (17 R326, R328). -/
def State.holds (s : State) (gid : Nat) (c : Cond) : Bool :=
  let g := s.group gid
  let steered := (s.grid g.grid).steered
  match c with
  | .none => true
  | .bar n gen => ((s.team g.teamKey).bars.get {} n).gen != gen
  | .barrierObj off => s.objDone g.teamKey off
  | .waitv _ pa c ty v => !steered && s.waitvOk pa c ty v
  | .waitlow k => !steered && s.lowRetired g.grid k
  | .qpop q => (match g.queue q with | e :: _ => e.filled | [] => g.a.fault.isSome)
  | .granule _ _ _ => !(s.mem.feWaits.any (fun w => w.gid == gid))
  | .hold r => g.holds.get 0 r == 0
  | .blocks k => s.blocksOk gid k
  | .storeEntry _ => s.entryFor gid
  | .fabric ks => !(s.mem.fabric.any (fun o => ks.contains o.id && !o.replied))
  | .page asid ps => !(s.xlat.reqs.any (fun r => r.asid == asid && ps.contains r.page))
  | .nwait c v => (s.nwaitAnswer c v).isSome
  | .writes k => (match s.commitOf k with | some x => !s.commitWaits x || s.commitStuck x | none => true)
  | .commit k => (s.commitOf k).isNone
  | .homeOp k => (match s.homeOp k with | some o => o.done | none => true)
  | .room q => !s.qFull g q || g.a.fault.isSome
  | .entry q => !(g.queue q).isEmpty
  | .slip q => g.slip < g.a.slip && !s.qFull g q
  | .slotIdle n => !s.slotRuns g.coreKey n
  | .slotReady n => !s.slotLoads g.coreKey n
  | .matrixIdle => !s.matrixBusy gid
  | .queues m b => !s.queuesBusy gid m b
  | .latch k => (match s.engOp k with | some o => !o.latched | none => true)
  | .accFile qk tk => (match (s.quad qk).holder with | some t => t == tk | none => true)
  | .reshards va => !s.reshardsBusy gid va
  | .shoots => (s.eng.ops.filter (fun o => o.kind == .shoot)).length < 16
  | .walker die => (s.xlat.walks.filter (fun w => w.die == die && w.inFlight)).length < 1024
  | .idle => false
  | .site => !s.siteParked gid

/-! ## The graph (R216) -/

/-- A slice of a group: its C-slice, or its A-context. -/
abbrev WNode := Nat × Bool

/-- What an edge of the graph leads to: a slice of a group, a launch, or an external agent. -/
inductive WTarget where
  | slice (n : WNode)
  | launch (grid : Nat)
  | cbudget
  | monitor
  | debugger
  /-- A granule, a barrier object, a word or a counter: no edge leads from it to a group. -/
  | object
  | unknownSender
  deriving DecidableEq, Repr

/-- Groups of a list of teams. -/
def State.groupsOfTeams (s : State) (l : List Nat) : List Nat := l.flatMap s.teamGids

/-- The open cuts that slices and launches hold (08 R161). -/
def State.heldCuts (s : State) : List (Nat × WTarget) :=
  (s.groups.cells.filter (fun c => c.2.status != .gone && c.2.status != .draining)).flatMap (fun c =>
    (c.2.cut, .slice (c.1, false)) :: (if c.2.sliced then [(c.2.a.cut, .slice (c.1, true))] else []) ++
      (c.2.queues.get [] 5).map (fun e => (e.cut, .slice (c.1, true)))) ++
  (s.grids.cells.filter (fun c => c.2.status == .running && c.2.started && c.2.next < c.2.launch.teams)).map
    (fun c => (c.2.cut, .launch c.1))

/-- TIMEs of the successors of the versions that R161 keeps at a home. -/
def State.successorsAt (s : State) (home : Nat × Nat) : List Nat :=
  (s.mem.vers.cells.filter (fun c => homeOf c.1 == home)).flatMap (fun c => (c.2.map Ver.time).filter (fun t => s.mem.unpinned < t))

/-- Who holds the least open cut that keeps a version at a home (08 R162). -/
def State.leastCut (s : State) (home : Nat × Nat) : Option WTarget :=
  let ts := s.successorsAt home
  match s.heldCuts.filter (fun c => ts.any (fun t => c.1 < t)) with
  | [] => none
  | x :: l => some (l.foldl (fun b y => if y.1 < b.1 then y else b) x).2

/-- The homes that have no retention for these bytes. -/
def State.fullHomes (s : State) (l : List (Nat × Byte)) : List (Nat × Nat) :=
  (uniq (l.map (fun c => homeOf c.1))).filter (fun h => s.mem.share * 256 < s.retained h + s.needed h l)

/-- Edges that a wait of group `gid` gives: a code of R215 and what is waited for. -/
def State.waitEdges (s : State) (gid : Nat) (c : Cond) : List (Nat × WTarget) :=
  let g := s.group gid
  let slices (code : Nat) (l : List Nat) : List (Nat × WTarget) := l.map (fun k => (code, .slice (k, false)))
  match c with
  | .bar n gen =>
    let t := s.team g.teamKey
    let b := t.bars.get {} n
    if b.gen != gen then []
    else slices 1 ((s.teamGids g.teamKey).filter (fun k => !b.arrived.contains k && (s.group k).status != .draining))
  | .barrierObj _ => [(2, .object)]
  | .waitv _ _ _ _ _ => [(3, .object)]
  | .waitlow k => slices 4 (s.groupsOfTeams ((s.teams.cells.filter (fun t => t.2.grid == g.grid && t.2.live && t.2.idx ≤ k)).map (·.1)))
  | .qpop q => if (g.queue q).isEmpty then [(5, .slice (gid, true))] else []
  | .room _ => [(5, .slice (gid, true))]
  | .granule _ _ _ => [(6, .object)]
  | .hold r => if g.holds.get 0 r = 0 then [] else if g.senders.isEmpty then [(7, .unknownSender)] else slices 7 g.senders
  | .blocks _ => slices 8 ((s.resident g.coreKey).filter (fun k => (s.group k).partKey == g.partKey && (s.group k).budget ≠ 0))
  | .nwait _ _ => [(0xC, .object)]
  | .commit k =>
    (match s.commitOf k with
     | some x => (s.fullHomes x.cells).filterMap (fun h => (s.leastCut h).map (fun t => (0xD, t)))
     | none => [])
  | _ => []

/-- A live lane of a join mask is trapped, or waits at another JOIN (07 R122). -/
def Group.joinStuck (g : Group) : Bool :=
  g.joining.any (fun x => x.1.list.any (fun l =>
    match g.joins.get [] l with
    | (_, m) :: _ =>
      let left := m.diff (g.waitingAt x.2 ||| g.exited)
      let away := g.joining.foldl (fun a y => if y.2 == x.2 then a else a ||| y.1) (0 : Mask)
      let caught := (g.trap.toList ++ g.parked).foldl (fun a t => a ||| t.lanes) (0 : Mask)
      (left &&& (away ||| caught)) != 0
    | [] => false))

/-- Edges of a slice, by code and then group: its waits, a frozen core (04 R70) and a halt (10 R208). -/
def State.edges (s : State) (n : WNode) : List (Nat × WTarget) :=
  let g := s.group n.1
  let ext := (if s.isFrozen g.coreKey then [(0xF, .monitor)] else []) ++ (if g.halted then [(0xF, .debugger)] else [])
  if n.2 then
    (match g.a.wait with
     | .entry _ | .slip _ => if s.holds n.1 g.a.wait then [] else [(5, .slice (n.1, false))]
     | _ => []) ++ ext
  else
    let w := match g.wake with | some w => if s.holds n.1 w.cond then [] else s.waitEdges n.1 w.cond | none => []
    let i := (g.subs.filter (fun x => !s.holds n.1 x.wait && (match x.wait with | .room _ | .commit _ => true | _ => false))).flatMap
      (fun x => s.waitEdges n.1 x.wait)
    uniq (w ++ i ++ (if g.joinStuck then [(0xE, .slice n)] else []) ++ ext)

/-- Edges of a launch: to CBUDGET, where a team that is still to be placed fits no empty core's budget any longer (05
R83). -/
def State.launchEdges (s : State) (k : Nat) : List (Nat × WTarget) :=
  let gr := s.grid k
  let l := gr.launch
  if (gr.status == .stored || gr.status == .running) && !gr.stopping && gr.next < l.teams && decide (s.maxBudget < l.groups * l.weight)
  then [(0, .cbudget)] else []

/-- The edges of a slice to slices, one for each. -/
def State.sliceEdges (s : State) (n : WNode) : List (Nat × WNode) :=
  ((s.edges n).filterMap (fun e => match e.2 with | .slice m => some (e.1, m) | _ => none)).foldl
    (fun l e => if l.any (fun x => x.2 == e.2) then l else l ++ [e]) []

/-! ## Cycles (R216, R217) -/

/-- Place of a group, by which a cycle's first node is chosen. -/
def State.placeKey (s : State) (gid : Nat) : Nat := let g := s.group gid; g.coreKey * 64 + g.slot

/-- The paths from `n` back to `start`, with the edge codes, over nodes not yet on them and not before `start`. -/
def State.cyclesFrom (s : State) (start : WNode) (low : Nat) : Nat → WNode → List WNode → List (List (WNode × Nat))
  | 0, _, _ => []
  | fuel + 1, n, seen =>
    (s.sliceEdges n).flatMap (fun e =>
      if e.2 == start then [[(n, e.1)]]
      else if seen.contains e.2 || s.placeKey e.2.1 < low then []
      else (s.cyclesFrom start low fuel e.2 (e.2 :: seen)).map (fun r => (n, e.1) :: r))

/-- The cycles of the graph whose nodes are all groups, each from its first node. -/
def State.cycles (s : State) : List (List (WNode × Nat)) :=
  s.gids.flatMap (fun k => s.cyclesFrom (k, false) (s.placeKey k) (2 * s.gids.length + 1) (k, false) [(k, false)])

/-- The 64 bytes of a report. A cycle of one node is the group and itself. -/
def State.reportBytes (s : State) (c : List (WNode × Nat)) : List Byte :=
  let c := match c with | [x] => [x, x] | l => l
  bytesOfNat 8 s.clock ++ bytesOfNat 1 (min c.length 8) ++ bytesOfNat 1 (if 8 < c.length then 1 else 0) ++ bytesOfNat 6 0 ++
    (c.take 8).flatMap (fun x =>
      let g := s.group x.1.1
      bytesOfNat 1 x.2 ++ bytesOfNat 1 g.core ++ bytesOfNat 1 g.slot ++ bytesOfNat 1 g.die ++ bytesOfNat 2 g.team)

def dlcount : Nat := obsBase 0 + 0x200

/-- Writes a report to its slot of die 0's block, counts it, and raises vector 0. -/
def State.report (s : State) (c : List (WNode × Nat)) : State :=
  let m := s.reg dlcount
  let l := s.reportBytes c ++ bytesOfNat 64 0
  let s := (List.range 8).foldl (fun s k =>
    s.setReg (obsBase 0 + 0x1000 + 64 * (m % 16) + 8 * k) (natOfBytes ((l.drop (8 * k)).take 8))) s
  (s.setReg dlcount ((m + 1) % 2 ^ 64)).msix 0

/-- WAITFOR_BUILD: a cycle whose RETIRED counts have not changed since the previous build is reported once. -/
def execWaitforBuild (s : State) : Out :=
  let still (c : List (WNode × Nat)) : Bool := c.all (fun x =>
    s.host.retiredThen.get 0 x.1.1 == (s.group x.1.1).retired + 1)
  let dead := s.cycles.filter still
  let new := dead.filter (fun c => !s.host.deadlocks.contains (c.map (·.1)))
  let s := new.foldl (fun s c => s.report c) s
  .next { s with host := { s.host with
    retiredThen := ⟨s.gids.map (fun k => (k, (s.group k).retired + 1))⟩,
    deadlocks := dead.map (fun c => c.map (·.1)) } }

end Sys2Proof.Machine
end

