-- ==== Sys2Proof/Machine/Steering.lean ====
section
/-! DEFINITION. The choice sequencer of a steered grid: quiescence, sites, picks and rounds (06 R101 to R111, 17 R325,
20 R375 to R377), and the snapshots of an Assay run (06 R112 to R115, 21 R379). -/

namespace Sys2Proof.Machine
open Sys2Proof

/-! ## Quiescence (R102) -/

/-- The group is parked at a site, blocked at a blocking point whose condition does not hold, or has exited and has still
to drain (R102); it holds no trap, held or waiting (10 R195). A group whose slot is about to be freed is waited for. -/
def State.groupQuiet (s : State) (gid : Nat) : Bool :=
  let g := s.group gid
  if g.status == .draining then !s.drained gid
  else if g.trap.isSome || !g.parked.isEmpty then false
  else if s.siteParked gid then true
  else
    match g.wake with
    | some w => !s.holds gid w.cond && w.cond.blocking
    | none => g.subs.isEmpty && !g.joining.isEmpty

/-- A page-in of the grid is in flight: one that a group waits for, or one of its address space that a pending
operation needs. -/
def State.pagingRound (s : State) (k : Nat) : Bool :=
  s.xlat.reqs.any (fun r => r.asid == (s.grid k).launch.asid)

/-- Every group is quiet, and no engine command (18 R348) nor page-in of the grid is in flight. -/
def State.quiescent (s : State) (k : Nat) : Bool :=
  (s.gridGids k).all (fun g => s.groupQuiet g && !(s.group g).halted && !s.isFrozen (s.group g).coreKey) &&
    !(s.eng.ops.any (fun o => o.grid == k)) && !s.pagingRound k

/-! ## Sites (R101, R105, R107) -/

/-- A `.fc` waiter whose granule is full, as a site operation: key space, then team index or die, then offset. -/
def FeWait.site (w : FeWait) : SiteOp :=
  { id := w.id, cls := 3, key := w.space * 2 ^ 60 + w.place % 2 ^ 24 * 2 ^ 30 + w.off / 16 * 16, gid := w.gid, lane := w.lane,
    kind := 4, obj := w.id, issue := w.issue, commutes := false }

/-- Pending operations of grid k. -/
def State.siteOps (s : State) (k : Nat) : List SiteOp :=
  (s.grid k).steer.ops ++
    (s.mem.feWaits.filter (fun w => w.fc && (s.group w.gid).grid == k && s.isFull w.space w.place w.off)).map FeWait.site

/-- The sites, by class and then key. -/
def State.sites (s : State) (k : Nat) : List (Nat × Nat) :=
  FMap.sortBy (fun x => x.1 * 2 ^ 80 + x.2) (uniq ((s.siteOps k).map (fun o => (o.cls, o.key))))

/-- Issuer key: team, group in team, lane, issue count. -/
def State.issuerKey (s : State) (o : SiteOp) : Nat :=
  let g := s.group o.gid
  ((g.team * 16 + g.num) * 128 + o.lane) * 2 ^ 64 + o.issue % 2 ^ 64

/-- The head of each group's chain, in canonical order. -/
def State.heads (s : State) (l : List SiteOp) : List SiteOp :=
  FMap.sortBy s.issuerKey ((uniq (l.map (·.gid))).filterMap (fun k => l.find? (fun o => o.gid == k)))

/-! ## Whether an operation can be performed now (R162, 09 R180) -/

/-- Enters a page-in request for a page of a pending operation that is no longer resident. -/
def State.askPages (s : State) (gid : Nat) (vas : List Nat) : Bool × State :=
  let l := (s.gridOf gid).launch
  let away := (uniq (vas.map pageOf)).filter (fun p =>
    match s.walk l.root (p * 65536) with | .leaf e _ _ => pteRes e != 0 | .bad _ => false)
  (away.isEmpty, away.foldl (fun s p => s.pageIn l.root l.asid p 0 (s.group gid).die) s)

def State.canPerform (s : State) (o : SiteOp) : Bool × State :=
  match o.kind with
  | 1 =>
    match s.homeOp o.obj with
    | none => (true, s)
    | some h =>
      match h.lanes.find? (fun x => x.lane == o.lane) with
      | none => (true, s)
      | some x => let r := s.askPages o.gid [x.va]; (r.1 && s.homeReady h x, r.2)
  | 2 | 7 =>
    match s.commitOf o.obj with
    | none => (true, s)
    | some c =>
      let r := s.askPages o.gid (c.bytes.map (·.va))
      (r.1 && s.retentionOk c.cells, r.2)
  | 5 =>
    match s.eng.deliveries.find? (fun d => d.id == o.obj) with
    | some d => (s.deliveryLeaves d, s)
    | none => (true, s)
  | _ => (true, s)

/-- The candidates among the heads. -/
def State.candidates (s : State) : List SiteOp → List SiteOp × State
  | [] => ([], s)
  | o :: t =>
    let r := s.canPerform o
    let q := r.2.candidates t
    (if r.1 then o :: q.1 else q.1, q.2)

/-! ## Footprints (R113) -/

def teamGranule (idx off : Nat) : Nat := (2 ^ 56 + idx * 2 ^ 24 + off) / 16
def scratchGranule (die off : Nat) : Nat := (2 * 2 ^ 56 + die * 2 ^ 28 + off) / 16
def registerGranule (team grp reg : Nat) : Nat := (3 * 2 ^ 56 + team * 2 ^ 20 + grp * 2 ^ 16 + reg * 16) / 16
def fabricGranule (key : Nat) : Nat := (4 * 2 ^ 56 + key) / 16

/-- The footprint of an operation as it is about to be performed. A cut's read part is filled by later loads. -/
def State.footOf (s : State) (o : SiteOp) : Footprint :=
  match o.kind with
  | 1 => { r := [o.key / 16], w := [o.key / 16] }
  | 2 | 7 => { w := match s.commitOf o.obj with | some c => uniq (c.bytes.map (·.pa / 16)) | none => [] }
  | 3 => {}
  | 4 =>
    match s.mem.feWaits.find? (fun w => w.id == o.obj) with
    | some w => { w := [if w.space == 1 then teamGranule (w.place % 2 ^ 24) w.off else scratchGranule w.place w.off] }
    | none => {}
  | 5 => { w := [registerGranule (o.key / 1024) (o.key / 64 % 16) (o.key % 64)] }
  | _ =>
    match s.fabricOp o.obj with
    | some f => if f.kind = 0 then { r := [fabricGranule o.key] } else { w := [fabricGranule o.key] }
    | none => {}

def State.setSteer (s : State) (k : Nat) (f : Steer → Steer) : State :=
  s.setGrid k { s.grid k with steer := f (s.grid k).steer }

/-! ## Performing (R110) -/

/-- The logical clock advances, and the operation gets a clock of its own. -/
def State.tickLogical (s : State) (k : Nat) : State :=
  { s with clock := s.clock + 1 }.setSteer k (fun x => { x with lclock := x.lclock + 1 })

/-- The PC of the instruction that a site operation belongs to. -/
def State.sitePc (s : State) (o : SiteOp) : Nat :=
  match o.kind with
  | 1 => ((s.homeOp o.obj).map (·.pc)).getD 0
  | 2 | 7 => ((s.commitOf o.obj).map (·.pc)).getD 0
  | 3 => (((s.group o.gid).subs.find? (fun x => x.wait == .site)).map (·.pc)).getD 0
  | 4 => ((s.mem.feWaits.find? (fun w => w.id == o.obj)).map (·.pc)).getD 0
  | 5 => ((s.eng.deliveries.find? (fun d => d.id == o.obj)).map (·.pc)).getD 0
  | _ => ((s.fabricOp o.obj).map (·.pc)).getD 0

/-- A cut of a group at its site. -/
def State.siteTakeCut (s : State) (k : Nat) (o : SiteOp) : State :=
  let s := (s.tickLogical k).takeCut o.gid
  s.setGroup o.gid { s.group o.gid with lcut := (s.grid k).steer.lclock, cutOp := if (s.grid k).assay then o.id else 0 }

/-- An increment that completes an ARRIVE's count adds its participant's cut to the round (17 R325). -/
def State.arriveCut (s : State) (k : Nat) (o : SiteOp) : State :=
  match s.homeOp o.obj with
  | some h =>
    if h.kind = 4 && h.done && h.result then
      let (id, s) := s.fresh
      s.setSteer k (fun x => { x with ops := x.ops ++ [{ o with id, cls := 2, key := 0, lane := 0, kind := 3, obj := 0, commutes := false }] })
    else s
  | none => s

/-- Where byte `va` of a pending operation of a group is now: its page may have moved since the operation was issued (09
R179, R180). `old` is its address and storage then. -/
def State.lookAgain (s : State) (gid : Nat) (a : Acc) (va : Nat) (old : Nat × Nat) : (Nat × Nat) × State :=
  let l := (s.gridOf gid).launch
  match s.translate (s.group gid).coreKey l.root l.asid a va with
  | (.ok pa cm, s) => ((pa, s.at cm pa), s)
  | (_, s) => (old, s)

/-- The bytes of a pending commit where they are now. -/
def State.replaced (s : State) (gid : Nat) : List CByte → List CByte × State
  | [] => ([], s)
  | b :: t =>
    let r := s.lookAgain gid .store b.va (b.pa, b.loc)
    let q := r.2.replaced gid t
    ({ b with pa := r.1.1, loc := r.1.2 } :: q.1, q.2)

/-- The lane of a fabric access is performed at its node; the last lane ends the access. A store that finds its node not up
is lost (02 R33, R40). -/
def State.siteFabric (s : State) (k : Nat) (o : SiteOp) : State :=
  match s.fabricOp o.obj with
  | none => s
  | some f =>
    let s := match s.linkFault f.node f.port with
      | some sub => s.setFabric { f with failed := sub }
      | none => (f.lanes.filter (fun x => x.1 == o.lane)).foldl (fun s l => s.nodeLane f l) s
    if (s.grid k).steer.ops.any (fun x => x.kind == 6 && x.obj == f.id) then s else s.endFabric f

/-- One operation leaves its site and is performed. -/
def State.perform (s : State) (k : Nat) (o : SiteOp) : State :=
  let foot := s.footOf o
  let s := s.setSteer k (fun x => { x with
    ops := x.ops.filter (fun y => y.id != o.id), moved := true,
    feet := if (s.grid k).assay then x.feet.set none o.id (some foot) else x.feet })
  match o.kind with
  | 1 =>
    match s.homeOp o.obj with
    | none => s
    | some h =>
      match h.lanes.find? (fun x => x.lane == o.lane) with
      | none => s
      | some x =>
        let r := (s.tickLogical k).lookAgain o.gid .atomic x.va (x.pa, x.loc)
        (r.2.homeLane h { x with pa := r.1.1, loc := r.1.2 } (r.2.grid k).steer.lclock).arriveCut k o
  | 2 | 7 =>
    match s.commitOf o.obj with
    | none => s
    | some c =>
      let r := (s.tickLogical k).replaced o.gid c.bytes
      let s := r.2.publish { c with bytes := r.1 } (r.2.grid k).steer.lclock
      if o.kind = 7 then s.endExit o.gid else s
  | 3 => s.siteTakeCut k o
  | 4 =>
    match s.mem.feWaits.find? (fun w => w.id == o.obj) with
    | some w => s.feServe w
    | none => s
  | 5 =>
    match s.eng.deliveries.find? (fun d => d.id == o.obj) with
    | some d => s.performDelivery d
    | none => s
  | _ => s.siteFabric k o

/-! ## Snapshots (R114, 21 R379) -/

def State.snapshot (s : State) (k : Nat) : Snap :=
  let gr := s.grid k
  let gids := s.gridGids k
  let page (byte : Nat) : Bool := gr.steer.pages.contains (byte / 2 ^ 26 * 1024 + byte % 2 ^ 26 / 65536)
  { at_ := s.clock, grid := { gr with snapped := true },
    groups := s.groups.only (fun g => gids.contains g), teams := ⟨s.teams.cells.filter (fun c => c.2.grid == k)⟩,
    accs := s.quads.cells.filterMap (fun c => match c.2.holder with
      | some tk => if tk / 2 ^ 24 == k then some (tk, c.1 % 4, c.2) else none
      | none => none),
    scratch := s.mem.scratch.only page, sfull := s.mem.sfull.only (fun n => page (n * 16)),
    commits := s.mem.commits.filter (fun c => gids.contains c.gid), homeOps := s.mem.homeOps.filter (fun o => gids.contains o.gid),
    feWaits := s.mem.feWaits.filter (fun w => gids.contains w.gid), fabric := s.mem.fabric.filter (fun o => gids.contains o.gid),
    deliveries := s.eng.deliveries.filter (fun d => d.grid == k) }

/-- The snapshot before choice n of the engine's run, if it lies in the window. -/
def State.snapAt (s : State) (k n : Nat) : State :=
  let a := s.assay
  if (s.grid k).assay && a.gid == k && a.w0 ≤ n && n < a.w0 + a.wsize then
    let x := s.snapshot k
    { s with assay := { a with snaps := a.snaps.set none (n - a.w0) (some x) } }.setGrid k { s.grid k with snapped := true }
  else s

/-! ## Picks (R106 to R109) -/

/-- What the sequencer finds as a stream entry: a value, an exhausted stream whose launch has EXHAUST = 1, an entry that
halts the run, or a secure target, which freezes the sequencer (04 R70). -/
inductive StreamEntry where
  | value (e : Nat)
  | exhausted
  | halt
  | frozen
  deriving DecidableEq, Repr

/-- Stream entry n. The sequencer freezes as the launch unit does; a freeze that has been released is a translation that
faults. -/
def State.streamEntry (s : State) (k n : Nat) : StreamEntry × State :=
  let gr := s.grid k
  match gr.steer.stream with
  | some l => (.value (l.getD n 0), s)
  | none =>
    if gr.launch.steerlen ≤ n then (if gr.launch.exhaust then .exhausted else .halt, s)
    else
      match s.translate launchAgent gr.launch.root gr.launch.asid .load (gr.launch.steeraddr + 2 * n) with
      | (.ok pa cm, s) => if s.badByte (s.at cm pa) then (.halt, s) else (.value (s.newestN (s.at cm pa) 2), s.count (s.at cm pa) 0)
      | (.freeze pa, s) => if s.isReleased (gridWho k) 1 then (.halt, s.clearFailed (gridWho k)) else (.frozen, s.freeze launchMaster (gridWho k) 1 pa)
      | (_, s) => (.halt, s)

/-- A pick: the operation chosen, a halt of the run with status 1, or no answer while the sequencer is frozen. -/
inductive Pick where
  | op (o : SiteOp)
  | halt
  | frozen
  deriving DecidableEq, Repr

/-- One pick among candidates. -/
def State.pick (s : State) (k cls : Nat) (cands : List SiteOp) : Pick × State :=
  let n := (s.grid k).steer.choice
  let s := s.snapAt k n
  let r := s.streamEntry k n
  let s := r.2
  let take (s : State) (e idx : Nat) : Pick × State :=
    match cands[idx]? with
    | none => (.halt, s)
    | some o =>
      (.op o, s.setSteer k (fun x => { x with
        choice := n + 1,
        taken := if (s.grid k).assay then x.taken ++ [{ cls, cands := cands.map (·.id), idx, entry := e }] else x.taken }))
  match r.1 with
  | .halt => (.halt, s)
  | .frozen => (.frozen, s)
  | .exhausted =>
    match cands with
    | [] => (.halt, s)
    | o :: _ => take (s.setGrid k ((s.grid k).record 0xC (s.sitePc o) n (some (s.group o.gid)))) 0 0
  | .value e =>
    if (e / 4096 ≠ 0 && e / 4096 ≠ cls) || cands.length ≤ e % 4096 then (.halt, s) else take s e (e % 4096)

/-- Resolves one site (R105, R106): at most `n` operations. -/
def State.resolveSite (k cls key : Nat) : Nat → State → State
  | 0, s => s
  | n + 1, s =>
    if (s.grid k).status != .running || (s.grid k).stopping || s.isFrozen launchMaster then s
    else
      let l := (s.siteOps k).filter (fun o => o.cls == cls && o.key == key)
      let r := s.candidates (s.heads l)
      let s := r.2
      match r.1 with
      | [] => s
      | o :: t =>
        if t.isEmpty || (cls == 2 && l.all (fun x => x.kind == 3)) || (cls == 1 && l.all (·.commutes)) then
          (s.perform k o).resolveSite k cls key n
        else
          match s.pick k cls (o :: t) with
          | (.op x, s) => (s.perform k x).resolveSite k cls key n
          | (.halt, s) => s.stopGrid k 1
          | (.frozen, s) => s

/-- Every site of a class, in rising order of its key. -/
def State.resolveClass (s : State) (k cls : Nat) : State :=
  ((s.sites k).filter (fun x => x.1 == cls)).foldl (fun s x =>
    s.resolveSite k cls x.2 (((s.siteOps k).filter (fun o => o.cls == cls && o.key == x.2)).length + 1)) s

/-! ## The end of a round (R103, R104) -/

/-- At an ATOMIC site with an operation whose order matters, no operation counts as commuting (R106). -/
def mixSites (l : List SiteOp) : List SiteOp :=
  l.map (fun o => { o with commutes := o.commutes && l.all (fun x => !(x.cls == o.cls && x.key == o.key) || x.commutes) })

/-- WAITV and WAITLOW are tested; answers whether a group became runnable. -/
def State.wakeRound (s : State) (k : Nat) : Bool × State :=
  (s.gridGids k).foldl (fun (r : Bool × State) gid =>
    let s := r.2
    let g := s.group gid
    match g.wake with
    | none => r
    | some w =>
      let ok := match w.cond with
        | .waitv _ pa c ty v => s.waitvOk pa c ty v
        | .waitlow n => s.lowRetired g.grid n
        | _ => false
      if ok then
        (true, s.setGroup gid { g with wake := some { w with cond := .none },
                                       subs := g.subs.map (fun x => if x.wait == w.cond then { x with wait := .none } else x) })
      else r) (false, s)

/-- The grid halts with status 1 and STUCK, and the cycle that the graph holds is reported (R104, 11 R216). -/
def State.stuck (s : State) (k : Nat) : State :=
  let mine := s.cycles.filter (fun c => c.any (fun x => (s.group x.1.1).grid == k))
  let s := mine.foldl (fun s c => s.report c) s
  (s.setGrid k { s.grid k with flags := (s.grid k).flags ||| 2 }).stopGrid k 1

/-- ROUND_END: the sites of a quiescent steered grid are resolved, groups that have drained leave, teams are placed, and
the next round starts. A frozen sequencer goes on where it stopped. -/
def execRoundEnd (k : Nat) (s : State) : Out :=
  let gr := s.grid k
  if !gr.steered || gr.status != .running || gr.stopping || gr.ending.isSome || s.isFrozen launchMaster ||
    !(gr.steer.resolving || s.quiescent k) then .next s
  else
    let s := if gr.steer.resolving then s
      else s.setSteer k (fun x => { x with resolving := true, moved := false, ops := mixSites x.ops })
    let s := [1, 2, 3, 4, 5].foldl (fun s c => s.resolveClass k c) s
    if s.isFrozen launchMaster then .next s
    else
    let s := (FMap.sortBy s.placeKey (s.gridGids k)).foldl (fun s g => if s.drained g then s.drainEnd g else s) s
    if (s.grid k).status != .running || (s.grid k).stopping then .next s
    else
      let before := (s.grid k).next
      let s := s.placeWhile k gr.launch.teams
      let r := s.wakeRound k
      let s := r.2
      let moved := (s.grid k).steer.moved || (s.grid k).next != before || r.1 || s.pagingRound k
      let s := s.setSteer k (fun x => { x with resolving := false, moved := false })
      .next (if moved then s.setSteer k (fun x => { x with round := x.round + 1 }) else s.stuck k)

/-! ## The cut horizon (08 R161) -/

/-- Versions that no cut can return any longer are discarded (log 26). -/
def trimVers (h : Nat) : List Ver → List Ver
  | [] => []
  | v :: t => if h < v.time then v :: trimVers h t else [v]

/-- HORIZON_RECOMPUTE: H becomes the least open cut, and homes discard what it no longer keeps; a completion record that
waits for retention is tried again (R162). -/
def execHorizonRecompute (s : State) : Out :=
  let least (l : List Nat) : Nat := l.foldl min s.clock
  let h := least s.openCuts
  let u := least (State.openCuts { s with assay := {} })
  let deep := s.grids.cells.any (fun c => c.2.status == .running && !c.2.free)
  let vers := if deep then s.mem.vers else s.mem.vers.mapV [] (trimVers h)
  .next (s.setMem { s.mem with horizon := h, unpinned := u, vers }).retryEndings

end Sys2Proof.Machine
end

