-- ==== Sys2Proof/Machine/Assay.lean ====
section
/-! DEFINITION. The Assay engine: its control block (04 R71, R72), the runs and the search (06 R112 to R116), touchmarks
(R117), and the result area (21 R378 to R380). -/

namespace Sys2Proof.Machine
open Sys2Proof

/-- The engine's key among the translating agents, and among those that ask for pages. -/
def assayAgent : Nat := 4098
def assayWho : Nat := 2 ^ 60

/-! ## Status and stop (R72, R380) -/

def assayStat : Nat := 0x2010

def State.setAssay (s : State) (a : Assay) : State := { s with assay := a }

/-- ASSAYSTAT while the engine runs. -/
def State.assayBusy (s : State) : State :=
  s.setReg assayStat (s.assay.tms.length * 2 ^ 8 + s.assay.runs * 2 ^ 24 + 2 ^ 63)

/-- The engine stops with a status: pins and snapshots are released, and vector 2 is raised. -/
def State.assayStop (s : State) (status : Nat) : State :=
  let a := s.assay
  let s := s.setReg assayStat (status + a.tms.length % 2 ^ 16 * 2 ^ 8 + a.runs % 2 ^ 32 * 2 ^ 24)
  ((s.setAssay { a with phase := .idle, snaps := {}, stack := [], abort := false }).clearFailed assayWho).msix 2

/-! ## Reading and writing (R71, R116) -/

/-- What the engine's access to a list of pieces meets. -/
inductive AssayRes where
  | ok (l : List Byte)
  | fault
  | wait
  deriving DecidableEq, Repr

/-- The launch record's address space. -/
def State.assaySpace (s : State) : Nat × Nat :=
  let l := parseLaunch (s.assay.rec_.getD 0)
  (l.root, l.asid)

/-- A page is not resident: it is paged in, and the engine waits. -/
def State.assayPage (s : State) (va : Nat) : State :=
  let r := s.assaySpace
  (s.pageIn r.1 r.2 (pageOf va) 0 0).pageWaiter r.2 (pageOf va) assayWho

/-- A page is not resident: the engine waits, unless its page-in has failed (09 R183). -/
def State.assayAbsent (s : State) (va : Nat) : AssayRes × State :=
  if s.pageFailed assayWho s.assaySpace.2 (pageOf va) then (.fault, s.clearFailed assayWho)
  else (.wait, s.assayPage va)

/-- The engine meets a secure target: it is frozen, or released with a fault (R70). -/
def State.assayFreeze (s : State) (pa : Nat) : AssayRes × State :=
  if s.isReleased assayWho 0 then (.fault, s.clearFailed assayWho)
  else if s.isFrozen assayMaster then (.wait, s)
  else (.wait, s.freeze assayMaster assayWho 0 pa)

/-- Newest committed bytes of pieces of virtual memory. -/
def State.assayRead (s : State) : List (Nat × Nat) → AssayRes × State
  | [] => (.ok [], s)
  | (va, n) :: t =>
    let r := s.assaySpace
    let more (l : List Byte) (s : State) : AssayRes × State :=
      match s.assayRead t with
      | (.ok m, s) => (.ok (l ++ m), s)
      | x => x
    match s.translate assayAgent r.1 r.2 .load va with
    | (.ok pa cm, s) =>
      if (s.badIn cm pa n).isSome then (.fault, s) else more (s.newestAt cm pa n) (s.countLines cm pa n 0)
    | (.node k a, s) => if (s.nodeFault k).isSome || s.nodeRefuses k a n then (.fault, s) else more ((List.range n).map (fun i => s.nodeByte k (a + i))) s
    | (.absent, s) => s.assayAbsent va
    | (.freeze pa, s) => s.assayFreeze pa
    | (.fault _, s) => (.fault, s)

/-- Pages that the engine checks for an access: every one is looked up. -/
def State.assayCheck (s : State) (a : Acc) : List (Nat × Nat) → AssayRes × State
  | [] => (.ok [], s)
  | (va, n) :: t =>
    let r := s.assaySpace
    match s.translate assayAgent r.1 r.2 a va with
    | (.ok _ _, s) => s.assayCheck a t
    | (.node k x, s) => if (s.nodeFault k).isSome || s.nodeRefuses k x n then (.fault, s) else s.assayCheck a t
    | (.absent, s) =>
      match s.assayAbsent va with
      | (.wait, s) =>
        (match s.assayCheck a t with
         | (.ok _, s) => (.wait, s)
         | x => x)
      | x => x
    | (.freeze pa, s) => s.assayFreeze pa
    | (.fault _, s) => (.fault, s)

/-- Commits bytes into the result area, whose pages have been checked. -/
def State.assayWrite (s : State) : List (Nat × Nat) → List Byte → State
  | [], _ => s
  | (va, n) :: t, l =>
    let r := s.assaySpace
    match s.translate assayAgent r.1 r.2 .store va with
    | (.ok pa cm, s) => (s.commitNow {} (s.stored cm pa (l.take n))).assayWrite t (l.drop n)
    | (.node k a, s) => (s.setNodeN k a (l.take n)).assayWrite t (l.drop n)
    | (_, s) => s.assayWrite t (l.drop n)

/-! ## The control block (R71) -/

/-- Its limits, and its reserved fields. -/
def assayShape (v : Nat) : Bool :=
  let n := byteF v 39 36
  byteF v 7 0 % 128 == 0 && byteF v 19 16 ≤ 65535 && 1 ≤ byteF v 24 24 && byteF v 24 24 ≤ 8 && byteF v 31 25 == 0 &&
    1 ≤ byteF v 35 32 && 1 ≤ n && n ≤ 8 && byteF v 47 40 % 8 == 0 && 48 ≤ byteF v 55 48 && byteF v 63 56 == 0 &&
    (List.range 8).all (fun i =>
      let b := byteF v (71 + 16 * i) (64 + 16 * i)
      let l := byteF v (79 + 16 * i) (72 + 16 * i)
      if i < n then b % 4096 == 0 && l % 4096 == 0 && l != 0 else b == 0 && l == 0)

/-- Where a physical access through a fabric window goes: the node and its address, or the class and sub-code that it
raises (02 R30, R31, R40). -/
def State.windowNode (s : State) (pa n : Nat) : Except (Nat × Nat) (Nat × Nat) :=
  let k := (pa - 0x80000000000) / 0x8000000000
  let a := s.reg (dwetexBase + 0x480 + 8 * k) % 8 * 0x8000000000 + pa % 0x8000000000
  if s.nstate k = 0 then .error (MEMORY, 1)
  else match s.nodeFault k with
    | some sub => .error (FABRIC, sub)
    | none => if s.nodeRefuses k a n then .error (FABRIC, 4) else .ok (k, a)

/-- The 128 bytes of the launch record at their physical address: none if it is unmapped. -/
def State.physRecord (s : State) (pa : Nat) : Option Nat :=
  match tierOf pa with
  | .none => none
  | .fabric => (s.windowNode pa 128).toOption.map (fun x => s.nodeN x.1 x.2 128)
  | _ => if (s.badIn 0 pa 128).isSome then none else some (natOfBytes (s.newestAt 0 pa 128))

/-- The launch record has been read, once. -/
def State.assayRecord (s : State) : AssayRes × State :=
  let a := s.assay
  match a.rec_ with
  | some _ => (.ok [], s)
  | none =>
    if s.secureAt a.lrec && !s.host.secure.contains assayAgent then s.assayFreeze a.lrec
    else
      match s.physRecord a.lrec with
      | none => (.fault, s)
      | some v =>
        if s.launchCode v = 0 && (parseLaunch v).mode = 2 then (.ok [], s.setAssay { a with rec_ := some v }) else (.fault, s)

/-- A run is launched: the prefix, then index 0 (R112). -/
def State.assayLaunch (s : State) (entries : List Nat) : State :=
  let a := s.assay
  let r := s.enterStore (parseLaunch (a.rec_.getD 0))
  let k := r.1
  let s := r.2.setGrid k { r.2.grid k with assay := true, steer := { stream := some entries } }
  (s.setAssay { a with phase := .running, prefix_ := entries, gid := k, runs := 1, j := a.w0, soff := a.rcap / 8 * 8 }).assayBusy

/-- Entries of 16 bits. -/
def halves : List Byte → List Nat
  | a :: b :: t => (a.toNat + 256 * b.toNat) :: halves t
  | _ => []

/-- The checks at GO: a failure refuses the block; a page that is away, or a full store, is waited for. -/
def State.assayPrepare (s : State) : State :=
  match s.assayRecord with
  | (.fault, s) => s.assayStop 2
  | (.wait, s) => s
  | (.ok _, s) =>
    let a := s.assay
    match s.assayCheck .load (a.ranges.flatMap (fun x => pieces x.1 x.2)) with
    | (.fault, s) => s.assayStop 2
    | (w1, s) =>
      match s.assayCheck .store (pieces a.result a.rcap) with
      | (.fault, s) => s.assayStop 2
      | (w2, s) =>
        match s.assayRead (pieces a.pre (2 * a.plen)) with
        | (.fault, s) => s.assayStop 2
        | (.wait, s) => s
        | (.ok l, s) => if w1 == .wait || w2 == .wait || s.storeFull then s else s.assayLaunch (halves l)

/-- ASSAY_GO: the block is read and checked; while the engine waits for what its checks need, the event makes it look
again. A GO written while a run is under way is ignored. -/
def execAssayGo (s : State) : Out :=
  let a := s.assay
  match a.phase with
  | .idle =>
    if s.recovery then .next s else
    let off := s.reg 0x2000 % 4096 * 256
    let m := s.mbox
    let v := s.winN 2 m.1 (m.2 + off) 192
    let s := s.setAssay { a with runs := 0, tms := [], stack := [], snaps := {}, abort := false, rec_ := none }
    if off < 0x8000 || !assayShape v then .next (s.assayStop 2)
    else
      let s := s.setAssay { s.assay with
        phase := .checking, lrec := byteF v 7 0, pre := byteF v 15 8, plen := byteF v 19 16, w0 := byteF v 23 20,
        wsize := byteF v 24 24, budget := byteF v 35 32, result := byteF v 47 40, rcap := byteF v 55 48,
        ranges := (List.range (byteF v 39 36)).map (fun i => (byteF v (71 + 16 * i) (64 + 16 * i), byteF v (79 + 16 * i) (72 + 16 * i))) }
      .next s.assayBusy.assayPrepare
  | .checking => .next (if s.isFrozen assayMaster then s else s.assayPrepare)
  | _ => .next s

/-! ## The search (R115) -/

/-- Bit numbers of a signature (R113). -/
def sigBits (l : List Nat) : List Nat := l.map (fun g => g * 0x9E3779B1 % 2 ^ 32 / 2 ^ 22)
/-- Two parts share a granule; past 64 granules a part is a signature. -/
def partsMeet (a b : List Nat) : Bool :=
  if 64 < a.length || 64 < b.length then (sigBits a).any (sigBits b).contains else a.any b.contains
/-- Two footprints conflict; a candidate never performed conflicts with everything. -/
def conflict : Option Footprint → Option Footprint → Bool
  | some a, some b => partsMeet a.w (b.r ++ b.w) || partsMeet b.w a.r
  | _, _ => true

/-- The next alternative to run, and the calls of Visit after it. -/
def nextRun : Nat → List Visit → Option (Nat × Nat) × List Visit
  | 0, l => (none, l)
  | _, [] => (none, [])
  | n + 1, v :: t =>
    if v.k1 ≤ v.j then nextRun n t
    else
      let k := v.k1 - 1
      match v.run.choices[k]? with
      | none => nextRun n ({ v with k1 := k, a := 0 } :: t)
      | some c =>
        if c.2.length ≤ v.a then nextRun n ({ v with k1 := k, a := 0 } :: t)
        else if v.a = c.1 || !conflict (c.2.getD v.a none) (c.2.getD c.1 none) then nextRun n ({ v with a := v.a + 1 } :: t)
        else (some (k, v.a), { v with a := v.a + 1 } :: t)

/-- Steps that `nextRun` needs for its stack. -/
def visitFuel (l : List Visit) : Nat :=
  l.foldl (fun n v => n + v.k1 + 2 + v.run.choices.foldl (fun m c => m + c.2.length) 0) 1

/-- What the search keeps of the run that has ended (R112, R378). -/
def State.runRecord (s : State) : RunRec :=
  let x := (s.grid s.assay.gid).steer
  { entries := (List.zip (List.range x.taken.length) x.taken).map (fun c =>
      if c.1 < s.assay.plen then c.2.entry else c.2.idx),
    choices := x.taken.map (fun c => (c.idx, c.cands.map (x.feet.get none))) }

/-- A restored group waits in its image, until a core admits its team. -/
def State.revive (s : State) (k : Nat) (g : Group) : State :=
  let n := s.names
  let s := if g.nameIdx = 0 then s else
    { s with names := { n with holder := n.holder.set 0 g.nameIdx (k + 1), freed := n.freed.filter (· != g.nameIdx) } }
  if g.status == .draining then s.setGroup k g
  else (s.setGroup k { g with status := .evicted, image := 0 }).writeImage k

/-- Snapshot `x` is restored: the grid's later versions are discarded, and the run goes on at its pick with the stream
`entries` (R115, R379). -/
def State.restore (s : State) (x : Snap) (entries : List Nat) : State :=
  let k := s.assay.gid
  let gids := x.groups.cells.map (·.1)
  let page (b : Nat) : Bool := x.grid.steer.pages.contains (b / 2 ^ 26 * 1024 + b % 2 ^ 26 / 65536)
  let late (v : Ver) : Bool := v.grid == k && x.at_ < v.time
  let m := s.mem
  let s := s.setMem { m with
    vers := m.vers.mapV [] (fun l => l.filter (fun v => !late v)),
    scratch := m.scratch.replace 0 page x.scratch, sfull := m.sfull.replace false (fun n => page (n * 16)) x.sfull,
    commits := m.commits.filter (fun c => !gids.contains c.gid) ++ x.commits,
    homeOps := m.homeOps.filter (fun o => !gids.contains o.gid) ++ x.homeOps,
    feWaits := m.feWaits.filter (fun w => !gids.contains w.gid) ++ x.feWaits,
    fabric := m.fabric.filter (fun o => !gids.contains o.gid) ++ x.fabric }
  let s := { s with eng := { s.eng with deliveries := (s.eng.deliveries.filter (fun (d : Delivery) => d.grid != k)) ++ x.deliveries } }
  let s := { s with teams := ⟨s.teams.cells.filter (fun c => c.2.grid != k)⟩ }
  let s := x.teams.cells.foldl (fun s c =>
    s.setTeam c.1 (if c.2.live then
        ({ c.2 with out := true, accs := (x.accs.filter (fun (a : Nat × Nat × Quad) => a.1 == c.1)).map (·.2) } : Team)
      else c.2)) s
  let s := s.setGrid k { x.grid with steer := { x.grid.steer with stream := some entries } }
  x.groups.cells.foldl (fun s c => s.revive c.1 c.2) s

/-- The next run, if the search has one and the budget allows it; else the engine stops. -/
def State.assayNext (s : State) : State :=
  let a := s.assay
  match nextRun (visitFuel a.stack) a.stack with
  | (none, _) => s.assayStop 0
  | (some (k, alt), stack) =>
    if a.budget ≤ a.runs then s.assayStop 1
    else
      match a.snaps.get none (k - a.w0), stack with
      | some x, v :: _ =>
        let s := s.restore x (v.run.entries.take k ++ [alt])
        (s.setAssay { s.assay with stack, phase := .running, runs := a.runs + 1, j := k + 1 }).assayBusy
      | _, _ => s.assayStop 0

/-! ## The end of a run (R116, R117) -/

/-- ASSAY_RUN_END: the run's grid has completed. A baseline that halts under R108 ends the exploration. -/
def execAssayRunEnd (s : State) : Out :=
  let a := s.assay
  let g := s.grid a.gid
  if a.phase != .running || g.status != .done then .next s
  else if a.runs = 1 && g.code = 1 && g.flags / 2 % 2 = 0 then .next (s.assayStop 4)
  else .next (s.setAssay { a with phase := .ended })

/-- A touchmark not seen before is appended with its stream; answers 0, or the status that stops the engine (R378), or
none while a page of the result area is away (09 R180) or the engine is frozen. -/
def State.assayReport (s : State) (tm : List Byte) (entries : List Nat) : Option Nat × State :=
  let a := s.assay
  if a.tms.contains tm then (some 0, s)
  else
    let n := a.tms.length
    let size := (2 * entries.length + 7) / 8 * 8
    if a.soff < 48 * (n + 1) + size then (some 3, s)
    else
      let soff := a.soff - size
      let copy := entries.flatMap (bytesOfNat 2) ++ bytesOfNat (size - 2 * entries.length) 0
      let entry := tm ++ bytesOfNat 4 a.runs ++ bytesOfNat 4 entries.length ++ bytesOfNat 8 soff
      let here := pieces (a.result + soff) size
      let there := pieces (a.result + 48 * n) 48
      match s.assayCheck .store (here ++ there) with
      | (.fault, s) => (some 7, s)
      | (.wait, s) => (none, s)
      | (.ok _, s) =>
        let s := (s.assayWrite here copy).assayWrite there entry
        (some 0, (s.setAssay { s.assay with tms := a.tms ++ [tm], soff }).assayBusy)

/-- ASSAY_TOUCHMARK: the touchmark of the run that has ended, its report, and the next run or the stop. A chunk whose
page is away is paged in, and the event comes again. -/
def execAssayTouchmark (s : State) : Out :=
  if s.assay.phase != .ended || s.isFrozen assayMaster then .next s
  else
    match s.assayRead (s.assay.ranges.flatMap (fun x => pieces x.1 x.2)) with
    | (.wait, s) => .next s
    | (.fault, s) => .next (s.assayStop 7)
    | (.ok l, s) =>
      let run := s.runRecord
      match s.assayReport (Sha.chunked l) run.entries with
      | (none, s) => .next s
      | (some st, s) =>
      let a := s.assay
      if st ≠ 0 then .next (s.assayStop st)
      else if (s.grid a.gid).code = 2 then .next (s.assayStop 6)
      else if a.abort then .next (s.assayStop 5)
      else
        let v : Visit := { run, j := a.j, k1 := a.w0 + a.wsize, a := 0 }
        .next (s.setAssay { a with stack := v :: a.stack }).assayNext

/-- ASSAY_ABORT: the engine stops after the current run; at once if none is under way. -/
def execAssayAbort (s : State) : Out :=
  match s.assay.phase with
  | .idle => .next s
  | .checking => .next (s.assayStop 5)
  | _ => .next (s.setAssay { s.assay with abort := true })

end Sys2Proof.Machine
end

