-- ==== Sys2Proof/Machine/Upkeep.lean ====
section
/-! DEFINITION. The package's own upkeep: power windows and over-temperature (01 R20, R21), the scrubber, write-backs
and bad-line tables (01 R23 to R25), the sweeper (09 R186, R187) and power gating (09 R189). -/

namespace Sys2Proof.Machine
open Sys2Proof

/-! ## Power (01 R20, R21) -/

/-- A quadrant's duty value D, from 4 to 16. -/
def State.dutyOf (s : State) (qk : Nat) : Nat := 16 - (s.quad qk).duty

/-- D after a window: energy against the share, both in watts over the window; the share is the remainder of PLIMIT
÷ 8192 (log 27). -/
def nextDuty (duty energy other plimit : Nat) : Nat :=
  if plimit < energy * 8192 + other then min (duty + 2) 12
  else if energy * 8192 + other = plimit then duty
  else duty - 2

/-- POWER_WINDOW_END: the energy of each quadrant in the window, and of the rest of the package. -/
def execPowerWindowEnd (other : Nat) (energy : List (Nat × Nat)) (s : State) : Out :=
  let h := s.host
  let e (qk : Nat) : Nat := ((energy.find? (fun x => x.1 == qk)).map (·.2)).getD 0
  -- with nothing left to share, every quadrant is over its share; else one that used nothing and is not throttled stays
  let ks := if h.plimit < h.otherPrev then List.range 8192
    else (uniq ((s.quads.cells.map (·.1)) ++ energy.map (·.1))).filter (· < 8192)
  let s := ks.foldl (fun s qk =>
    let q := s.quad qk
    s.setQuad qk { q with duty := nextDuty q.duty (e qk) h.otherPrev h.plimit }) s
  .next { s with host := { s.host with otherPrev := other } }

/-- OVERTEMP: the die stops issue, and the management complex removes package power. -/
def execOvertemp (_die : Nat) (s : State) : Out := .next { s with powered := false }

/-! ## Bad lines (01 R23 to R25) -/

/-- A line's address enters its controller's table, which holds 64; the management complex is told. The spec does not say
whether the table is full at its 64th entry or when one more line would enter: the model takes the package offline at the
65th line (log 94). -/
def State.enterBadLine (s : State) (line : Nat) : State :=
  match channelOf (line * 64) with
  | none => s
  | some c =>
    let m := s.mem
    let l := m.badTable.get [] c
    let s := { s with host := { s.host with told := s.host.told ++ [line * 64] } }
    if l.contains line then s
    else if 64 ≤ l.length then { s with offline := true }
    else { s with mem := { m with badTable := m.badTable.set [] c (l ++ [line]) } }

/-- SCRUB_LINE: the patrol scrubber reads and corrects a line. -/
def execScrubLine (line : Nat) (s : State) : Out :=
  .next (if s.badByte (line * 64) then s.enterBadLine line else s.correct line)

/-- DIRTY_LINE_WRITE_BACK: a dirty line leaves the home cache. -/
def execDirtyLineWriteBack (line : Nat) (s : State) : Out :=
  if !s.mem.dirty.contains line then .next s
  else
    let s := { s with mem := { s.mem with dirty := s.mem.dirty.filter (· != line) } }
    .next (if s.badByte (line * 64) then s.enterBadLine line else s)

/-! ## The sweeper (09 R186, R187) -/

def frameTableSize : Nat := 1048576
/-- Frame-table entry i of a die describes the frame at this address (log 28). -/
def frameAt (die i : Nat) : Nat := die * 2 ^ 36 + i * 65536

def sweepCtl (die : Nat) : Nat := residBase die + 0x18
/-- QLEN below the watermark, and the sweeper on. -/
def State.sweeps (s : State) (die : Nat) : Bool :=
  let c := s.reg (sweepCtl die)
  bits c 16 16 == 1 && decide ((s.xlat.coldq.get [] die).length < min (c % 65536) 8192)

/-- The PTE at this address cannot be that of a 64 KiB leaf: its place in its table lies past the 512 entries of such a
table (R172), or a TLB holds it as a larger leaf. A PTE does not say its level, so that the model takes any other for one
of a 64 KiB page (log 95). -/
def State.largeLeaf (s : State) (addr : Nat) : Bool :=
  decide (4096 ≤ addr % 65536) || s.xlat.tlbs.cells.any (fun c => c.2.any (fun t => t.pteAddr == addr && t.size != 16))

/-- What a visit of entry i does: nothing, clear A, or append the frame. An entry with a reserved bit set is skipped. -/
def State.sweepEntry (s : State) (die i : Nat) : State :=
  let e := s.newestN (s.at 0 (bits (s.reg (residBase die + 0x10)) 51 16 * 65536 + 8 * i)) 8
  let a := bits e 51 3 * 8
  let p := s.newestN (s.at 0 a) 8
  if e % 2 = 0 || bits e 2 1 != 0 || e / 2 ^ 52 != 0 || s.largeLeaf a || !(pteV p && pteLeaf p) || badLeaf 0 p || pteRes p ≠ 0 || pteFrame p ≠ frameAt die i then s
  else if pteA p then ((s.patchN (s.at 0 a) 8 (p - 2 ^ 11)).count (s.at 0 a) 1).dropTlb (fun t => t.pteAddr == a)
  else
    let q := s.xlat.coldq.get [] die
    if q.contains i then s else { s with xlat := { s.xlat with coldq := s.xlat.coldq.set [] die (q ++ [i]) } }

/-- SWEEP_VISIT: the sweeper of a die visits its next entry. -/
def execSweepVisit (die : Nat) (s : State) : Out :=
  if !s.sweeps die then .next s
  else
    let i := s.xlat.sweep.get 0 die
    let s := s.sweepEntry die i
    .next { s with xlat := { s.xlat with sweep := s.xlat.sweep.set 0 die ((i + 1) % frameTableSize) } }

/-! ## Power gating (09 R189) -/

/-- CORE_POWER_GATING: a core that holds no group is gated, and its TLBs are flushed; or it is powered again. -/
def execCorePowerGating (core : Nat) (on : Bool) (s : State) : Out :=
  if on then
    (if !(s.resident core).isEmpty then .next s
     else
       let x := s.xlat
       .next { s with xlat := { x with gated := if x.gated.contains core then x.gated else x.gated ++ [core],
                                       tlbs := (x.tlbs.set [] core []).set [] (2048 + core) [] } })
  else .next { s with xlat := { s.xlat with gated := s.xlat.gated.filter (· != core) } }

end Sys2Proof.Machine
end

