-- ==== Sys2Proof/Machine/Observe.lean ====
section
/-! DEFINITION. Observation: ring registers (11 R210), progress counters (R215), the stall sampler (R218 to R220) and
the gauges (R222). -/

namespace Sys2Proof.Machine
open Sys2Proof

/-! ## Rings (R210) -/

/-- Offset of a ring's BASE: samples, requests, exits, traces. -/
def ringAt (ring : Nat) : Nat :=
  match ring with
  | 0 => sampRing
  | 1 => reqRing
  | 2 => exitRing
  | _ => traceRing

/-- RING_CONFIG_WRITE: BASE or LEN is written, and HEAD and TAIL are reset. -/
def execRingConfigWrite (die ring : Nat) (len : Bool) (v : DWord) (s0 : State) : Out :=
  let b := obsBase die + ringAt ring
  let s := if len then s0.setReg (b + 8) (v.toNat % 32) else s0.setReg b (bits v.toNat 51 6 * 64)
  .next (if s0.recovery then s0 else (s.setReg (b + 16) 0).setReg (b + 24) 0)

/-! ## Progress counters (R215) -/

/-- The group in a slot. -/
def State.inSlot (s : State) (die core slot : Nat) : Option Nat :=
  (s.resident (coreKey die core)).find? (fun k => (s.group k).slot == slot)

/-- A core is frozen (04 R70). -/
def State.coreFrozen (s : State) (ck : Nat) : Bool := s.isFrozen ck

/-- The waits of a group's C-slice: its own, and those of its subgroups. -/
def Group.waits (g : Group) : List Cond :=
  (match g.wake with | some w => [w.cond] | none => []) ++ (g.subs.map (·.wait)).filter (fun c => c != .none)

/-- The line address of a commit that waits for retention, at a home that has none. -/
def State.retentionWait (s : State) (c : Cond) : Option Nat :=
  match c with
  | .commit k =>
    (match s.commitOf k with
     | some x =>
       if x.installed && x.notices.isEmpty then
         let full := s.fullHomes x.cells
         (x.bytes.find? (fun b => full.contains (homeOf b.loc))).map (fun b => b.pa / 64 * 64)
       else none
     | none => none)
  | _ => none

/-- Wake type and object of a wait that is not over (R215). -/
def State.progWait (s : State) (gid : Nat) : Nat × Nat :=
  let g := s.group gid
  if g.halted || s.coreFrozen g.coreKey then (15, 0)
  else if s.siteParked gid then (16, 0)
  else
    match g.waits.filter (fun c => !s.holds gid c) with
    | c :: _ =>
      (match s.retentionWait c, c with
       | some a, _ => (13, a)
       | none, .latch _ => (17, 0)
       | none, c => ((s.wakeCode c).1, (s.wakeCode c).2.1))
    | [] => if !g.joining.isEmpty && g.subs.isEmpty then (14, 0) else (0, 0)

/-- No lane of the group can issue. -/
def State.cannotIssue (s : State) (gid : Nat) : Bool :=
  let g := s.group gid
  g.status != .running || g.halted || s.coreFrozen g.coreKey || s.siteParked gid || (g.marker && g.anyPending) ||
  (match g.wake with | some w => !s.holds gid w.cond | none => false) || g.subs.all (fun x => !s.holds gid x.wait)

/-- PSEL_WRITE: PROG and POBJ are captured from one clock. -/
def execPselWrite (die : Nat) (v : DWord) (s : State) : Out :=
  let b := obsBase die
  if s.recovery then .next s else
  let s := s.setReg (b + 0x100) (bits v.toNat 15 8 * 256 + v.toNat % 64)
  match s.inSlot die (bits v.toNat 15 8) (v.toNat % 64) with
  | none => .next ((s.setReg (b + 0x108) 0).setReg (b + 0x110) 0)
  | some gid =>
    let w := s.progWait gid
    let prog := (s.group gid).retired % 2 ^ 32 * 2 ^ 32 + (s.cannotIssue gid).toNat * 2 ^ 31 + w.1 * 2 ^ 24
    .next ((s.setReg (b + 0x108) prog).setReg (b + 0x110) w.2)

/-! ## The stall sampler (R218 to R220) -/

def stepLfsr (l : Nat) : Nat :=
  let f := (l + l / 4 + l / 8 + l / 32) % 2
  l / 2 + f * 2 ^ 15

/-- The interval that follows a tick with this LFSR value (R218, R219). -/
def sampInterval (ctl l : Nat) : Nat := max (bits ctl 47 32) 16 + (l &&& bits ctl 63 48)

/-- Partitions that a control word selects on a die. -/
def sampParts (die ctl : Nat) : List Nat :=
  if bits ctl 1 1 = 1 then (List.range 4096).map (die * 4096 + ·)
  else (List.range 16).map (coreKey die (bits ctl 23 16) * 16 + ·)

/-- SAMPCTL's bits that are not reserved. -/
def sampMask (v : Nat) : Nat := setBits (setBits v 31 24 0) 15 2 0

/-- SAMPLE_ENABLE: a write of SAMPCTL. Only a change of ENABLE from 0 to 1 loads the LFSRs and starts the ticks; while
ENABLE stays 1, CORE and ALL keep their values. -/
def execSampleEnable (die : Nat) (v : DWord) (s : State) : Out :=
  let b := obsBase die
  let old := s.reg b
  let new := sampMask v.toNat
  let seed := s.reg (b + 8) % 65536
  let seed := if seed = 0 then 1 else seed
  if s.recovery then .next s
  else if new % 2 = 1 && old % 2 = 0 then
    let s := s.setReg b new
    .next ((sampParts die new).foldl (fun s pk =>
      s.setPart pk { s.part pk with lfsr := seed, tick := s.clock + sampInterval new seed }) s)
  else if new % 2 = 1 then .next (s.setReg b (setBits (setBits new 23 16 (bits old 23 16)) 1 1 (bits old 1 1)))
  else
    let s := s.setReg b new
    .next ((sampParts die old).foldl (fun s pk => s.setPart pk { s.part pk with tick := 0 }) s)

/-- A candidate of the age matrix: group, PC, active lanes, age's start, and its wait; a group whose lanes wait at a
JOIN or in front of a handler offers that place. -/
structure SampCand where
  gid : Nat
  pc : Nat
  lanes : Mask
  since : Nat
  reason : Nat
  blame : Nat
  deriving DecidableEq, Repr

/-- The reason why a subgroup does not issue (R220). A wait that the table of reasons does not name is given as 1, the pipe
(log 29). -/
def State.sampReason (s : State) (gid : Nat) (x : Sub) : Nat :=
  let g := s.group gid
  let c := match g.wake with | some w => if s.holds gid w.cond then x.wait else w.cond | none => x.wait
  if g.halted || s.coreFrozen g.coreKey then 12
  else if x.handler then 11
  else if s.siteParked gid then 6
  else if g.marker && g.anyPending then 4
  else if s.holds gid c then 0
  else if (s.retentionWait c).isSome then 8
  else
    match c with
    | .latch _ => 10
    | .room _ | .queues _ _ | .shoots => 9
    | .commit _ | .writes _ => 8
    | _ => if c.blocking then 5 else 1

/-- The PC of the oldest outstanding long producer of a group. -/
def Group.oldestLong (g : Group) (pc : Nat) : Nat :=
  match g.longs with
  | [] => pc
  | x :: t => (t.foldl (fun (b : Long) y => if y.at_ < b.at_ then y else b) x).pc

/-- The PC of the instruction at which a group is parked. -/
def Group.parkedPc (g : Group) (pc : Nat) : Nat :=
  match g.wake with
  | some w => ((g.subs.find? (fun x => x.lanes == w.lanes)).map (·.pc)).getD pc
  | none => pc

/-- Candidates of a partition: of each group, the two subgroups with the most lanes, ties to the lower PC (05 R84). -/
def State.sampCands (s : State) (pk : Nat) : List SampCand :=
  let gids := (s.resident (pk / 16)).filter (fun k => (s.group k).partKey == pk && (s.group k).status == .running)
  (FMap.sortBy (fun k => (s.group k).slot) gids).flatMap (fun k =>
    let g := s.group k
    let l := (FMap.sortBy (fun (x : Sub) => (128 - x.lanes.count) * 2 ^ 64 + x.pc) g.subs).take 2
    if l.isEmpty then
      (g.joining.take 1).map (fun j => { gid := k, pc := j.2, lanes := j.1, since := g.joinedAt, reason := 7, blame := j.2 : SampCand }) ++
      (if g.joining.isEmpty then (g.trap.toList.map (fun t =>
        { gid := k, pc := t.pc, lanes := t.lanes, since := t.since, reason := 11, blame := t.pc : SampCand })) else [])
    else
      l.map (fun x =>
        let r := s.sampReason k x
        { gid := k, pc := x.pc, lanes := x.lanes, since := x.since, reason := r,
          blame := if r = 4 then g.oldestLong x.pc else if r = 5 then g.parkedPc x.pc else x.pc : SampCand }))

/-- The record of a tick (R220). The instruction issued in the tick's clock is the package's last, if it was issued then
in this partition (log 29). -/
def State.sampleRecord (s : State) (die core part tick : Nat) : List Byte :=
  let pk := coreKey die core * 16 + part
  let i := s.host.lastIssue
  let issued := i.1 == tick && (s.group i.2.1).partKey == pk
  let ig := s.group i.2.1
  let cands := (s.sampCands pk).filter (fun c => !issued || c.since < tick)
  let best := match cands with
    | [] => none
    | c :: t => some (t.foldl (fun (b : SampCand) x =>
        if x.since < b.since || (x.since == b.since && ((s.group x.gid).slot == (s.group b.gid).slot) && x.pc < b.pc) then x else b) c)
  let gridid (g : Group) : Nat := (s.grid g.grid).launch.gridid
  let pick {α : Type} (d : α) (f : SampCand → α) : α := match best with | some c => f c | none => d
  bytesOfNat 8 tick ++ bytesOfNat 4 (if issued then i.2.2 else 0) ++ bytesOfNat 4 (pick 0 (·.pc)) ++
    bytesOfNat 4 (pick 0 (·.blame)) ++ bytesOfNat 1 (if issued then ig.slot % 4 + 128 else 0) ++
    bytesOfNat 1 (pick 0 (fun c => (s.group c.gid).slot % 4 + 128)) ++ bytesOfNat 1 (pick 0 (·.reason)) ++
    bytesOfNat 1 part ++ bytesOfNat 2 (core + die * 256) ++ bytesOfNat 1 issued.toNat ++
    bytesOfNat 1 (pick 0 (·.lanes.count)) ++
    bytesOfNat 4 (pick (if issued then gridid ig else 0) (fun c => gridid (s.group c.gid)))

/-- A partition whose tick has come writes its record and steps its LFSR (R219). -/
def State.sampleTick (s : State) (die core part : Nat) : State :=
  let pk := coreKey die core * 16 + part
  let p := s.part pk
  let c := s.reg (obsBase die)
  if c % 2 = 0 || p.tick = 0 || s.clock < p.tick then s
  else
    let l := stepLfsr p.lfsr
    let s := s.ringPut die sampRing (s.sampleRecord die core part p.tick)
    s.setPart pk { s.part pk with lfsr := l, tick := p.tick + sampInterval c l }

/-- SAMPLE_TICK: one partition's. -/
def execSampleTick (die core part : Nat) (s : State) : Out := .next (s.sampleTick die core part)

/-! ## Gauges (R222) -/

def gaugeAt (die gauge : Nat) : Nat := obsBase die + 0x2000 + 0x80 * gauge
def gaugeCtl (die : Nat) : Nat := obsBase die + 0x180

/-- The values of a gauge return to their reset values; GCFG stays. -/
def State.clearGauge (s : State) (die gauge : Nat) : State :=
  { s with host := { s.host with bar0 := s.host.bar0.clear (gaugeAt die gauge + 8) 0x78 } }

/-- The source and index that a GCFG names exist. -/
def gaugeOk (cfg : Nat) : Bool :=
  let i := bits cfg 23 8
  match cfg % 256 with
  | 1 => decide (i < 256)
  | 2 | 4 => decide (i < 64)
  | 3 => decide (i < 544)
  | 5 | 6 | 7 | 8 => true
  | 9 => decide (i < 4)
  | _ => false

/-- The bin of a value. -/
def gaugeBin (v : Nat) : Nat := if v = 0 then 0 else min (Nat.log2 v + 1) 15

/-- GAUGE_SAMPLE: a gauge that runs takes a value. -/
def execGaugeSample (die gauge value : Nat) (s : State) : Out :=
  let b := gaugeAt die gauge
  let cfg := s.reg b
  if 64 ≤ gauge || s.reg (gaugeCtl die) % 2 = 1 || bits cfg 31 31 = 0 || !gaugeOk cfg then .next s
  else
    let v := min value (2 ^ 32 - 1)
    let s := s.setReg (b + 8) (min v (s.reg (b + 8)))
    let s := s.setReg (b + 16) (max v (s.reg (b + 16)))
    let s := s.setReg (b + 24) (min (s.reg (b + 24) + 1) (2 ^ 48 - 1))
    let n := gaugeBin v
    let o := b + 0x40 + n / 2 * 8
    let lo := n % 2 * 32
    .next (s.setReg o (setBits (s.reg o) (lo + 31) lo (min (bits (s.reg o) (lo + 31) lo + 1) (2 ^ 32 - 1))))

/-- GAUGE_CONFIG_WRITE: GCFG is written, and the gauge is cleared. -/
def execGaugeConfigWrite (die gauge : Nat) (v : DWord) (s : State) : Out :=
  let x := v.toNat
  .next (if s.recovery then s else (s.clearGauge die gauge).setReg (gaugeAt die gauge) (bits x 31 31 * 2 ^ 31 + bits x 23 0))

/-- GAUGE_FREEZE_WRITE: FREEZE of GAUGECTL. -/
def execGaugeFreezeWrite (die : Nat) (freeze : Bool) (s : State) : Out :=
  .next (if s.recovery then s else s.setReg (gaugeCtl die) freeze.toNat)

/-- GAUGE_CLEAR: every gauge of the die. -/
def execGaugeClear (die : Nat) (s : State) : Out :=
  .next (if s.recovery then s else (List.range 64).foldl (fun s g => s.clearGauge die g) s)

end Sys2Proof.Machine
end

