-- ==== Sys2Proof/Machine/HostSide.lean ====
section
/-! DEFINITION. The host side: requests over the link and BAR2 (04 R59 to R65), attestation (R68), the region table and
the secure monitor (R69, R70), page-ins (09 R182, R183), the cold queue (R187), the debugger (10 R208), channel maps and
counters (01 R13, R14, R19), and boot (04 R66, R67). -/

namespace Sys2Proof.Machine
open Sys2Proof

/-! ## Answers to the host (04 R59 to R64) -/

def State.answer (s : State) (r : HostReply) : State := { s with host := { s.host with reply := r } }

/-- The host's key among masters. -/
def hostMaster : Nat := 2 ^ 61

/-- A secure target of BAR0 (R61): the region table, channel maps, the Dwetex block and the engine's key table. -/
def secureOff (off : Nat) : Bool :=
  (0x4000 ≤ off && off < 0x5000) || (chmapBase ≤ off && off < chmapBase + 0x400) ||
  (dwetexBase ≤ off && off < dwetexBase + 0x1000) || (ueBase + 0x60000 ≤ off && off < ueBase + 0x68000)

/-- The capabilities of R59's table. -/
inductive Capability where
  | bar0 | bar2 | msix | atsPri | hints | ide | sriov
  deriving DecidableEq, Repr

/-- Configuration space answers: die initialisation has completed, or the ROM has enumerated the port in recovery mode. -/
def State.enumerated (s : State) : Bool := decide (4 ≤ s.bootStage) || s.recovery
/-- A capability is present (R59). -/
def State.offers (s : State) (c : Capability) : Bool :=
  s.enumerated && !(s.recovery && [.bar2, .msix, .atsPri, .ide, .sriov].contains c)

/-- CONFIG_REQUEST: until the port is enumerated the answer is Retry. What a configuration register reads as is a free value
of its offset and of the word last written there: the spec gives no layout (log 96). -/
def execConfigRequest (write : Bool) (off : Nat) (v : Word) (s : State) : Out :=
  let h := s.host
  if !s.enumerated then .next (s.answer .retry)
  else if write then .next (({ s with host := { h with config := h.config.set none off (some v) } } : State).answer .done)
  else .next (s.answer (.data (bytesOfNat 4 (Config.configWord off (h.config.get none off)).toNat)))

/-- A host request to a secure target is not performed; the monitor is told (R60). -/
def State.refuseHost (s : State) (write : Bool) (off : Nat) : State :=
  let s := { s with host := { s.host with monlog := s.host.monlog ++ [(hostMaster, off, s.clock)] } }
  if write then s else s.answer .unsupported

/-- HOST_SCRATCH_WRITE: the window's bytes are written; granules written wholly turn full. -/
def execHostScratchWrite (off : Nat) (bytes : List Byte) (s : State) : Out :=
  if s.recovery || 0x100000 ≤ off then .next s
  else .next (s.writeSetFull 2 s.mbox.1 (s.mbox.2 + off) (bytes.take (0x100000 - off)) true)

/-- HOST_SCRATCH_READ: the answer holds the window's bytes. -/
def execHostScratchRead (off n : Nat) (s : State) : Out :=
  if s.recovery || 0x100000 ≤ off then .next s
  else
    let m := s.mbox
    .next (s.answer (.data ((List.range (min n (0x100000 - off))).map (fun k => s.winByte 2 m.1 (m.2 + off + k)))))

/-- MBOXBASE_WRITE: ignored while a slot holds an untaken record. -/
def execMboxbaseWrite (v : DWord) (s : State) : Out :=
  .next (if s.recovery || s.fullSlot.isSome then s else s.setReg 0x10 (v.toNat % 512))

/-- MBOXERR_CLEAR: VALID and OVF are W1C. -/
def execMboxerrClear (v : DWord) (s : State) : Out :=
  let x := s.reg 0x18
  .next (if s.recovery then s else s.setReg 0x18 (setBits x 17 16 (bits x 17 16 &&& (3 - bits v.toNat 17 16))))

/-! ## Attestation (R68) -/

/-- ATTEST_GO: a write of ATTCTL. OFFSET is written; GO starts a report unless one is in progress. -/
def execAttestGo (v : DWord) (s : State) : Out :=
  let x := v.toNat
  if s.recovery then .next s else
  let s := s.setReg 0x40 (setBits (s.reg 0x40) 19 8 (bits x 19 8))
  if bits x 20 20 = 0 || s.host.attest.isSome then .next s
  else
    let m := s.mbox
    let s := s.setReg 0x40 (setBits (s.reg 0x40) 21 21 0)
    .next { s with host := { s.host with attest := some (m.1, m.2 + bits x 19 8 * 256) } }

/-- A number's n bytes, highest first, as a digest or signature is written. -/
def bigBytes (n v : Nat) : List Byte := (bytesOfNat n v).reverse
/-- The number that bytes hold, highest first. -/
def bigNat (l : List Byte) : Nat := natOfBytes l.reverse

/-- The report's first 192 bytes. -/
def State.attestBody (s : State) (nonce : List Byte) : List Byte :=
  let table := (List.range 128).flatMap (fun j => bytesOfNat 8 (s.reg (0x4000 + 8 * j)))
  nonce ++ bytesOfNat 16 Config.serial ++ Sha.sha256 s.host.boot.running ++ bytesOfNat 32 Config.dieInit ++ Sha.sha256 table ++
    bytesOfNat 4 (natOfBytes ((s.host.boot.running.drop 4).take 4)) ++ bytesOfNat 44 0

/-- The number of 32 bytes from a free value on, in 1 to order − 1: the secret number of a signature (log 12). -/
def State.secret (s : State) : Nat := (natOfBytes ((List.range 32).map (fun k => Config.freeByte (s.free + k)))) % (P256.order - 1) + 1

/-- ATTEST_DONE: the report is written over the nonce, DONE is set and vector 0 raised. The signature is by the device key,
which is a free value. -/
def execAttestDone (s : State) : Out :=
  match s.host.attest with
  | none => .next s
  | some (die, off) =>
    let body := s.attestBody ((List.range 32).map (fun k => s.winByte 2 die (off + k)))
    let l := body ++ bigBytes 64 (P256.sign Config.deviceKey s.secret (bigNat (Sha.sha256 body)))
    let s := (({ s with free := s.free + 32 } : State).writeSetFull 2 die off l false)
    let s := s.setReg 0x40 (setBits (s.reg 0x40) 21 21 1)
    .next ({ s with host := { s.host with attest := none } }.msix 0)

/-! ## The region table and the secure monitor (R69, R70) -/

/-- REGION_ENTRY_WRITE: RBASE or RLIM of an entry, unless it is locked. -/
def execRegionEntryWrite (i : Nat) (lim : Bool) (v : DWord) (s : State) : Out :=
  let o := 0x4000 + 16 * i
  if 64 ≤ i || bits (s.reg o) 2 2 = 1 then .next s
  else .next (if lim then s.setReg (o + 8) (bits v.toNat 51 16 * 65536) else s.setReg o (bits v.toNat 51 16 * 65536 + v.toNat % 8))

/-- FREEZE_RELEASE: the monitor releases a frozen master; its access raises MEMORY at its next turn, which that of a grid's
completion record takes at once. -/
def execFreezeRelease (k : Nat) (s : State) : Out :=
  let l := s.host.frozen.filter (fun f => f.1 == k)
  let s : State := { s with host := { s.host with frozen := s.host.frozen.filter (fun f => f.1 != k),
                                                  released := s.host.released ++ l.map (fun f => (f.2.1, f.2.2.1)) } }
  .next (if k = launchMaster && !l.isEmpty then s.retryEndings else s)

/-- An engine returns to its reset state: it loses the commands that it has. -/
def State.resetEngine (s : State) (k : Nat) : State :=
  if k = netMaster then
    { s with net := {}, eng := { s.eng with ops := s.eng.ops.filter (fun o => o.kind != .net) } }
  else { s with eng := { s.eng with ops := s.eng.ops.filter (fun o => o.kind == .net || o.master != k) } }

/-- The launch unit returns to its reset state: launches with teams still to place are lost, grids that have started stop
with status 3, and a completion record that could not be written is given up. -/
def State.resetLaunch (s : State) : State :=
  s.grids.cells.foldl (fun s c =>
    match (s.grid c.1).status, (s.grid c.1).ending with
    | .stored, _ => s.setGrid c.1 {}
    | .running, some st => s.gridDone c.1 st
    | .running, none => if (s.grid c.1).next < (s.grid c.1).launch.teams then s.stopGrid c.1 3 else s
    | _, _ => s) s

/-- FREEZE_BLOCK_RESET: the frozen block returns to its reset state: a core loses its groups, whose grids stop with
status 3; an engine or the launch unit loses what it has; the Assay engine is idle (log 30). -/
def execFreezeBlockReset (k : Nat) (s : State) : Out :=
  if !s.isFrozen k then .next s
  else
    let s := { s with host := { s.host with frozen := s.host.frozen.filter (fun f => f.1 != k) } }
    if k == assayMaster then .next (s.setAssay {})
    else if k == launchMaster then .next s.resetLaunch
    else if 4096 ≤ k then .next (s.resetEngine k)
    else
      let grids := uniq ((s.resident k).map (fun g => (s.group g).grid))
      let s := grids.foldl (fun s g => s.stopGrid g 3) s
      let s := s.setCore k {}
      let s := { s with parts := s.parts.clear (k * 16) 16, quads := s.quads.clear (k * 4) 4 }
      .next { s with xlat := { s.xlat with tlbs := (s.xlat.tlbs.set [] k []).set [] (2048 + k) [] } }

/-- CBUDGET_WRITE (05 R83). UNITS holds 0 to 1024; the spec does not say what a larger value does, and the model stores
any of its 11 bits as written (log 97). -/
def execCbudgetWrite (core : Nat) (v : DWord) (s : State) : Out :=
  .next { s with host := { s.host with cbudget := s.host.cbudget.set 96 core (v.toNat % 2048) } }

/-! ## Page-ins (09 R182, R183) -/

/-- Requests that wait for room in a die's queue enter it, and vector 0 is raised if PINQ was empty. -/
def State.refillPinq (s : State) (die : Nat) : State :=
  let l := s.xlat.reqs
  let room := 1024 - (l.filter (fun r => r.die == die && r.stage == 1)).length
  match (l.filter (fun r => r.die == die && r.stage == 0)).take room with
  | [] => s
  | up =>
    let open_ (l : List PageReq) : Bool := l.any (fun r => r.die == die && r.stage == 1 && !r.dele)
    let l2 := l.map (fun r => if up.contains r then { r with stage := 1 } else r)
    let t := { s with xlat := { s.xlat with reqs := l2 } }
    if !open_ l && open_ l2 then t.msix 0 else t

/-- PINQ_READ: pops one request of the die. -/
def execPinqRead (die : Nat) (s : State) : Out :=
  match s.xlat.reqs.find? (fun r => r.die == die && r.stage == 1 && !r.dele && !s.recovery) with
  | none => .next (s.answer (.data (bytesOfNat 8 0)))
  | some r =>
    let l := s.xlat.reqs.map (fun x => if x.asid == r.asid && x.page == r.page then { x with stage := 2 } else x)
    let s := { s with xlat := { s.xlat with reqs := l } }
    .next ((s.refillPinq die).answer (.data (bytesOfNat 8 (2 ^ 63 + r.kind * 2 ^ 62 + r.page * 2 ^ 16 + r.asid))))

/-- The slices whose waits name a page. -/
def State.pageSlices (s : State) (asid page : Nat) : List Nat :=
  let names (c : Cond) : Bool := match c with | .page a ps => a == asid && ps.contains page | _ => false
  s.groups.keys (fun g => (match g.wake with | some w => names w.cond | none => false) || g.subs.any (fun x => names x.wait)) ++
    (s.groups.keys (fun g => names g.a.wait)).map (fun k => sliceId k true)

/-- A page-in ends: every waiter walks again, or, when it failed, faults (R183). -/
def State.pageDone (s : State) (asid page : Nat) (fail : Bool) : State :=
  match s.xlat.reqs.find? (fun r => r.asid == asid && r.page == page) with
  | none => s
  | some r =>
    let who := s.pageSlices asid page ++ r.who
    let s := { s with xlat := { s.xlat with
      reqs := s.xlat.reqs.filter (fun x => !(x.asid == asid && x.page == page)),
      failed := if fail then uniq (s.xlat.failed ++ who.map (fun k => (k, asid, page))) else s.xlat.failed } }
    (s.enginePage asid page fail).refillPinq r.die

/-- PINDONE_WRITE. -/
def execPindoneWrite (_die : Nat) (v : DWord) (s : State) : Out :=
  .next (if s.recovery then s else s.pageDone (v.toNat % 65536) (bits v.toNat 55 16) (bits v.toNat 63 63 == 1))

/-- PAGING_DELEGATION. -/
def execPagingDelegation (asid : Nat) (on : Bool) (s : State) : Out :=
  let l := s.xlat.delegated.filter (· != asid)
  .next { s with xlat := { s.xlat with delegated := if on then l ++ [asid] else l } }

/-- DELEGATED_PAGE_IN_SERVICED. -/
def execDelegatedPageInServiced (asid page : Nat) (fail : Bool) (s : State) : Out :=
  .next (if s.xlat.delegated.contains asid then s.pageDone asid page fail else s)

/-- COLDQ_READ: pops one frame. -/
def execColdqRead (die : Nat) (s : State) : Out :=
  match if s.recovery then [] else s.xlat.coldq.get [] die with
  | [] => .next (s.answer (.data (bytesOfNat 8 0)))
  | f :: t =>
    let s := { s with xlat := { s.xlat with coldq := s.xlat.coldq.set [] die t } }
    .next (s.answer (.data (bytesOfNat 8 (2 ^ 63 + f))))

/-! ## The debugger (10 R208) -/

/-- The group that DHALT or DRELEASE names, when GO is 1. -/
def State.debugTarget (s : State) (v : DWord) : Option Nat :=
  let x := v.toNat
  if bits x 63 63 = 1 && !s.recovery then s.inSlot (bits x 18 16) (bits x 15 8) (x % 64) else none

/-- DHALT_WRITE. -/
def execDhaltWrite (v : DWord) (s : State) : Out :=
  match s.debugTarget v with
  | some k => .next (s.setGroup k { s.group k with halted := true })
  | none => .next s

/-- DRELEASE_WRITE: the group resumes, and a HOLDONWATCH hold is released. -/
def execDreleaseWrite (v : DWord) (s : State) : Out :=
  match s.debugTarget v with
  | some k => .next (s.setGroup k { s.group k with halted := false, held := false })
  | none => .next s

/-! ## Channel maps and counters (01 R10, R13, R14, R19) -/

def mapCtl (m : Nat) : Nat := chmapBase + 0x80 * m + 0x70

/-- The masks of a map meet R10: nonzero, within bits 38:6, distinct pivots, and no mask holds another's pivot. -/
def State.masksOk (s : State) (m : Nat) : Bool :=
  let l := (List.range 14).map (s.mask m)
  let pivots := l.map Nat.log2
  l.all (fun v => v != 0 && v % 64 == 0 && v / 2 ^ 39 == 0) && (uniq pivots).length == 14 &&
    (List.range 14).all (fun i => (List.range 14).all (fun j => i == j || bits (l.getD i 0) (pivots.getD j 0) (pivots.getD j 0) == 0))

/-- MAP_VALID_SET: the map comes into force if its masks meet R10; else ERR becomes 1. -/
def execMapValidSet (m : Nat) (s : State) : Out :=
  let c := s.reg (mapCtl m)
  if 8 ≤ m || bits c 1 1 = 1 then .next s
  else if s.masksOk m then .next (s.setReg (mapCtl m) (setBits c 0 0 1))
  else .next (s.setReg (mapCtl m) (setBits (setBits c 0 0 0) 2 2 1))
/-- MAP_VALID_CLEAR. -/
def execMapValidClear (m : Nat) (s : State) : Out :=
  let c := s.reg (mapCtl m)
  .next (if 8 ≤ m || bits c 1 1 = 1 then s else s.setReg (mapCtl m) (setBits c 0 0 0))
/-- MAP_LOCK_SET: LOCK clears only at reset. -/
def execMapLockSet (m : Nat) (s : State) : Out :=
  .next (if 8 ≤ m then s else s.setReg (mapCtl m) (setBits (s.reg (mapCtl m)) 1 1 1))
/-- MAP_ERR_CLEAR. -/
def execMapErrClear (m : Nat) (s : State) : Out :=
  .next (if 8 ≤ m then s else s.setReg (mapCtl m) (setBits (s.reg (mapCtl m)) 2 2 0))
/-- MASK_WRITE: ignored while the map is in force or locked. -/
def execMaskWrite (m k : Nat) (v : DWord) (s : State) : Out :=
  if 8 ≤ m || 14 ≤ k || s.reg (mapCtl m) % 4 ≠ 0 then .next s
  else .next (s.setReg (chmapBase + 0x80 * m + 8 * k) (bits v.toNat 38 6 * 64))

/-- COUNTER_CLEAR: every COUNT is 0. -/
def execCounterClear (s : State) : Out :=
  .next (if s.recovery then s else { s with host := { s.host with bar0 := s.host.bar0.clear counterBase (0x20 * 544) } })
/-- COUNTER_FREEZE_WRITE. -/
def execCounterFreezeWrite (freeze : Bool) (s : State) : Out :=
  .next (if s.recovery then s else s.setReg cntctlOff freeze.toNat)

/-! ## Reading BAR0 (R61, R66) -/

/-- What a read of a BAR0 register returns, one whose read has no effect: nothing but IDENT and BOOTSTAT in recovery mode;
QLEN of SWEEPCTL (09 R187); zero for the write-only registers. -/
def State.readBar0 (s : State) (off : Nat) : Nat :=
  let die := (off - 0x30000) / 0x1000
  if s.recovery && 8 < off then 0
  else if 0x30000 ≤ off && off < 0x38000 && off % 0x1000 = 0x18 then
    setBits (s.reg off) 47 32 (s.xlat.coldq.get [] die).length
  else if off = 0x2008 || off = 0x3200 || off = 0x3208 || (0x30000 ≤ off && off < 0x38000 && off % 0x1000 = 8) then 0
  else s.reg off

/-- HOST_SECURE_ACCESS: an access to a secure target is refused; a read of another register returns it. -/
def execHostSecureAccess (write : Bool) (off : Nat) (s : State) : Out :=
  if secureOff off && !s.recovery then .next (s.refuseHost write off)
  else if write then .next s
  else if 0x30000 ≤ off && off < 0x38000 && off % 0x1000 = 0 then execPinqRead ((off - 0x30000) / 0x1000) s
  else if 0x30000 ≤ off && off < 0x38000 && off % 0x1000 = 0x20 then execColdqRead ((off - 0x30000) / 0x1000) s
  else .next (s.answer (.data (bytesOfNat 8 (s.readBar0 (off / 8 * 8)))))

/-! ## Boot (04 R66, R67) -/

def imageHead (img : List Byte) (lo n : Nat) : List Byte := (img.drop lo).take n

/-- The STATUS of an image's checks, 0 for good: digest, signature, key and version, in the order of their codes; an
image with a bad MAGIC, a reserved byte that is not zero (00 R3) or too short a body fails its digest (log 31). -/
def imageStatus (b : Boot) (img : List Byte) : Nat :=
  let f (lo n : Nat) : Nat := natOfBytes (imageHead img lo n)
  let body := imageHead img 256 (f 8 4)
  if f 0 4 ≠ 0x39504857 || f 172 84 ≠ 0 || img.length < 256 + f 8 4 || Sha.sha256 body != imageHead img 12 32 then 1
  else if !P256.verify (bigNat (imageHead img 108 64)) (bigNat (Sha.sha256 (imageHead img 0 44))) (bigNat (imageHead img 44 64)) then 2
  else if bigNat (Sha.sha256 (imageHead img 108 64)) ≠ b.roothash then 3
  else if f 4 4 < b.minver then 4
  else 0

/-- BOOTSTAT with these fields. -/
def State.setBoot (s : State) (stage image status : Nat) : State := s.setReg 8 (stage + image * 16 + status * 256)

/-- Die initialisation ends: the region table holds one enabled entry, over region B (R69), the engine's key table is
empty (03 R56), scratch is zero and its granules empty (08 R150), and every slice has the retention share that the firmware
set, 0 to 12 steps of 16 KiB (01 R16). -/
def State.dieInitDone (s : State) : State :=
  let bar0 := (s.host.bar0.clear 0x4000 0x400).clear (ueBase + 0x60000) 0x8000
  let s := { s with host := { s.host with bar0 }, net := { s.net with keys := {} },
                    mem := { s.mem with scratch := {}, sfull := {}, share := min s.host.boot.share 12 } }
  (s.setReg 0x4000 (0x8000000000 + 7)).setReg 0x4008 0x8FFFFF0000

/-- BOOT_STAGE_CHANGE: boot advances to its next stage. Where both images fail, the spec does not say which one BOOTSTAT
shows: the model shows the backup's, IMAGE = 1 and its STATUS (log 31). -/
def execBootStageChange (s : State) : Out :=
  let b := s.host.boot
  let image := bits (s.reg 8) 7 4
  let run (img : List Byte) (k : Nat) : State :=
    ({ s with host := { s.host with boot := { b with running := img } } }.setBoot 2 k 0).msix 0
  match s.bootStage with
  | 1 =>
    if imageStatus b b.primary = 0 then .next (run b.primary 0)
    else if imageStatus b b.backup = 0 then .next (run b.backup 1)
    else .next (s.setBoot 1 1 (imageStatus b b.backup))
  | 2 => .next ((s.setBoot 3 image 0).msix 0)
  | 3 => .next ((s.dieInitDone.setBoot 4 image 0).msix 0)
  | _ => .next s

/-- POWER_ON_RESET: everything in the package returns to its reset state and boot is at stage 1; the flash, the fuses,
host memory, the nodes and the pod lie outside it. The agenda and the counter of free values are the model's own. -/
def execPowerOnReset (s : State) : Out :=
  let z := State.reset
  let hostMem := (s.mem.vers.cells.filter (fun c => tierOf c.1 == .host)).foldl
    (fun (m : FMap Byte) c => match c.2 with | v :: _ => m.set 0 c.1 v.val | [] => m)
    (s.mem.base.only (fun a => tierOf a == .host))
  let h := z.host
  let z := { z with nextId := s.nextId, free := s.free, agenda := s.agenda,
                    mem := { z.mem with base := hostMem, nodes := s.mem.nodes },
                    host := { h with boot := { s.host.boot with running := [] }, pod := s.host.pod, podNodes := s.host.podNodes } }
  .next (z.setBoot 1 0 0)

/-! ## The management ports (03 R58, 04 R66) -/

/-- MGMT_PORT_RECEIVE: traffic for the management complex: kind 0 is a firmware image, which goes to the flash's primary
image, in recovery mode too; the rest is handed over (log 32). -/
def execMgmtPortReceive (port kind : Nat) (bytes : List Byte) (s : State) : Out :=
  if kind = 0 then .next { s with host := { s.host with boot := { s.host.boot with primary := bytes } } }
  else .next { s with host := { s.host with mgmtIn := s.host.mgmtIn ++ [(port, kind, bytes)] } }

end Sys2Proof.Machine
end

