-- ==== Sys2Proof/Machine/Links.lean ====
section
/-! DEFINITION. The Dwetex ports: flits, replay and keys (02 R36 to R38), training (R41), and the failure of ports and
nodes (R39, R40). -/

namespace Sys2Proof.Machine
open Sys2Proof

/-! ## The ports' registers (R41) -/

namespace State

/-- KEYNEXT. -/
def keyNext (s : State) (p : Nat) : Nat :=
  (List.range 4).foldl (fun v k => v + s.reg (dwetexBase + 0x40 * p + 0x10 + 8 * k) * 2 ^ (64 * k)) 0

end State

/-! ## Sending (R36 to R38) -/

/-- One transmission under the active generation, unless the port holds. -/
def State.sendFlit (s : State) (p : Nat) (f : TxFlit) : State :=
  let x := s.port p
  if State.xmitLimit ≤ x.xmit then s.setPort p { x with held := some (x.held.getD f.seq) }
  else
    let y : Flit := { seq := f.seq, xmit := x.xmit, kg := x.txGen % 4, ty := f.ty, ackseq := (x.rxSeq + 2 ^ 16 - 1) % 2 ^ 16,
                      payload := f.payload, tagOk := true }
    let s := s.setPort p { x with xmit := x.xmit + 1, wire := x.wire ++ [y] }
    if x.xmit + 1 = State.xmitWarn then (s.setPstat p 40 40 1).msix 0 else s

/-- One flit is resent, and counted in REPLAYS, unless the port holds. -/
def State.sendAgain (s : State) (p : Nat) (f : TxFlit) : State :=
  let x := s.port p
  if State.xmitLimit ≤ x.xmit then s.setPort p { x with held := some (x.held.getD f.seq) }
  else
    let up (g : TxFlit) : TxFlit := if g.seq = f.seq then { g with replays := g.replays + 1 } else g
    ((s.setPort p { x with replay := x.replay.map up }).setPstat p 39 8 (s.pstat p 39 8 + 1)).sendFlit p f

/-- Resends every flit kept from `seq` on; for the flits before it, a run of replays ends. -/
def State.resendFrom (s : State) (p seq : Nat) : State :=
  let x := s.port p
  let l := x.replay.dropWhile (fun f => f.seq != seq)
  let before := (x.replay.takeWhile (fun f => f.seq != seq)).map (fun f => { f with replays := 0 })
  l.foldl (fun s f => s.sendAgain p f) (s.setPort p { x with wire := [], replay := before ++ l })

/-- The 224 bytes of a payload. -/
def payload224 (l : List Byte) : List Byte := (List.range 224).map (fun k => l.getD k 0)

/-- FLIT_SEND: a new flit is kept in the replay buffer, of 512, and sent. Nothing is sent while the port is not up, holds,
or has no room. -/
def execFlitSend (p : Nat) (ty : Byte) (payload : List Byte) (s : State) : Out :=
  let x := s.port p
  if s.portState p ≠ 2 || State.xmitLimit ≤ x.xmit || 512 ≤ x.replay.length then .next s
  else
    let f : TxFlit := { seq := x.seq, ty, payload := payload224 payload }
    let s := s.setPort p { x with seq := (x.seq + 1) % 2 ^ 32, replay := x.replay ++ [f], wire := [] }
    .next (s.sendFlit p f)

/-- The link retrains: RETRAINS counts, up to 15. -/
def State.retrain (s : State) (p : Nat) : State :=
  (s.setPstat p 7 4 (min (s.pstat p 7 4 + 1) 15)).setPstat p 1 0 1

/-- LINK_RETRAIN. -/
def execLinkRetrain (p : Nat) (s : State) : Out := .next (if s.portState p = 2 then s.retrain p else s)

/-- PORT_RETRAIN_CMD: PCTL.RETRAIN. -/
def execPortRetrainCmd (p : Nat) (s : State) : Out := .next (if s.portState p = 2 then s.retrain p else s)

/-- NAK_RECEIVE: the flit named and every later one are resent; where one of them is replayed the eighth time in a row, the
link retrains. -/
def execNakReceive (p seq : Nat) (s : State) : Out :=
  if s.portState p ≠ 2 || !((s.port p).replay.any (fun f => f.seq == seq)) then .next s
  else
    let s := s.resendFrom p seq
    let x := s.port p
    .next (if x.replay.any (fun f => 8 ≤ f.replays)
      then (s.setPort p { x with replay := x.replay.map (fun f => { f with replays := 0 }) }).retrain p else s)

/-- KEYSWAP: KEYNEXT becomes the transmit key, XMIT restarts, and a held resend goes out. -/
def execKeyswap (p : Nat) (s : State) : Out :=
  let x := s.port p
  let s := s.setPort p { x with txKey := s.keyNext p, txGen := x.txGen + 1, xmit := 0, held := none, wire := [] }
  let s := (s.setPstat p 40 40 0).setPstat p 3 2 ((x.txGen + 1) % 4)
  match x.held with
  | some seq => .next (s.resendFrom p seq)
  | none => .next s

/-! ## Receiving (R37, R38) -/

/-- Flits whose SEQ the peer has acknowledged leave the replay buffer; ACKSEQ is the low half of a SEQ. -/
def Port.ack (x : Port) (a : Nat) : Port :=
  { x with replay := x.replay.filter (fun f => 512 ≤ (a + 2 ^ 32 - f.seq) % 2 ^ 16) }

/-- A flit that is accepted. -/
def Port.accept (x : Port) (f : Flit) : Port :=
  { (x.ack f.ackseq) with rxSeq := (f.seq + 1) % 2 ^ 32,
                          accepted := x.accepted ++ [{ seq := f.seq, ty := f.ty, payload := f.payload }] }

/-- FLIT_RECEIVE: the next, the current and, for 4096 flits, the previous generation are accepted. The first flit of the
next generation that passes its tag makes it current, whatever its SEQ; the 4096 flits are those after it. -/
def execFlitReceive (p : Nat) (f : Flit) (s : State) : Out :=
  let x := s.port p
  let answer (x : Port) : State :=
    s.setPort p (if f.seq = x.rxSeq then x.accept f else { x with naks := x.naks ++ [f.seq] })
  if s.portState p ≠ 2 then .next s
  else
    let kg := f.kg % 4
    if 0 < x.rxGen && kg = (x.rxGen + 3) % 4 && 4096 ≤ x.rxSince then .next (s.retrain p)
    else if !f.tagOk || kg = (x.rxGen + 2) % 4 || (x.rxGen = 0 && kg = 3) then
      .next (s.setPort p { x with naks := x.naks ++ [f.seq], rxSince := x.rxSince + 1 })
    else if kg = (x.rxGen + 1) % 4 then
      .next (answer { x with rxPrev := x.rxKey, rxKey := s.keyNext p, rxGen := x.rxGen + 1, rxSince := 0 })
    else .next (answer { x with rxSince := x.rxSince + 1 })

/-! ## Failures (R39, R40) -/

/-- A TLB entry tagged with the node. -/
def TlbEntry.ofNode (e : TlbEntry) (n : Nat) : Bool := pteTier e.pte == 2 && pteNode e.pte == n

/-- Accesses to a node that are in flight; one that waits at its site has not left the package. -/
def State.inFlightTo (s : State) (n : Nat) : List FabricOp :=
  s.mem.fabric.filter (fun o => o.node == n && !o.replied &&
    !((s.gridOf o.gid).steer.ops.any (fun x => x.kind == 6 && x.obj == o.id)))

/-- Grids with an access to a node in flight, or a translation tagged with it. -/
def State.nodeGrids (s : State) (n : Nat) : List Nat :=
  let asids := s.xlat.tlbs.cells.flatMap (fun c => (c.2.filter (fun e => e.ofNode n)).map (·.asid))
  uniq ((s.inFlightTo n).map (fun o => (s.group o.gid).grid) ++
    (s.eng.deliveries.filter (fun d => d.relay == n + 1)).map (·.grid) ++
    (s.eng.mcasts.filter (fun m => m.node == n)).map (fun m => (s.group m.gid).grid) ++
    s.grids.keys (fun g => g.status == .running && asids.contains g.launch.asid))

/-- One access in flight to the node; a free value decides whether a store or atomic has been performed. -/
def State.failFabricOp (s : State) (n sub : Nat) (o : FabricOp) : State :=
  let maybe (s : State) : State :=
    let r := s.drawNat
    if r.1 % 2 = 1 then o.lanes.foldl (fun s l => s.nodeLane o l) r.2 else r.2
  match o.kind with
  | 0 => s.setFabric { o with replied := true, failed := sub }
  | 1 => ((maybe s).endPosted o).loseStore n o.gid
  | 2 => (maybe s).setFabric { o with replied := true, failed := 3 }
  | _ => s

/-- A FLUSH in flight to the node: it covers lost stores, or the node cannot be reached. -/
def State.failFlush (s : State) (n sub : Nat) (o : FabricOp) : State :=
  let x := s.node n
  if x.lost.contains o.gid then
    (s.setNode n { x with lost := x.lost.filter (· != o.gid) }).answerFlush o 5 0
  else s.answerFlush o sub 0

/-- No group's relay node is node n any longer (R28). -/
def State.dropRelay (s : State) (n : Nat) : State :=
  { s with groups := s.groups.mapV {} (fun g => { g with relay := g.relay.mapV 0 (fun r => if r = n + 1 then 0 else r) }) }

/-- What a port-down or node-reset event does: NSTATE `st` and FABRIC sub-code `sub`. -/
def State.failNode (s : State) (n st sub : Nat) : State :=
  let grids := s.nodeGrids n
  let s := (s.setReg (nstateOff n) st).dropRelay n
  let s := s.dropTlb (fun e => e.ofNode n)
  let mine := s.inFlightTo n
  let s := (mine.filter (fun o => o.kind != 3)).foldl (fun s o => s.failFabricOp n sub o) s
  let s := (uniq ((s.eng.mcasts.filter (fun m => m.node == n)).map (·.gid))).foldl
    (fun s g => s.loseStore n g) s
  let s := (mine.filter (fun o => o.kind == 3 && o.akind == 0)).foldl (fun s o => s.failFlush n sub o) s
  let s := (s.eng.deliveries.filter (fun d => d.relay == n + 1)).foldl
    (fun s d => (s.undelivered d.gid d.pkg).dropDelivery d.id) s
  grids.foldl (fun s g => s.causeGrid g 0xB (n * 2 ^ 60)) s

/-- A port is down, as `st` says, and its node cannot be reached through it; a package in no pod has no node (R27). -/
def State.takePortDown (s : State) (p st : Nat) : State :=
  let s := s.setPstat p 1 0 st
  if s.nodes = 0 then s else s.failNode (p % s.nodes) 2 1

/-- PORT_DOWN: loss of signal. -/
def execPortDown (p : Nat) (s : State) : Out :=
  .next (if s.portDown p then s else s.takePortDown p 0)

/-- NODE_RESET_REPORT: it comes over the links to the node that remain up. The node's memory and multicast table are
undefined from now on. -/
def execNodeResetReport (n : Nat) (s : State) : Out :=
  if !((List.range 16).any (fun p => s.reaches p n && s.portState p == 2)) then .next s
  else
    let s := s.failNode n 3 2
    let x := s.node n
    .next (s.setNode n { x with mem := {}, mcast := {}, epoch := x.epoch + 1 })

/-- NSTATE_REOPEN: ignored while every port to the node is down, and in no pod. -/
def execNstateReopen (n : Nat) (s : State) : Out :=
  .next (if (List.range 16).any (fun p => s.reaches p n && !s.portDown p) then s.setReg (nstateOff n) 1 else s)

/-! ## Training (R41) -/

/-- PORT_ENABLE: PCTL.ENABLE. Enabling trains the port and restarts RETRAINS; disabling takes it down. -/
def execPortEnable (p : Nat) (on : Bool) (s : State) : Out :=
  let was := s.reg (pctlOff p) % 2 == 1
  let s := s.setReg (pctlOff p) on.toNat
  if on && !was then
    let s := s.setPort p { s.port p with fails := 0 }
    .next ((s.setPstat p 7 4 0).setPstat p 1 0 1)
  else if !on && was then
    .next (if s.portDown p then s.setPstat p 1 0 0 else s.takePortDown p 0)
  else .next s

/-- PORT_TRAINING_COMPLETE: training ends. A failure retrains the link; the third retrain in a row that fails takes the
port down (R37). The first training after ENABLE is no retrain. -/
def execPortTrainingComplete (p : Nat) (ok : Bool) (s : State) : Out :=
  if s.portState p ≠ 1 then .next s
  else
    let x := s.port p
    let fails := if s.pstat p 7 4 = 0 then 0 else x.fails + 1
    if ok then .next ((s.setPort p { x with fails := 0 }).setPstat p 1 0 2)
    else if fails < 3 then .next ((s.setPort p { x with fails }).retrain p)
    else .next ((s.setPort p { x with fails := 0 }).takePortDown p 3)

end Sys2Proof.Machine
end

