-- ==== Sys2Proof/Machine/RegisterWrite.lean ====
section
/-! DEFINITION. REGISTER_WRITE: a write of any BAR0 register, by its offset (04 R61): read-only and reserved bits are
ignored (00 R3), a secure target refuses the host (R60), and a register with a behaviour of its own has it. -/

namespace Sys2Proof.Machine
open Sys2Proof

/-- The outcome of an operation as a state; a register write never stops. -/
def stateAfter (s : State) : Out → State
  | .next t => t
  | _ => s

/-- The bits of a register that hold what is written, for registers that do nothing else; none for an offset with no
such register. -/
def plainBits (off : Nat) : Option (List (Nat × Nat)) :=
  if 0x1000 ≤ off && off < 0x1400 then some [(63, 0)]                                      -- MSI-X table (R61)
  else if off = 0x2000 then some [(11, 0)]                                                 -- ASSAYCB (R72)
  else if 0x3000 ≤ off && off < 0x3200 then
    (match off % 32 with
     | 0 | 8 => some [(51, 0)]                                                             -- WBASE, WLIM (10 R205)
     | 16 => some [(7, 2), (0, 0)]                                                         -- WCTL
     | _ => none)
  else if dwetexBase + 0x480 ≤ off && off < dwetexBase + 0x500 then some [(2, 0)]          -- APBASE (02 R41)
  else if off = dwetexBase + 0x500 then some [(5, 0)]                                      -- PKGID
  else if dwetexBase ≤ off && off < dwetexBase + 0x400 && 0x10 ≤ off % 0x40 && off % 0x40 < 0x30 then some [(63, 0)]  -- KEYNEXT
  else if 0x30000 ≤ off && off < 0x38000 && off % 0x1000 = 0x10 then some [(51, 16)]       -- FTBASE (09 R186)
  else if 0x30000 ≤ off && off < 0x38000 && off % 0x1000 = 0x18 then some [(16, 0)]        -- SWEEPCTL (09 R187)
  else if 0x40000 ≤ off && off < 0x60000 then
    (match off % 0x4000 with
     | 0x08 => some [(15, 0)]                                                              -- SAMPSEED (11 R218)
     | 0x40 => some [(20, 16), (15, 8), (1, 0)]                                            -- REQCTL (11 R221)
     | 0xC0 => some [(63, 32), (0, 0)]                                                     -- TRCCTL (11 R214)
     | 0x28 | 0x60 | 0x98 | 0xE0 => some [(31, 0)]                                         -- TAIL of each ring (11 R210)
     | _ => none)
  else if off = ueBase then some [(39, 4), (0, 0)]                                         -- ENGCTL (03 R54)
  else if off = ueBase + 8 || off = ueBase + 0x20 then some [(63, 0)]                      -- NSCCWIN, SELFID
  else if off = ueBase + 0x10 then some [(47, 34), (32, 0)]                                -- NETDROP (03 R57)
  else if ueBase + 0x40 ≤ off && off < ueBase + 0x80 then some [(63, 0)]                   -- PORTADDR
  else if ueBase + 0x10000 ≤ off && off < ueBase + 0x52000 then some [(63, 0)]             -- peers, remote keys, counters
  else none

/-- The bits [hi, lo] of `v` replace those of `x`. -/
def takeBits (x v : Nat) (l : List (Nat × Nat)) : Nat := l.foldl (fun x b => setBits x b.1 b.2 (bits v b.1 b.2)) x

/-- A write of the engine's key table (03 R56): KEY and KEYNEXT by 8 bytes, EPOCH, FLAGS and ROLL. Where one write holds
all three, the spec gives no order: the model writes EPOCH and FLAGS, and then rolls (log 98). -/
def State.writeKeyTable (s : State) (o : Nat) (v : DWord) : State :=
  let d := o / 128
  let r := o % 128
  let k := s.keysOf d
  if r < 32 then stateAfter s (execEngineKeyLoad d (BitVec.ofNat 256 (setBits k.1 (8 * r + 63) (8 * r) v.toNat)) s)
  else if r < 64 then
    stateAfter s (execEngineKeynextLoad d (BitVec.ofNat 256 (setBits k.2.1 (8 * (r - 32) + 63) (8 * (r - 32)) v.toNat)) s)
  else if r = 64 then
    let s := s.setUe (State.keyWord d) (v.toNat % 2 ^ 34)
    if bits v.toNat 40 40 = 1 then stateAfter s (execKeyRoll d s) else s
  else s

/-- A write of MAPCTL: ERR is W1C, VALID is ignored once LOCK is 1, and LOCK only rises (01 R13). Where one write sets VALID
and LOCK, the spec gives no order: the model applies VALID before LOCK takes hold (log 98). -/
def State.writeMapCtl (s : State) (m : Nat) (v : DWord) : State :=
  let x := v.toNat
  let s := if bits x 2 2 = 1 then stateAfter s (execMapErrClear m s) else s
  let s := if x % 2 = 1 then (if s.mapValid m then s else stateAfter s (execMapValidSet m s)) else stateAfter s (execMapValidClear m s)
  if bits x 1 1 = 1 then stateAfter s (execMapLockSet m s) else s

/-- A write of PCTL (02 R41): ENABLE, then RETRAIN, then KEYSWAP, an order that is the model's choice (log 98). -/
def State.writePctl (s : State) (p : Nat) (v : DWord) : State :=
  let x := v.toNat
  let s := stateAfter s (execPortEnable p (x % 2 == 1) s)
  let s := if bits x 1 1 = 1 then stateAfter s (execPortRetrainCmd p s) else s
  if bits x 2 2 = 1 then stateAfter s (execKeyswap p s) else s

/-- A write of an observation block (11 R209). -/
def State.writeObs (s : State) (die o : Nat) (v : DWord) : State :=
  let b := obsBase die
  if 0x2000 ≤ o then (if o % 0x80 = 0 then stateAfter s (execGaugeConfigWrite die ((o - 0x2000) / 0x80) v s) else s)
  else
    match o with
    | 0x00 => stateAfter s (execSampleEnable die v s)
    | 0x10 => stateAfter s (execRingConfigWrite die 0 false v s)
    | 0x18 => stateAfter s (execRingConfigWrite die 0 true v s)
    | 0x48 => stateAfter s (execRingConfigWrite die 1 false v s)
    | 0x50 => stateAfter s (execRingConfigWrite die 1 true v s)
    | 0x80 => stateAfter s (execRingConfigWrite die 2 false v s)
    | 0x88 => stateAfter s (execRingConfigWrite die 2 true v s)
    | 0xC8 => stateAfter s (execRingConfigWrite die 3 false v s)
    | 0xD0 => stateAfter s (execRingConfigWrite die 3 true v s)
    -- DROP of each ring is W1C
    | 0x30 | 0x68 | 0xA0 | 0xE8 =>
      s.setReg (b + o) (((BitVec.ofNat 64 (s.reg (b + o))) &&& ~~~(BitVec.ofNat 64 (v.toNat % 2 ^ 32))).toNat)
    | 0x100 => stateAfter s (execPselWrite die v s)
    | 0x180 =>
      let s := stateAfter s (execGaugeFreezeWrite die (v.toNat % 2 == 1) s)
      if bits v.toNat 1 1 = 1 then stateAfter s (execGaugeClear die s) else s
    | _ => s

/-- A write of the host interface, Assay or debug registers. ASSAYCTL with GO and ABORT does GO and then ABORT, an order that
is the model's choice (log 98). -/
def State.writeHostReg (s : State) (off : Nat) (v : DWord) : State :=
  match off with
  | 0x10 => stateAfter s (execMboxbaseWrite v s)
  | 0x18 => stateAfter s (execMboxerrClear v s)
  | 0x40 => stateAfter s (execAttestGo v s)
  | 0x2008 =>
    let s := if v.toNat % 2 = 1 then stateAfter s (execAssayGo s) else s
    if bits v.toNat 1 1 = 1 then stateAfter s (execAssayAbort s) else s
  | 0x3200 => stateAfter s (execDhaltWrite v s)
  | 0x3208 => stateAfter s (execDreleaseWrite v s)
  | _ => s

/-- A write of one 8-byte register that has a behaviour of its own. -/
def State.writeReg (s : State) (off : Nat) (v : DWord) : State :=
  if off < 0x4000 then s.writeHostReg off v
  else if off < 0x4400 then stateAfter s (execRegionEntryWrite ((off - 0x4000) / 16) (off % 16 == 8) v s)
  else if chmapBase ≤ off && off < chmapBase + 0x400 then
    let o := off - chmapBase
    if o % 0x80 < 0x70 then stateAfter s (execMaskWrite (o / 0x80) (o % 0x80 / 8) v s)
    else if o % 0x80 = 0x70 then s.writeMapCtl (o / 0x80) v
    else s
  else if off = cntctlOff then
    let s := stateAfter s (execCounterFreezeWrite (v.toNat % 2 == 1) s)
    if bits v.toNat 1 1 = 1 then stateAfter s (execCounterClear s) else s
  else if dwetexBase ≤ off && off < dwetexBase + 0x400 then
    (if off % 0x40 = 8 then s.writePctl ((off - dwetexBase) / 0x40) v else s)
  else if nstateOff 0 ≤ off && off < nstateOff 16 then
    (if v.toNat % 4 = 1 then stateAfter s (execNstateReopen ((off - nstateOff 0) / 8) s) else s)
  else if 0x30000 ≤ off && off < 0x38000 then
    (if off % 0x1000 = 8 then stateAfter s (execPindoneWrite ((off - 0x30000) / 0x1000) v s) else s)
  else if 0x40000 ≤ off && off < 0x60000 then s.writeObs ((off - 0x40000) / 0x4000) (off % 0x4000) v
  else if ueBase + 0x60000 ≤ off && off < ueBase + 0x68000 then s.writeKeyTable (off - ueBase - 0x60000) v
  else s

/-- A vector whose table entry has been unmasked sends the message that it owes (04 R61; log 81). -/
def State.sendPending (s : State) (v : Nat) : State :=
  if s.msixMasked v || s.reg 0x1800 / 2 ^ v % 2 = 0 then s
  else (s.setReg 0x1800 (setBits (s.reg 0x1800) v v 0)).msix v

/-- Groups of a die that TRCCTL arms no longer are traced only from a later placement on (11 R214). -/
def State.disarm (s : State) (die : Nat) : State :=
  { s with groups := s.groups.mapV {} (fun g => if g.die = die && !s.armed g then { g with traced := false } else g) }

/-- What a write of a plain register brings about beside its new value. -/
def State.settleReg (s : State) (off : Nat) : State :=
  if 0x1000 ≤ off && off < 0x1400 then s.sendPending ((off - 0x1000) / 16)
  else if 0x40000 ≤ off && off < 0x60000 && off % 0x4000 = 0xC0 then s.disarm ((off - 0x40000) / 0x4000)
  else if ueBase + 0x30000 ≤ off && off < ueBase + 0x50000 && off % 32 = 24 then s.latchRkey ((off - ueBase - 0x30000) / 32)
  else s

/-- REGISTER_WRITE: a write of 8 bytes at an aligned offset, by the host or by secure-world software. -/
def execRegisterWrite (secure : Bool) (off : Nat) (v : DWord) (s : State) : Out :=
  let off := off / 8 * 8
  if s.recovery && !secure then .next s
  else if secureOff off && !secure then .next (s.refuseHost true off)
  else
    match plainBits off with
    | some l => .next ((s.setReg off (takeBits (s.reg off) v.toNat l)).settleReg off)
    | none => .next (s.writeReg off v)

end Sys2Proof.Machine
end

