-- ==== Sys2Proof/Machine/Dispatch.lean ====
section
/-! DEFINITION. The meaning of every instruction and event: one arm per constructor of Instr. -/

namespace Sys2Proof.Machine
open Sys2Proof

def exec (i : Instr) (s : State) : Host.Outcome State Fault Refusal :=
  match i with
  | .nop w => Sys2Proof.Machine.execNop w s
  | .mov w => Sys2Proof.Machine.execMov w s
  | .movi w lit => Sys2Proof.Machine.execMovi w lit s
  | .sel w x => Sys2Proof.Machine.execSel w x s
  | .iadd w x => Sys2Proof.Machine.execIadd w x s
  | .isub w x => Sys2Proof.Machine.execIsub w x s
  | .imul w x => Sys2Proof.Machine.execImul w x s
  | .imulh w x => Sys2Proof.Machine.execImulh w x s
  | .imad w x => Sys2Proof.Machine.execImad w x s
  | .imin w x => Sys2Proof.Machine.execImin w x s
  | .imax w x => Sys2Proof.Machine.execImax w x s
  | .iabs w x => Sys2Proof.Machine.execIabs w x s
  | .ineg w x => Sys2Proof.Machine.execIneg w x s
  | .lea w x => Sys2Proof.Machine.execLea w x s
  | .iset w x => Sys2Proof.Machine.execIset w x s
  | .andL w x => Sys2Proof.Machine.execAnd w x s
  | .orL w x => Sys2Proof.Machine.execOr w x s
  | .xorL w x => Sys2Proof.Machine.execXor w x s
  | .andnL w x => Sys2Proof.Machine.execAndn w x s
  | .notL w x => Sys2Proof.Machine.execNot w x s
  | .shl w x => Sys2Proof.Machine.execShl w x s
  | .shr w x => Sys2Proof.Machine.execShr w x s
  | .sar w x => Sys2Proof.Machine.execSar w x s
  | .rotl w x => Sys2Proof.Machine.execRotl w x s
  | .popc w x => Sys2Proof.Machine.execPopc w x s
  | .clz w x => Sys2Proof.Machine.execClz w x s
  | .brev w x => Sys2Proof.Machine.execBrev w x s
  | .bfe w x => Sys2Proof.Machine.execBfe w x s
  | .bfi w x => Sys2Proof.Machine.execBfi w x s
  | .prmt w x => Sys2Proof.Machine.execPrmt w x s
  | .pset w x => Sys2Proof.Machine.execPset w x s
  | .fadd w x => Sys2Proof.Machine.execFadd w x s
  | .fsub w x => Sys2Proof.Machine.execFsub w x s
  | .fmul w x => Sys2Proof.Machine.execFmul w x s
  | .ffma w x => Sys2Proof.Machine.execFfma w x s
  | .fmin w x => Sys2Proof.Machine.execFmin w x s
  | .fmax w x => Sys2Proof.Machine.execFmax w x s
  | .fset w x => Sys2Proof.Machine.execFset w x s
  | .fclass w x => Sys2Proof.Machine.execFclass w x s
  | .frcp w x => Sys2Proof.Machine.execFrcp w x s
  | .fsqrt w x => Sys2Proof.Machine.execFsqrt w x s
  | .frsq w x => Sys2Proof.Machine.execFrsq w x s
  | .fex2 w x => Sys2Proof.Machine.execFex2 w x s
  | .flg2 w x => Sys2Proof.Machine.execFlg2 w x s
  | .dadd w x => Sys2Proof.Machine.execDadd w x s
  | .dmul w x => Sys2Proof.Machine.execDmul w x s
  | .dfma w x => Sys2Proof.Machine.execDfma w x s
  | .dmin w x => Sys2Proof.Machine.execDmin w x s
  | .dmax w x => Sys2Proof.Machine.execDmax w x s
  | .dset w x => Sys2Proof.Machine.execDset w x s
  | .drcp w x => Sys2Proof.Machine.execDrcp w x s
  | .dsqrt w x => Sys2Proof.Machine.execDsqrt w x s
  | .hadd2 w x => Sys2Proof.Machine.execHadd2 w x s
  | .hmul2 w x => Sys2Proof.Machine.execHmul2 w x s
  | .hfma2 w x => Sys2Proof.Machine.execHfma2 w x s
  | .hmin2 w x => Sys2Proof.Machine.execHmin2 w x s
  | .hmax2 w x => Sys2Proof.Machine.execHmax2 w x s
  | .cvt w x => Sys2Proof.Machine.execCvt w x s
  | .qnt w x => Sys2Proof.Machine.execQnt w x s
  | .dqnt w x => Sys2Proof.Machine.execDqnt w x s
  | .scle w x => Sys2Proof.Machine.execScle w x s
  | .pack w x => Sys2Proof.Machine.execPack w x s
  | .unpk w x => Sys2Proof.Machine.execUnpk w x s
  | .shfl w x => Sys2Proof.Machine.execShfl w x s
  | .vote w x => Sys2Proof.Machine.execVote w x s
  | .redux w x => Sys2Proof.Machine.execRedux w x s
  | .scan w x => Sys2Proof.Machine.execScan w x s
  | .matchL w x => Sys2Proof.Machine.execMatch w x s
  | .fenceW w => Sys2Proof.Machine.execFenceW w s
  | .fenceTm w => Sys2Proof.Machine.execFenceTm w s
  | .fenceGl w => Sys2Proof.Machine.execFenceGl w s
  | .movs w => Sys2Proof.Machine.execMovs w s
  | .rdlane w x => Sys2Proof.Machine.execRdlane w x s
  | .ld w x => Sys2Proof.Machine.execLd w x s
  | .st w x => Sys2Proof.Machine.execSt w x s
  | .ldr w x => Sys2Proof.Machine.execLdr w x s
  | .atom w x => Sys2Proof.Machine.execAtom w x s
  | .atomf w x => Sys2Proof.Machine.execAtomf w x s
  | .cas w x => Sys2Proof.Machine.execCas w x s
  | .atld w x => Sys2Proof.Machine.execAtld w x s
  | .pref w x => Sys2Proof.Machine.execPref w x s
  | .bra w => Sys2Proof.Machine.execBra w s
  | .brx w x => Sys2Proof.Machine.execBrx w x s
  | .jmpr w x => Sys2Proof.Machine.execJmpr w x s
  | .call w x => Sys2Proof.Machine.execCall w x s
  | .calli w x => Sys2Proof.Machine.execCalli w x s
  | .ret w x => Sys2Proof.Machine.execRet w x s
  | .jset w => Sys2Proof.Machine.execJset w s
  | .join w => Sys2Proof.Machine.execJoin w s
  | .exit w => Sys2Proof.Machine.execExit w s
  | .bpt w => Sys2Proof.Machine.execBpt w s
  | .smov w => Sys2Proof.Machine.execSmov w s
  | .smovImm w => Sys2Proof.Machine.execSmovImm w s
  | .smovi w lit => Sys2Proof.Machine.execSmovi w lit s
  | .sadd w => Sys2Proof.Machine.execSadd w s
  | .ssub w => Sys2Proof.Machine.execSsub w s
  | .smul w => Sys2Proof.Machine.execSmul w s
  | .smin w => Sys2Proof.Machine.execSmin w s
  | .smax w => Sys2Proof.Machine.execSmax w s
  | .sand w => Sys2Proof.Machine.execSand w s
  | .sor w => Sys2Proof.Machine.execSor w s
  | .sxor w => Sys2Proof.Machine.execSxor w s
  | .sshl w => Sys2Proof.Machine.execSshl w s
  | .sshr w => Sys2Proof.Machine.execSshr w s
  | .ssar w => Sys2Proof.Machine.execSsar w s
  | .sset w x => Sys2Proof.Machine.execSset w x s
  | .ssel w x => Sys2Proof.Machine.execSsel w x s
  | .slea w x => Sys2Proof.Machine.execSlea w x s
  | .sld w x => Sys2Proof.Machine.execSld w x s
  | .sst w x => Sys2Proof.Machine.execSst w x s
  | .sbra w lit => Sys2Proof.Machine.execSbra w lit s
  | .sloop w lit => Sys2Proof.Machine.execSloop w lit s
  | .sread w x => Sys2Proof.Machine.execSread w x s
  | .swrite w x => Sys2Proof.Machine.execSwrite w x s
  | .phase w x => Sys2Proof.Machine.execPhase w x s
  | .phaseRel w x => Sys2Proof.Machine.execPhaseRel w x s
  | .phaseAcq w x => Sys2Proof.Machine.execPhaseAcq w x s
  | .bar w x => Sys2Proof.Machine.execBar w x s
  | .arrive w x => Sys2Proof.Machine.execArrive w x s
  | .waitlow w x => Sys2Proof.Machine.execWaitlow w x s
  | .trigger w => Sys2Proof.Machine.execTrigger w s
  | .waitv w x => Sys2Proof.Machine.execWaitv w x s
  | .xacq w => Sys2Proof.Machine.execXacq w s
  | .xrel w => Sys2Proof.Machine.execXrel w s
  | .hold w x => Sys2Proof.Machine.execHold w x s
  | .name w => Sys2Proof.Machine.execName w s
  | .rstv w x => Sys2Proof.Machine.execRstv w x s
  | .gang w x => Sys2Proof.Machine.execGang w x s
  | .qpush w x => Sys2Proof.Machine.execQpush w x s
  | .qpop w x => Sys2Proof.Machine.execQpop w x s
  | .aqld w x => Sys2Proof.Machine.execAqld w x s
  | .aqst w x => Sys2Proof.Machine.execAqst w x s
  | .qslip w => Sys2Proof.Machine.execQslip w s
  | .mcall w x => Sys2Proof.Machine.execMcall w x s
  | .mcload w lit => Sys2Proof.Machine.execMcload w lit s
  | .trap w => Sys2Proof.Machine.execTrap w s
  | .rftRetry w => Sys2Proof.Machine.execRftRetry w s
  | .rftNext w => Sys2Proof.Machine.execRftNext w s
  | .rftJump w => Sys2Proof.Machine.execRftJump w s
  | .launch w x => Sys2Proof.Machine.execLaunch w x s
  | .launchNb w x => Sys2Proof.Machine.execLaunchNb w x s
  | .copy w x => Sys2Proof.Machine.execCopy w x s
  | .gather w x => Sys2Proof.Machine.execGather w x s
  | .bwait w x => Sys2Proof.Machine.execBwait w x s
  | .qfence w x => Sys2Proof.Machine.execQfence w x s
  | .mmaR w x => Sys2Proof.Machine.execMmaR w x s
  | .mmaT w x => Sys2Proof.Machine.execMmaT w x s
  | .accld w x => Sys2Proof.Machine.execAccld w x s
  | .accst w x => Sys2Proof.Machine.execAccst w x s
  | .accz w x => Sys2Proof.Machine.execAccz w x s
  | .mres w x => Sys2Proof.Machine.execMres w x s
  | .flushNode w x => Sys2Proof.Machine.execFlushNode w x s
  | .flushPkg w x => Sys2Proof.Machine.execFlushPkg w x s
  | .nsend w x => Sys2Proof.Machine.execNsend w x s
  | .nget w x => Sys2Proof.Machine.execNget w x s
  | .npost w x => Sys2Proof.Machine.execNpost w x s
  | .nwait w x => Sys2Proof.Machine.execNwait w x s
  | .nctrRd w x => Sys2Proof.Machine.execNctrRd w x s
  | .nctrSet w x => Sys2Proof.Machine.execNctrSet w x s
  | .nctrAdd w x => Sys2Proof.Machine.execNctrAdd w x s
  | .reshard w x => Sys2Proof.Machine.execReshard w x s
  | .rstat w x => Sys2Proof.Machine.execRstat w x s
  | .pgreq w x => Sys2Proof.Machine.execPgreq w x s
  | .pgtier w x => Sys2Proof.Machine.execPgtier w x s
  | .shoot w x => Sys2Proof.Machine.execShoot w x s
  | .shootAll w x => Sys2Proof.Machine.execShootAll w x s
  | .digest w x => Sys2Proof.Machine.execDigest w x s
  | .longResultWrite g k => Sys2Proof.Machine.execLongResultWrite g k s
  | .queueEntryFill g q => Sys2Proof.Machine.execQueueEntryFill g q s
  | .handlerEnter part => Sys2Proof.Machine.execHandlerEnter part s
  | .walkStart die => Sys2Proof.Machine.execWalkStart die s
  | .homeAtomic k => Sys2Proof.Machine.execHomeAtomic k s
  | .supersededNotice core => Sys2Proof.Machine.execSupersededNotice core s
  | .commitVisible k => Sys2Proof.Machine.execCommitVisible k s
  | .fabricLoadReply k => Sys2Proof.Machine.execFabricLoadReply k s
  | .multicastStoreArrive m => Sys2Proof.Machine.execMulticastStoreArrive m s
  | .deliveryArrive k ext => Sys2Proof.Machine.execDeliveryArrive k ext s
  | .engineWritePerformed k => Sys2Proof.Machine.execEngineWritePerformed k s
  | .mmaComplete k => Sys2Proof.Machine.execMmaComplete k s
  | .matrixResume k => Sys2Proof.Machine.execMatrixResume k s
  | .reshardUnitCommit k u pulled status => Sys2Proof.Machine.execReshardUnitCommit k u pulled status s
  | .pgtierCopy k => Sys2Proof.Machine.execPgtierCopy k s
  | .shootAck k agent => Sys2Proof.Machine.execShootAck k agent s
  | .slotTake slot => Sys2Proof.Machine.execSlotTake slot s
  | .teamDispatch grid die core => Sys2Proof.Machine.execTeamDispatch grid die core s
  | .mgmtEvict g => Sys2Proof.Machine.execMgmtEvict g s
  | .groupRestore g die core slot => Sys2Proof.Machine.execGroupRestore g die core slot s
  | .groupDrainEnd g => Sys2Proof.Machine.execGroupDrainEnd g s
  | .gridAbort grid => Sys2Proof.Machine.execGridAbort grid s
  | .roundEnd grid => Sys2Proof.Machine.execRoundEnd grid s
  | .horizonRecompute => Sys2Proof.Machine.execHorizonRecompute s
  | .waitforBuild => Sys2Proof.Machine.execWaitforBuild s
  | .powerWindowEnd other energy => Sys2Proof.Machine.execPowerWindowEnd other energy s
  | .overtemp die => Sys2Proof.Machine.execOvertemp die s
  | .scrubLine line => Sys2Proof.Machine.execScrubLine line s
  | .sweepVisit die => Sys2Proof.Machine.execSweepVisit die s
  | .sampleTick die core part => Sys2Proof.Machine.execSampleTick die core part s
  | .gaugeSample die gauge value => Sys2Proof.Machine.execGaugeSample die gauge value s
  | .powerOnReset => Sys2Proof.Machine.execPowerOnReset s
  | .configRequest write off v => Sys2Proof.Machine.execConfigRequest write off v s
  | .hostSecureAccess write off => Sys2Proof.Machine.execHostSecureAccess write off s
  | .hostScratchWrite off bytes => Sys2Proof.Machine.execHostScratchWrite off bytes s
  | .hostScratchRead off n => Sys2Proof.Machine.execHostScratchRead off n s
  | .mboxbaseWrite v => Sys2Proof.Machine.execMboxbaseWrite v s
  | .mboxerrClear v => Sys2Proof.Machine.execMboxerrClear v s
  | .attestGo v => Sys2Proof.Machine.execAttestGo v s
  | .attestDone => Sys2Proof.Machine.execAttestDone s
  | .regionEntryWrite n lim v => Sys2Proof.Machine.execRegionEntryWrite n lim v s
  | .freezeRelease k => Sys2Proof.Machine.execFreezeRelease k s
  | .freezeBlockReset k => Sys2Proof.Machine.execFreezeBlockReset k s
  | .assayGo => Sys2Proof.Machine.execAssayGo s
  | .assayAbort => Sys2Proof.Machine.execAssayAbort s
  | .assayRunEnd => Sys2Proof.Machine.execAssayRunEnd s
  | .assayTouchmark => Sys2Proof.Machine.execAssayTouchmark s
  | .cbudgetWrite core v => Sys2Proof.Machine.execCbudgetWrite core v s
  | .pinqRead die => Sys2Proof.Machine.execPinqRead die s
  | .pindoneWrite die v => Sys2Proof.Machine.execPindoneWrite die v s
  | .coldqRead die => Sys2Proof.Machine.execColdqRead die s
  | .dhaltWrite v => Sys2Proof.Machine.execDhaltWrite v s
  | .dreleaseWrite v => Sys2Proof.Machine.execDreleaseWrite v s
  | .sampleEnable die v => Sys2Proof.Machine.execSampleEnable die v s
  | .ringConfigWrite die ring len v => Sys2Proof.Machine.execRingConfigWrite die ring len v s
  | .pselWrite die v => Sys2Proof.Machine.execPselWrite die v s
  | .gaugeConfigWrite die gauge v => Sys2Proof.Machine.execGaugeConfigWrite die gauge v s
  | .gaugeFreezeWrite die freeze => Sys2Proof.Machine.execGaugeFreezeWrite die freeze s
  | .gaugeClear die => Sys2Proof.Machine.execGaugeClear die s
  | .mapValidSet m => Sys2Proof.Machine.execMapValidSet m s
  | .mapValidClear m => Sys2Proof.Machine.execMapValidClear m s
  | .mapLockSet m => Sys2Proof.Machine.execMapLockSet m s
  | .mapErrClear m => Sys2Proof.Machine.execMapErrClear m s
  | .maskWrite m k v => Sys2Proof.Machine.execMaskWrite m k v s
  | .counterClear => Sys2Proof.Machine.execCounterClear s
  | .counterFreezeWrite freeze => Sys2Proof.Machine.execCounterFreezeWrite freeze s
  | .keyswap p => Sys2Proof.Machine.execKeyswap p s
  | .portRetrainCmd p => Sys2Proof.Machine.execPortRetrainCmd p s
  | .portEnable p on => Sys2Proof.Machine.execPortEnable p on s
  | .nstateReopen n => Sys2Proof.Machine.execNstateReopen n s
  | .flitSend p ty payload => Sys2Proof.Machine.execFlitSend p ty payload s
  | .flitReceive p f => Sys2Proof.Machine.execFlitReceive p f s
  | .nakReceive p seq => Sys2Proof.Machine.execNakReceive p seq s
  | .linkRetrain p => Sys2Proof.Machine.execLinkRetrain p s
  | .portDown p => Sys2Proof.Machine.execPortDown p s
  | .nodeResetReport n => Sys2Proof.Machine.execNodeResetReport n s
  | .packetForm k => Sys2Proof.Machine.execPacketForm k s
  | .packetReceive p => Sys2Proof.Machine.execPacketReceive p s
  | .ackReceive pdc psn => Sys2Proof.Machine.execAckReceive pdc psn s
  | .sackReceive pdc cum bitmap => Sys2Proof.Machine.execSackReceive pdc cum bitmap s
  | .notReadyReceive pdc msg => Sys2Proof.Machine.execNotReadyReceive pdc msg s
  | .sackTimer pdc => Sys2Proof.Machine.execSackTimer pdc s
  | .sackPacketCount pdc => Sys2Proof.Machine.execSackPacketCount pdc s
  | .rtoExpiry pdc => Sys2Proof.Machine.execRtoExpiry pdc s
  | .rmaReadRequest p => Sys2Proof.Machine.execRmaReadRequest p s
  | .engineKeyLoad d key => Sys2Proof.Machine.execEngineKeyLoad d key s
  | .engineKeynextLoad d key => Sys2Proof.Machine.execEngineKeynextLoad d key s
  | .keyRoll d => Sys2Proof.Machine.execKeyRoll d s
  | .mgmtPortReceive port kind bytes => Sys2Proof.Machine.execMgmtPortReceive port kind bytes s
  | .registerWrite secure off v => Sys2Proof.Machine.execRegisterWrite secure off v s
  | .portTrainingComplete p ok => Sys2Proof.Machine.execPortTrainingComplete p ok s
  | .dirtyLineWriteBack line => Sys2Proof.Machine.execDirtyLineWriteBack line s
  | .walkComplete k => Sys2Proof.Machine.execWalkComplete k s
  | .bootStageChange => Sys2Proof.Machine.execBootStageChange s
  | .pagingDelegation asid on => Sys2Proof.Machine.execPagingDelegation asid on s
  | .delegatedPageInServiced asid page fail => Sys2Proof.Machine.execDelegatedPageInServiced asid page fail s
  | .corePowerGating core on => Sys2Proof.Machine.execCorePowerGating core on s

end Sys2Proof.Machine
end

