-- ==== Sys2Proof/Machine/Issue.lean ====
section
/-! DEFINITION. Issue: which subgroup or A-slice may issue (05 R84, R85; 07 R127, R132), fetching and decoding its next
instruction (13 R240, R241), the agenda, and what happens next where the agenda is silent (log 1). -/

namespace Sys2Proof.Machine
open Sys2Proof

/-! ## Readiness (R84, R85) -/

/-- The quadrant issues in this clock (01 R21). -/
def State.dutyOn (s : State) (qk : Nat) : Bool := decide (s.clock % 16 < s.dutyOf qk)

/-- A group that may issue, but for its own waits. -/
def State.awake (s : State) (g : Group) : Bool :=
  g.status == .running && !g.halted && !s.coreFrozen g.coreKey && s.dutyOn g.quadKey

/-- The two PCs with the most active lanes, ties to the lower PC (R84); subgroups that wait at a BAR stand aside. -/
def Group.candidates (g : Group) : List Sub :=
  let l := g.subs.filter (fun x => match x.wait with | .bar _ _ => false | _ => true)
  (FMap.sortBy (fun (x : Sub) => (128 - x.lanes.count) * 2 ^ 64 + x.pc) l).take 2

/-- A subgroup parked at a fabric load, whose answer its next issue writes: it goes ahead of the candidates. -/
def Group.resumes (g : Group) : Option Sub :=
  match g.wake with
  | some w =>
    (match w.cond with
     | .fabric _ => g.subs.find? (fun x => x.lanes == w.lanes)
     | .none => if g.longs.any (·.fabric) then g.subs.find? (fun x => x.lanes == w.lanes) else none
     | _ => none)
  | none => none

/-- The subgroups that a group offers. -/
def Group.offers (g : Group) : List Sub := match g.resumes with | some x => [x] | none => g.candidates

/-- Each subgroup ages from the clock at which its PC becomes a candidate (R84). -/
def Group.aged (now : Nat) (g : Group) : Group :=
  let c := g.candidates
  { g with subs := g.subs.map (fun x =>
      if c.contains x then { x with cand := true, since := if x.cand then x.since else now } else { x with cand := false }) }
def State.refresh (s : State) : State := { s with groups := s.groups.mapV {} (Group.aged s.clock) }

/-- A result that a switch marker waits for (07 R127): a fabric load's is written by its own issue. -/
def Group.markerWaits (g : Group) : Bool := g.marker && { g with longs := g.longs.filter (!·.fabric) : Group }.anyPending

/-- A candidate is ready: its group is not parked, nor for a handler at a steering site (06 R111), and its interlock is
over. A group of a grid that stops only ends the instructions that it is in. -/
def State.subReady (s : State) (gid : Nat) (x : Sub) : Bool :=
  let g := s.group gid
  s.awake g && !g.markerWaits && (x.handler || !s.siteParked gid) && s.holds gid x.wait &&
  (!(s.grid g.grid).stopping || x.mid) &&
  (match g.wake with
   | none => true
   | some w => s.holds gid w.cond || (x.handler && w.cond == .site))

/-- The A-slice may issue: it has not stopped at a fault, and what it waits for has come (07 R132, R139). -/
def State.aReady (s : State) (gid : Nat) : Bool :=
  let g := s.group gid
  s.awake g && g.sliced && g.a.fault.isNone && !(s.grid g.grid).stopping && s.holds gid g.a.wait

/-! ## What a word that is no instruction does (R240) -/

/-- The words with the field that selects a form at an assigned value, for LAUNCH that of LAUNCH.NB, which uses every
other field. -/
def clearSelector (op w e : Nat) : Nat × Nat :=
  match op with
  | 0x4D => (w / 64 * 64, e)
  | 0x33 => (w / 128 * 128, e)
  | 0x18 => (w, setBits e 31 27 0)
  | 0x34 => (w, setBits e 31 27 1)
  | _ => (w, setBits e 11 8 0)

/-- The sub-code of ILLEGAL for words that decode to nothing. -/
def State.rejectCode (s : State) (r : Reject) (w e : Nat) : Nat :=
  match r with
  | .selector op =>
    if s.cur.aslice then 5
    else if op = 0x62 && !s.supervisor then 6
    else if op = 0x33 && !s.cur.handler then 4
    else
      let p := clearSelector op w e
      match decodeWords p.1 p.2 with
      | .ok i => if i.wfCode = 2 then 2 else 3
      | .error _ => 3
  | _ => 1

/-- The lanes at which a first word acts: those whose guard holds. -/
def State.wordLanes (s : State) (w : Nat) : Mask :=
  let g := s.g
  if s.cur.aslice then Mask.full
  else if isG w then (if g.guardG (guardOf w) then s.cur.lanes else 0)
  else s.active (guardOf w)

/-- ILLEGAL at the active lanes; a subgroup with none passes over the word. -/
def State.reject (s : State) (r : Reject) (w e : Nat) : State :=
  let m := s.wordLanes w
  if m = 0 then s.finish (bit w 30) {} else s.raiseAll (bit w 30) ILLEGAL (s.rejectCode r w e) m

/-! ## Issue -/

/-- The words are known: the instruction executes. -/
def issueWords (w e : Nat) (ext : Bool) (s : State) : Out :=
  let len := if s.cur.micro.isSome || ext then 8 else 4
  let s := { s with cur := { s.cur with w0 := w, w1 := e, len } }
  match decodeWords w e with
  | .ok i => exec i s
  | .error r => .next (s.reject r w e)

/-- A first word that has been fetched: its extension word follows, unless no lane is active. -/
def issueFirst (w : Nat) (s : State) : Out :=
  let s1 := { s with cur := { s.cur with w0 := w, len := if hasExt w then 8 else 4 } }
  if !hasExt w then issueWords w 0 false s
  else if s.cur.stage = 0 && s1.wordLanes w = 0 then .next (s1.finish (bit w 30) {})
  else
    let a := (s.cur.pc + 4) % 2 ^ 64
    fetchMany (bit w 30) [a] s1 (fun l s =>
      match answerAt l a with
      | .ok e => issueWords w e true s
      | .fault cls sub => .next (s.raiseAddr (bit w 30) cls sub (s.wordLanes w) a 0)
      | _ => .next s)

/-- Fetch at the PC; a fault is raised at every lane of the subgroup. -/
def fetchIssue (s : State) : Out :=
  let a := s.cur.pc
  fetchMany false [a] s (fun l s =>
    match answerAt l a with
    | .ok w => issueFirst w s
    | .fault cls sub => .next (s.raiseAddr false cls sub s.cur.lanes a 0)
    | _ => .next s)

/-- The next operation of a microprogram, with its parameters (17 R340). -/
def issueMicro (slot k : Nat) (s : State) : Out :=
  match (s.microOps slot)[k]? with
  | some (w, e, ext) =>
    let p := substWords (parOf (s.cur.maux % 2 ^ 32)) w e ext
    issueWords p.1 p.2 ext s
  | none => .next (s.finish false {})

/-- A wait at which the whole group parks: once it is over, the instruction runs again. -/
def Cond.parks : Cond → Bool
  | .bar _ _ => false
  | c => c.blocking

/-- A subgroup issues its next instruction: its group is parked no longer, unless a handler runs beside a site operation. A
fabric load is issued again, or takes its answer: its registers are pending no longer. -/
def issueSub (gid : Nat) (x : Sub) (s : State) : Out :=
  let g := s.group gid
  let g1 : Group := { g with wake := g.wake.filter (fun w => w.cond == .site && s.siteParked gid), marker := false,
                             longs := g.longs.filter (fun y => !(y.fabric && y.pc == x.pc)),
                             subs := g.subs.map (fun y => if y.lanes == x.lanes || y.wait.parks then { y with wait := .none } else y) }
  let c : Cur := { gid, lanes := x.lanes, pc := x.pc, handler := x.handler, micro := x.micro, maux := x.maux,
                   stage := x.stage, aux := x.aux }
  let s := ({ s with cur := c, host := { s.host with lastIssue := (s.clock, gid, x.pc) } }).setGroup gid g1
  match x.micro with
  | some (slot, k) => issueMicro slot k s
  | none => fetchIssue s

/-- The A-slice issues its next instruction (07 R132). -/
def issueA (gid : Nat) (s : State) : Out :=
  let g := s.group gid
  let c : Cur := { gid, lanes := Mask.full, pc := g.a.pc, aslice := true }
  fetchIssue (({ s with cur := c }).setGroup gid { g with a := { g.a with wait := .none, since := s.clock } })

/-- A turn of the agenda: the candidate issues if it is ready. -/
def issueTurn (gid pc : Nat) (aslice : Bool) (s : State) : Out :=
  if aslice then (if s.aReady gid then issueA gid s else .next s)
  else
    match (s.group gid).offers.find? (fun x => x.pc == pc && s.subReady gid x) with
    | some x => issueSub gid x s
    | none => .next s

/-! ## Where the agenda is silent (log 1) -/

/-- An event that may be due, and the clock since which it is. -/
abbrev Due := Nat × (State → Out)

/-- Clocks from the issue of a long operation to its result, that of an uncontended team memory load (R86; log 1). -/
def longClocks : Nat := 24
/-- Clocks in a microsecond (00 R1). -/
def clocksPerUs : Nat := 700

/-- Events of the cores and homes that may be due, with the clock since which they are. -/
def State.coreDue (s : State) : List Due :=
  s.gids.flatMap (fun k =>
    let g := s.group k
    (g.longs.filter (fun x => x.ready && x.at_ + longClocks ≤ s.clock)).map (fun x => (x.at_ + longClocks, execLongResultWrite k x.id)) ++
    ((List.range 4).filter (fun q => (g.queue q).any (fun e => !e.filled))).map (fun q => (0, execQueueEntryFill k q)) ++
    (match g.trap with | some t => if t.entered then [] else [(t.since, execHandlerEnter g.partKey)] | none => []) ++
    (if g.status == .draining || (g.status == .running && (s.grid g.grid).stopping) then [(g.exitAt, execGroupDrainEnd k)] else []) ++
    (if g.status == .evicted || g.status == .migrating then
      (List.range 64).map (fun n => (g.placedAt, execGroupRestore k g.die g.core n)) else [])) ++
  (s.xlat.walks.map (fun w => (w.at_, if w.inFlight then execWalkComplete w.id else execWalkStart w.die))) ++
  (s.mem.homeOps.map (fun o => (o.at_, execHomeAtomic o.id))) ++
  (s.mem.commits.flatMap (fun c => c.notices.map (fun n => (c.at_, execSupersededNotice n)) ++ [(c.at_, execCommitVisible c.id)])) ++
  ((s.mem.fabric.filter (fun o => !o.replied)).map (fun o => (o.at_, execFabricLoadReply o.id))) ++
  (s.eng.deliveries.map (fun d => (d.at_, execDeliveryArrive d.id none)))

/-- Events of one engine command. -/
def EngOp.due (o : EngOp) : List (State → Out) :=
  match o.kind with
  | .mma | .mres => [execMmaComplete o.id, execMatrixResume o.id]
  | .net => [execPacketForm o.id]
  | .reshard => execReshardUnitCommit o.id 0 [] 0 :: o.open_.map (fun u => execReshardUnitCommit o.id u [] 0)
  | .pgtier => [execPgtierCopy o.id]
  | .shoot => (o.open_.take 1).map (fun a => execShootAck o.id a)
  | _ => [execEngineWritePerformed o.id]

/-- Events of the engines, of the launch unit and of the grids. -/
def State.unitDue (s : State) : List Due :=
  (s.eng.ops.flatMap (fun o => o.due.map (fun i => (o.at_, i)))) ++
  (s.eng.mcasts.map (fun m => (0, execMulticastStoreArrive { die := m.die, off := m.off, bytes := m.bytes, op := some m.op }))) ++
  (s.net.wire.map (fun p => (s.clock, if p.kind = 2 then execRmaReadRequest p else execPacketReceive p))) ++
  (s.net.rx.flatMap (fun r => (s.clock, execSackPacketCount r.id) ::
    (if r.last + 2 * clocksPerUs ≤ s.clock then [(r.last + 2 * clocksPerUs, execSackTimer r.id)] else []))) ++
  (s.net.pdcs.filterMap (fun p =>
    let at_ := p.last + clocksPerUs * max 1 (bits (s.ue 0) 23 8)
    if at_ ≤ s.clock then some (at_, execRtoExpiry p.id) else none)) ++
  (s.net.replies.map (fun r => (s.clock, match r with
    | .sack p c b => execSackReceive p c (BitVec.ofNat 64 b)
    | .ack p n => execAckReceive p n
    | .notReady p m => execNotReadyReceive p m))) ++
  (s.fullSlot.toList.map (fun n => (0, execSlotTake n))) ++
  ((s.queueOrder.filterMap (fun k => (s.lowestCore (s.grid k).launch).map (fun x => (0, execTeamDispatch k x.1 x.2.1))))) ++
  ((s.grids.keys (fun g => g.status == .running && g.launch.mode == 2)).map (fun k => (s.clock, execRoundEnd k))) ++
  (match s.assay.phase with
   | .idle => []
   | .checking => [(0, execAssayGo)]
   | .running => [(0, execAssayRunEnd)]
   | .ended => [(0, execAssayTouchmark)]) ++
  (if s.clock % s.mem.scrubPeriod = 0 then (s.mem.weakLines ++ s.mem.badLines).map (fun n => (s.clock, execScrubLine n)) else []) ++
  (if s.clock % 256 = 0 then [(s.clock, execHorizonRecompute)] else []) ++
  (if s.clock % 2 ^ 20 = 0 then [(s.clock, execWaitforBuild)] else [])

/-- The first due event that does something, oldest first. -/
def State.firstDue (s : State) : Option Out :=
  (FMap.sortBy (·.1) (s.coreDue ++ s.unitDue)).findSome? (fun x =>
    match x.2 s with
    | .next t => if t = s then none else some (.next t)
    | r => some r)

/-- The oldest ready candidate: age, then slot, then PC. -/
def State.firstIssue (s : State) : Option Out :=
  let cs := s.gids.flatMap (fun k =>
    let g := s.group k
    ((g.offers.filter (fun x => s.subReady k x)).map (fun x => (x.since, k, some x))) ++
    (if s.aReady k then [(g.a.since, k, none)] else []))
  match FMap.sortBy (fun c => (c.1 * 64 + (s.group c.2.1).slot)) cs with
  | [] => none
  | (_, k, some x) :: _ => some (issueSub k x s)
  | (_, k, none) :: _ => some (issueA k s)

/-- The sampling ticks of the clock before, in the order of cores and partitions (R210). -/
def State.sampleAll (s : State) : State :=
  (s.parts.cells.filter (fun c => c.2.tick ≠ 0 && c.2.tick < s.clock)).foldl (fun s c =>
    s.sampleTick (c.1 / 4096) (c.1 / 16 % 256) (c.1 % 16)) s

/-- With no agenda, ticks that have come write their records; then events and issue take turns, and each yields to the
other when it has nothing to do. -/
def State.auto (s : State) : Out :=
  let s := s.sampleAll
  let even := s.clock % 2 = 0
  match (if even then s.firstIssue else s.firstDue) with
  | some r => r
  | none =>
    match (if even then s.firstDue else s.firstIssue) with
    | some r => r
    | none => .next s

/-! ## A step -/

/-- Why nothing happens any more: power has been removed, or the package is offline; a power-on reset ends both. -/
def State.stopped (s : State) : Option Fault :=
  match s.agenda with
  | .event .powerOnReset :: _ => none
  | _ => if !s.powered then some .powerOff else if s.offline then some .offline else none

/-- What this clock holds: the head of the agenda, or what the machine does by itself. -/
def State.turn (s : State) : Out :=
  match s.agenda with
  | .event i :: t => if i.isInstruction then .next { s with agenda := t } else exec i { s with agenda := t }
  | .issue gid pc aslice :: t => issueTurn gid pc aslice { s with agenda := t }
  | [] => s.auto

/-! ## Placing an instruction (log 33) -/

/-- The address at which `placeWord` puts its instruction: the first line of the LPDDR 6 tier, mapped at VA 0. -/
def wordPa : Nat := 0x10000000000

/-- The leaf that maps it: valid, resident, LPDDR 6, with R, W, X, A and D. -/
def wordPte (secure : Bool) : Nat := wordPa + 0x1F00 + 2 ^ 5 + (if secure then 2 ^ 7 else 0) + 5

/-- A supervisor grid of one team of one group, running at VA 0 on core 0, whose first line holds these bytes. Its core
is awake and its translation is in its TLB; the next turn issues its instruction. -/
def State.placeBytes (s : State) (l : List Byte) : State :=
  let k := s.nextId
  let gid := s.nextId + 1
  let line := (List.range 64).map (fun j => (wordPa + j, l.getD j 0))
  let ln : Launch := { groups := 1, teams := 1, roles := [1], tmem := 4096 }
  let slot := ((List.range 16).find? (fun n => (s.inSlot 0 0 n).isNone)).getD 0
  let sec := s.secureAt wordPa
  let m := s.mem
  let base := line.foldl (fun (b : FMap Byte) x => b.set 0 x.1 x.2) m.base
  let t : TlbEntry := { asid := 0, va := 0, size := 16, pte := wordPte sec, pteAddr := 0 }
  let tlb := t :: (s.xlat.tlbs.get [] 0).filter (fun e => !(e.asid == 0 && e.va / 2 ^ e.size == 0))
  let g := newGroup ln k 0 0 0 0 slot s.clock s.clock
  let h := s.host
  let s := ({ s with mem := { m with base, vers := m.vers.clear wordPa 64 } }).wholeLines line
  let s := { s with
    nextId := gid + 1, powered := true, offline := false,
    xlat := { s.xlat with tlbs := s.xlat.tlbs.set [] 0 tlb },
    host := { h with frozen := h.frozen.filter (fun f => f.1 != 0), secure := if sec then 0 :: h.secure else h.secure },
    agenda := .issue gid 0 false :: s.agenda }
  let s := s.setQuad (slot / 16) { s.quad (slot / 16) with duty := 0 }
  let s := s.setGrid k { status := .running, launch := ln, order := k, next := 1, started := true, cut := s.clock }
  let s := s.setTeam (teamKey k 0) { live := true, grid := k, gids := [gid] }
  s.setGroup gid g

end Sys2Proof.Machine
end

