-- ==== Sys2Proof/Machine/Step.lean ====
section
/-! DEFINITION. One step of the machine: a clock, in which one turn is taken. -/

namespace Sys2Proof.Machine
open Sys2Proof

/-- One step: the clock advances, candidates age, and the agenda's head, or the machine itself, acts. -/
def step (s : State) : Host.Outcome State Fault Refusal :=
  match s.stopped with
  | some f => .fault f
  | none => ({ s with clock := s.clock + 1 } : State).refresh.turn

/-- The state with an instruction placed where the next step fetches (log 33). -/
def State.withFetchWord (s : State) (nbits w : Nat) : State :=
  let v := w % 2 ^ nbits
  s.placeBytes (bytesOfWord v ++ bytesOfWord (v / 2 ^ 32))

end Sys2Proof.Machine
end

