-- ==== Sys2Proof/Safety.lean ====
section
/-! DEFINITION. The terms that claims use: what a run may end in, when an instruction executes with its own effect, and
what an instruction leaves unchanged. -/

namespace Sys2Proof.Machine
open Sys2Proof

/-! ## Runs -/

/-- The outcome is a next state in which `P` holds. -/
def Gives (o : Out) (P : State → Prop) : Prop := ∃ t, o = .next t ∧ P t

/-- States that some steps from `s` lead to. -/
inductive Reaches (s : State) : State → Prop where
  | here : Reaches s s
  | more (t u : State) : Reaches s t → step t = .next u → Reaches s u

/-- The global memory, the scratch of every die and the memory of every live team are in canonical form. -/
def State.memWf (s : State) : Prop := Memory.wf s.mem.base = true ∧ Memory.wf s.mem.scratch = true

/-! ## When an instruction executes (07 R119, R124, R128, R144; 13 R240; 01 R24) -/

/-- The registers of `f` raise none of the checks at the lanes `m`: they lie in the budget, none is pending, no source
is held, and no source word is bad. -/
structure State.Clear (s : State) (f : Foot) (m : Mask) : Prop where
  budget : ∀ r ∈ f.vr ++ f.vw, r < vLimit s.g.budget
  pendV : ∀ r ∈ f.vr ++ f.vw, r ∉ s.g.pendV
  pendS : ∀ r ∈ f.sr ++ f.sw, r ∉ s.g.pendS
  pendP : ∀ r ∈ f.pr ++ f.pw, r ∉ s.g.pendP
  pendQ : ∀ r ∈ f.qr ++ f.qw, r ∉ s.g.pendQ
  held : ∀ r ∈ f.vr, s.g.holds.get 0 r = 0
  soft : s.g.softHit f m = none

/-- The L-set instruction `i` executes for the subgroup being issued: some lane is active, its fields are legal, and
its registers `f` pass the checks. -/
structure LaneRuns (i : Instr) (guard : BitVec 3) (f : Foot) (s : State) : Prop where
  first : s.cur.stage = 0
  lane : s.cur.aslice = false
  active : s.active guard ≠ 0
  fields : i.wfCode = 0
  clear : s.Clear { f with pr := preds guard ++ f.pr } (s.active guard)

/-- The G-set instruction `i` executes for the subgroup being issued. -/
structure GroupRuns (i : Instr) (guard : BitVec 3) (f : Foot) (s : State) : Prop where
  first : s.cur.stage = 0
  lane : s.cur.aslice = false
  holds : s.g.guardG guard = true
  some : s.cur.lanes ≠ 0
  fields : i.wfCode = 0
  clear : s.Clear { f with qr := preds guard ++ f.qr } s.cur.lanes

/-- The G-set instruction `i` executes for the A-slice (07 R132): no guard, and registers a0 to a15. -/
structure SliceRuns (i : Instr) (guard : BitVec 3) (f : Foot) (s : State) : Prop where
  first : s.cur.stage = 0
  slice : s.cur.aslice = true
  always : guard = 7
  fields : i.wfCode = 0
  regs : ∀ r ∈ f.sr ++ f.sw, r < 16

/-! ## What stays (the frame) -/

/-- A group without its registers, its subgroups, its long results, `fpflags`, its counts of instructions, the wait that
an issue ends, the soft-error marks that a write ends, the reads that follow deliveries, and what the A-slice steps
through. All the rest of the group: cut, names, budget, holds, traps, queues, stack, unpublished bytes and more. -/
def Group.others (g : Group) : Group :=
  { g with v := {}, p := {}, s := {}, q := {}, subs := [], longs := [], spec := { g.spec with fpflags := 0 },
           issued := 0, retired := 0, marker := false, wake := none, bad := [], lastDelivery := {},
           a := { g.a with pc := 0, regs := {}, wait := .none } }

/-- The machine without its groups, the partitions, and the next number. -/
def State.others (s : State) : State := { s with groups := {}, parts := {}, nextId := 0 }

/-- Every byte of memory reads as before: the global memory, team memory and scratch, and the nodes. -/
structure MemKept (s t : State) : Prop where
  phys : ∀ pa, t.newest pa = s.newest pa
  win : ∀ space place off, t.winByte space place off = s.winByte space place off
  node : ∀ n a, t.nodeByte n a = s.nodeByte n a

/-- From `s` to `t` nothing changed but registers and the place of the issuing group's lanes: every other group, every
part of the machine (memory, special registers, accumulators, the handler sets, grids, teams and engines) and what
`Group.others` lists are as before. The operand latch may change, which is timing. -/
structure Kept (s t : State) : Prop where
  machine : t.others = s.others
  group : t.g.others = s.g.others
  groups : ∀ k, k ≠ s.cur.gid → t.group k = s.group k
  parts : ∀ k, { t.part k with latch := [] } = { s.part k with latch := [] }
  memory : MemKept s t

/-- The registers of the issuing group but for those listed, by class, are as before. -/
structure RegsKept (s t : State) (v p sr q : List Nat) : Prop where
  vectors : ∀ r, r ∉ v → t.g.vreg r = s.g.vreg r
  preds : ∀ r, r ∉ p → t.g.pred r = s.g.pred r
  scalars : ∀ r, r ∉ sr → t.g.sreg r = s.g.sreg r
  gpreds : ∀ r, r ∉ q → t.g.qpred r = s.g.qpred r

/-- Where the lanes of an instruction go when it does not branch: the next word, or the next operation of the
microprogram that holds it, or past the MCALL after the last (07 R119, 17 R340). -/
def State.nextPlace (s : State) : Nat × Option (Nat × Nat) :=
  match s.cur.micro with
  | none => (s.cur.npc, none)
  | some (slot, k) => if k + 1 < (s.microOps slot).length then (s.cur.pc, some (slot, k + 1)) else (s.cur.npc, none)

/-- The lanes `m` stand at a PC, in or out of a microprogram, in one subgroup. -/
def Group.standAt (g : Group) (m : Mask) (pc : Nat) (micro : Option (Nat × Nat)) : Prop :=
  ∃ x ∈ g.subs, x.lanes &&& m = m ∧ x.pc = pc ∧ x.micro = micro

/-- The lanes of the issued subgroup, or the A-slice, have moved on to the next instruction. -/
def Advanced (s t : State) : Prop :=
  if s.cur.aslice then t.g.a.pc = s.cur.npc else t.g.standAt s.cur.lanes s.nextPlace.1 s.nextPlace.2

/-- `n` registers from v(d) hold the words of `val` at the lanes `m`, and what they held at the others. -/
def Group.wroteV (g h : Group) (d n : Nat) (m : Mask) (val : Nat → Nat) : Prop :=
  ∀ j < n, ∀ l < 128, (h.vreg (d + j)).get l =
    if m.has l then BitVec.ofNat 32 (val l / 2 ^ (32 * j)) else (g.vreg (d + j)).get l

/-- p(r) holds `val` at the lanes `m`, and what it held at the others. -/
def Group.wroteP (g h : Group) (r : Nat) (m : Mask) (val : Nat → Bool) : Prop :=
  ∀ l < 128, (h.pred r).has l = if m.has l then val l else (g.pred r).has l

/-- The destination registers of n words at d. -/
def destV (d n : Nat) : List Nat := (List.range n).map (d + ·)

/-- An instruction ended: of the group's registers only those listed changed, `flags` were ORed into `fpflags`, the
long results `longs` were added, the lanes moved on, and nothing else changed. -/
structure Wrote (s t : State) (v p sr q : List Nat) (flags : Nat) (longs : List Long) : Prop where
  regs : RegsKept s t v p sr q
  flags : t.g.spec.fpflags = s.g.spec.fpflags ||| flags
  longs : t.g.longs = s.g.longs ++ longs
  kept : Kept s t
  next : Advanced s t

/-- An L-set instruction wrote n registers from v(d) at the lanes m. -/
def WroteLanes (s t : State) (d n : Nat) (m : Mask) (val : Nat → Nat) (flags : Nat) : Prop :=
  s.g.wroteV t.g d n m val ∧ Wrote s t (destV d n) [] [] [] flags []

/-- An L-set instruction wrote p(r) at the lanes m. -/
def WrotePred (s t : State) (r : Nat) (m : Mask) (val : Nat → Bool) (flags : Nat) : Prop :=
  s.g.wroteP t.g r m val ∧ Wrote s t [] [r] [] [] flags []

/-- A long operation's result for n registers from v(d) at the lanes m is on its way: no register changed yet, and the
destination is pending (07 R127). -/
def PendsLanes (s t : State) (d n : Nat) (m : Mask) (val : Nat → Nat) (flags : Nat) : Prop :=
  ∃ x : Long, x.vs = (List.range n).map (fun j => (d + j, m, Lanes.make (fun l => BitVec.ofNat 32 (val l / 2 ^ (32 * j))))) ∧
    x.ps = [] ∧ x.ss = [] ∧ x.qs = [] ∧ x.flags = flags ∧ x.ready = true ∧ x.pc = s.cur.pc ∧
    Wrote s t [] [] [] [] 0 [x]

/-- A long operation's result for p(r) at the lanes m is on its way. -/
def PendsPred (s t : State) (r : Nat) (m : Mask) (val : Nat → Bool) (flags : Nat) : Prop :=
  ∃ x : Long, x.ps = [(r, m, Mask.of val)] ∧ x.vs = [] ∧ x.ss = [] ∧ x.qs = [] ∧ x.flags = flags ∧ x.ready = true ∧
    x.pc = s.cur.pc ∧ Wrote s t [] [] [] [] 0 [x]

/-! ## What an L-set instruction does -/

/-- Wherever `i` executes it writes `n` registers from v(d) at the active lanes at once: `val` gives a lane's value and
flags from the group and the active lanes; `reads` are the registers it reads. -/
def LaneWrites (i : Instr) (w : LA) (reads : Foot) (n : Nat) (val : Group → Mask → Nat → Nat × Nat) : Prop :=
  ∀ s, LaneRuns i w.guard { reads with vw := regs w.d n ++ reads.vw } s →
    Gives (exec i s) (fun t => WroteLanes s t w.d.toNat n (s.active w.guard)
      (fun l => (val s.g (s.active w.guard) l).1)
      (orLanes (s.active w.guard) (fun l => (val s.g (s.active w.guard) l).2)))

/-- The same for an instruction of one 32-bit result and no flag. -/
def LaneWord (i : Instr) (w : LA) (reads : List Nat) (val : Group → Nat → Nat) : Prop :=
  LaneWrites i w { vr := reads } 1 (fun g _ l => (val g l, 0))

/-- Wherever `i` executes its result for `n` registers from v(d) is a long result (07 R127). -/
def LanePends (i : Instr) (w : LA) (reads : List Nat) (n : Nat) (val : Group → Nat → Nat × Nat) : Prop :=
  ∀ s, LaneRuns i w.guard { vr := reads, vw := regs w.d n } s →
    Gives (exec i s) (fun t => PendsLanes s t w.d.toNat n (s.active w.guard) (fun l => (val s.g l).1)
      (orLanes (s.active w.guard) (fun l => (val s.g l).2)))

/-- Wherever `i` executes it writes p(pd) at the active lanes at once. -/
def LaneTests (i : Instr) (w : LA) (pd : BitVec 3) (reads : Foot) (val : Group → Nat → Bool × Nat) : Prop :=
  ∀ s, LaneRuns i w.guard { reads with pw := preds pd ++ reads.pw } s →
    Gives (exec i s) (fun t => WrotePred s t pd.toNat (s.active w.guard) (fun l => (val s.g l).1)
      (orLanes (s.active w.guard) (fun l => (val s.g l).2)))

/-- Wherever `i` executes its result for p(pd) is a long result. -/
def LaneTestPends (i : Instr) (w : LA) (pd : BitVec 3) (reads : List Nat) (val : Group → Nat → Bool × Nat) : Prop :=
  ∀ s, LaneRuns i w.guard { vr := reads, pw := preds pd } s →
    Gives (exec i s) (fun t => PendsPred s t pd.toNat (s.active w.guard) (fun l => (val s.g l).1)
      (orLanes (s.active w.guard) (fun l => (val s.g l).2)))

/-- Wherever `i` executes it writes v(d) at the active lanes, and p(pd) beside it unless pd is 7. -/
def LaneWritesBoth (i : Instr) (w : LA) (pd : BitVec 3) (reads : List Nat) (val : Group → Mask → Nat → Nat × Bool) :
    Prop :=
  ∀ s, LaneRuns i w.guard { vr := reads, vw := regs w.d 1, pw := preds pd } s →
    Gives (exec i s) (fun t =>
      s.g.wroteV t.g w.d.toNat 1 (s.active w.guard) (fun l => (val s.g (s.active w.guard) l).1) ∧
      (pd ≠ 7 → s.g.wroteP t.g pd.toNat (s.active w.guard) (fun l => (val s.g (s.active w.guard) l).2)) ∧
      Wrote s t [w.d.toNat] (preds pd) [] [] 0 [])

end Sys2Proof.Machine
end

