-- ==== Sys2Proof/Certificates/Slice0/Obligations.lean ====
section
/-! DEFINITION. The statements for the provers. Each docstring names the rules of the spec that it formalises. -/

open Sys2Proof Sys2Proof.Machine

namespace Sys2Proof.Claims

/-! ## Values of the lane arithmetic, written from chapter 15 -/

/-- Least and greatest value of .i32 (type 1) and .n32 (type 2). -/
def lo (ty : BitVec 4) : Int := if ty = 1 then -(2 ^ 31) else 0
def hi (ty : BitVec 4) : Int := if ty = 1 then 2 ^ 31 - 1 else 2 ^ 32 - 1

/-- R269: clamped under `.sat`, then mod 2^32. -/
def keep (x : LXA) (v : Int) : Nat := ((if x.sat then max (lo x.ty) (min v (hi x.ty)) else v) % 2 ^ 32).toNat

/-- An operand as its type reads it: .i32 signed, .n32 unsigned. -/
def num (x : LXA) (v : Word) : Int := if x.ty = 1 then v.toInt else v.toNat

/-- Sources a, b (register or sign-extended immediate) and c of a lane. -/
def A (g : Group) (w : LA) (l : Nat) : Word := (g.vreg w.a.toNat).get l
def B (g : Group) (w : LA) (x : LXA) (l : Nat) : Word :=
  if x.c = 1 then x.imm.signExtend 32 else (g.vreg w.b.toNat).get l
def B3 (g : Group) (w : LA) (l : Nat) : Word := (g.vreg w.b.toNat).get l
def C (g : Group) (x : LXA) (l : Nat) : Word := (g.vreg x.c.toNat).get l

/-- Registers that an instruction of one, two or three sources of n registers each reads. -/
def readsA (n : Nat) (w : LA) : List Nat := regs w.a n
def readsAB (n : Nat) (w : LA) (x : LXA) : List Nat := regs w.a n ++ (if x.c = 1 then [] else regs w.b n)
def readsABC (n : Nat) (w : LA) (x : LXA) : List Nat := regs w.a n ++ regs w.b n ++ regs x.c n

/-- The scale of LEA (R270). -/
def scale (ty : BitVec 4) : Int := if ty = 4 then 1 else if ty = 5 then 2 else if ty = 0 then 4 else 8

/-- Position and length of a bit field (R273). -/
def pos (k : Word) : Nat := k.toNat % 32
def len (k : Word) : Nat := min (k.toNat / 32 % 64) 32

/-- Bit j of the field that BFE takes: past bit 31 it reads 0, or bit 31 under .i32. -/
def fieldBit (x : LXA) (a k : Word) (j : Nat) : Bool :=
  if pos k + j < 32 then a.getLsbD (pos k + j) else x.ty == 1 && a.getLsbD 31

/-- A word from its bits. -/
def ofBits (f : Nat → Bool) : Nat := ((List.range 32).map (fun j => (f j).toNat * 2 ^ j)).sum

/-- BFE and BFI (R273). -/
def bfe (x : LXA) (a k : Word) : Nat :=
  if len k = 0 then 0
  else ofBits (fun j => if j < len k then fieldBit x a k j else x.ty == 1 && fieldBit x a k (len k - 1))
def bfi (a k c : Word) : Nat :=
  ofBits (fun j => if pos k ≤ j ∧ j < min (pos k + len k) 32 then a.getLsbD (j - pos k) else c.getLsbD j)

/-- Byte n of A (0 to 3) and B (4 to 7), and PRMT's result byte (R274). -/
def byteOf (a b : Word) (n : Nat) : Nat := (if n < 4 then a.toNat / 256 ^ n else b.toNat / 256 ^ (n - 4)) % 256
def prmtByte (a b c : Word) (i : Nat) : Nat :=
  let n := c.toNat / 16 ^ i % 16
  let v := byteOf a b (n % 8)
  if 8 ≤ n then (if 128 ≤ v then 255 else 0) else v

/-- A condition of R267 on two integers. -/
def holds (c : Nat) (a b : Int) : Bool :=
  if c = 0 then a == b else if c = 1 then a != b else if c = 2 then decide (a < b) else if c = 3 then decide (a ≤ b)
  else if c = 4 then decide (a > b) else decide (a ≥ b)

/-- A predicate operand of PSET and VOTE: p0 to p6, or true. -/
def predAt (g : Group) (k l : Nat) : Bool := if k = 7 then true else (g.pred k).has l

/-- Floating sources with abs taken before negation; source b may be the immediate, converted exactly (R263, R265). -/
def FA (t : Fp.Fmt) (g : Group) (w : LA) (x : LXA) (l : Nat) : Nat := srcFA t g w x l
def FB (t : Fp.Fmt) (g : Group) (w : LA) (x : LXA) (l : Nat) : Nat := srcFB t g w x l
def FB3 (t : Fp.Fmt) (g : Group) (w : LA) (x : LXA) (l : Nat) : Nat := srcFB3 t g w x l
def FC (t : Fp.Fmt) (g : Group) (x : LXA) (l : Nat) : Nat := srcFC t g x l

/-- An exact value rounded once, its flags ORed with those of the exact operation (R250, R253). -/
def once (t : Fp.Fmt) (x : LXA) (r : Fp.Num × Nat) : Nat × Nat :=
  ((Fp.round t x.rnd.toNat false r.1).1, (Fp.round t x.rnd.toNat false r.1).2 ||| r.2)

/-- Exact sums, differences, products and fused products of codes. -/
def exactAdd (t : Fp.Fmt) (x : LXA) (a b : Nat) : Fp.Num × Nat := Fp.sum x.rnd.toNat [Fp.decode t a, Fp.decode t b]
def exactSub (t : Fp.Fmt) (x : LXA) (a b : Nat) : Fp.Num × Nat :=
  Fp.sum x.rnd.toNat [Fp.decode t a, (Fp.decode t b).neg]
def exactMul (t : Fp.Fmt) (a b : Nat) : Fp.Num × Nat := Fp.mul (Fp.decode t a) (Fp.decode t b)
def exactFma (t : Fp.Fmt) (x : LXA) (a b c : Nat) : Fp.Num × Nat :=
  ((Fp.sum x.rnd.toNat [(exactMul t a b).1, Fp.decode t c]).1,
   (Fp.sum x.rnd.toNat [(exactMul t a b).1, Fp.decode t c]).2 ||| (exactMul t a b).2)

/-- A packed operation on the two halves of a register, flags ORed (R281). -/
def packed (f : Nat → Nat × Nat) : Nat × Nat := ((f 0).1 % 2 ^ 16 + (f 1).1 % 2 ^ 16 * 2 ^ 16, (f 0).2 ||| (f 1).2)
/-- Half k of a source with its modifiers. -/
def HA (t : Fp.Fmt) (g : Group) (w : LA) (x : LXA) (l k : Nat) : Nat :=
  modify t x.abs x.na ((A g w l).toNat / 2 ^ (16 * k) % 2 ^ 16)
def HB (t : Fp.Fmt) (g : Group) (w : LA) (x : LXA) (l k : Nat) : Nat :=
  modify t x.abs x.nb ((B3 g w l).toNat / 2 ^ (16 * k) % 2 ^ 16)
def HC (t : Fp.Fmt) (g : Group) (x : LXA) (l k : Nat) : Nat :=
  modify t x.abs x.nc ((C g x l).toNat / 2 ^ (16 * k) % 2 ^ 16)
/-- The element type of a packed instruction. -/
def half (x : LXA) : Fp.Fmt := if x.ty = 9 then Fp.f16 else Fp.bf16

/-- The second type code of a conversion (R264). -/
def ty2 (x : LXA) : Nat := x.imm.toNat % 16

/-- R303 over a nonempty list of terms: integers are combined here, `.f32` by exact sum or R278. -/
def combine (op : Nat) (x : LXA) (l : List Word) : Nat × Nat :=
  if x.ty = 3 then Alu.combine op x.ty x.rnd l
  else if op = 0 then (((l.map (num x)).sum % 2 ^ 32).toNat, 0)
  else if op = 1 then ((((l.map (num x)).min?.getD 0) % 2 ^ 32).toNat, 0)
  else if op = 2 then ((((l.map (num x)).max?.getD 0) % 2 ^ 32).toNat, 0)
  else if op = 3 then (ofBits (fun j => l.all (·.getLsbD j)), 0)
  else if op = 4 then (ofBits (fun j => l.any (·.getLsbD j)), 0)
  else (ofBits (fun j => (l.filter (·.getLsbD j)).length % 2 == 1), 0)

/-- The identity of an exclusive SCAN. -/
def identity (op : Nat) (x : LXA) : Nat :=
  if op = 1 then (if x.ty = 3 then 0x7F800000 else if x.ty = 1 then 0x7FFFFFFF else 0xFFFFFFFF)
  else if op = 2 then (if x.ty = 3 then 0xFF800000 else if x.ty = 1 then 0x80000000 else 0)
  else if op = 3 then 0xFFFFFFFF else 0

/-- Terms of lane l: participating lanes up to l, or before l under `.excl`. -/
def terms (g : Group) (w : LA) (m : Mask) (upto : Nat) : List Word :=
  ((List.range upto).filter m.has).map (A g w)

end Sys2Proof.Claims

open Sys2Proof.Claims

/-- R268, R269, R270: MOV between v registers and MOVI copy 32 bits; the integer family computes exactly, clamps under
`.sat` and keeps the result mod 2^32; LEA forms a 64-bit address in a pair. Each writes its destination at the active
lanes, sets no flag, moves on, and changes nothing else. -/
def Obligations.LaneIntegerResult : Prop := ∀ (w : LA) (x : LXA) (lit : Word),
  (w.b = 0 → LaneWord (.mov w) w (readsA 1 w) (fun g l => (A g w l).toNat)) ∧
  LaneWord (.movi w lit) w [] (fun _ _ => lit.toNat) ∧
  LaneWord (.iadd w x) w (readsAB 1 w x) (fun g l => keep x (num x (A g w l) + num x (B g w x l))) ∧
  LaneWord (.isub w x) w (readsAB 1 w x) (fun g l => keep x (num x (A g w l) - num x (B g w x l))) ∧
  LaneWord (.imul w x) w (readsAB 1 w x) (fun g l => keep x (num x (A g w l) * num x (B g w x l))) ∧
  LaneWord (.imulh w x) w (readsAB 1 w x)
    (fun g l => ((num x (A g w l) * num x (B g w x l) / 2 ^ 32) % 2 ^ 32).toNat) ∧
  LaneWord (.imad w x) w (readsABC 1 w x)
    (fun g l => keep x (num x (A g w l) * num x (B3 g w l) + num x (C g x l))) ∧
  LaneWord (.imin w x) w (readsAB 1 w x) (fun g l => keep x (min (num x (A g w l)) (num x (B g w x l)))) ∧
  LaneWord (.imax w x) w (readsAB 1 w x) (fun g l => keep x (max (num x (A g w l)) (num x (B g w x l)))) ∧
  LaneWord (.iabs w x) w (readsA 1 w) (fun g l => keep x (A g w l).toInt.natAbs) ∧
  LaneWord (.ineg w x) w (readsA 1 w) (fun g l => keep x (-(A g w l).toInt)) ∧
  LaneWrites (.lea w x) w { vr := regs w.a 2 ++ (if x.c = 1 then [] else regs w.b 1) } 2
    (fun g _ l => ((((g.v64 w.a.toNat l : Int) + (B g w x l).toInt * scale x.ty) % 2 ^ 64).toNat, 0))

/-- R272, R275: the logic and shift instructions, and SEL in its two modes. -/
def Sys2Proof.Claims.LaneLogicResult : Prop := ∀ (w : LA) (x : LXA),
  LaneWord (.andL w x) w (readsAB 1 w x) (fun g l => (A g w l &&& B g w x l).toNat) ∧
  LaneWord (.orL w x) w (readsAB 1 w x) (fun g l => (A g w l ||| B g w x l).toNat) ∧
  LaneWord (.xorL w x) w (readsAB 1 w x) (fun g l => (A g w l ^^^ B g w x l).toNat) ∧
  LaneWord (.andnL w x) w (readsAB 1 w x) (fun g l => (A g w l &&& ~~~ B g w x l).toNat) ∧
  LaneWord (.notL w x) w (readsA 1 w) (fun g l => 2 ^ 32 - 1 - (A g w l).toNat) ∧
  LaneWord (.shl w x) w (readsAB 1 w x) (fun g l => (A g w l).toNat * 2 ^ (B g w x l).toNat % 2 ^ 32) ∧
  LaneWord (.shr w x) w (readsAB 1 w x) (fun g l => (A g w l).toNat / 2 ^ (B g w x l).toNat) ∧
  LaneWord (.sar w x) w (readsAB 1 w x)
    (fun g l => ((A g w l).toInt / 2 ^ (B g w x l).toNat % 2 ^ 32).toNat) ∧
  LaneWord (.rotl w x) w (readsAB 1 w x)
    (fun g l => ofBits (fun j => (A g w l).getLsbD ((j + 32 - (B g w x l).toNat % 32) % 32))) ∧
  LaneWord (.popc w x) w (readsA 1 w) (fun g l => ((List.range 32).filter (A g w l).getLsbD).length) ∧
  LaneWord (.clz w x) w (readsA 1 w)
    (fun g l => ((List.range 33).find? (fun n => n == 32 || (A g w l).getLsbD (31 - n))).getD 0) ∧
  LaneWord (.brev w x) w (readsA 1 w) (fun g l => ofBits (fun j => (A g w l).getLsbD (31 - j))) ∧
  LaneWrites (.sel w x) w
    { vr := regs w.a 1 ++ regs w.b 1 ++ (if x.pd = 7 then regs x.c 1 else []), pr := preds x.pd } 1
    (fun g _ l => ((if x.pd = 7 then (A g w l &&& C g x l) ||| (B3 g w l &&& ~~~ C g x l)
      else if (g.pred x.pd.toNat).has l then A g w l else B3 g w l).toNat, 0))

/-- R273, R274: bit fields extracted and inserted, and bytes permuted. -/
def Sys2Proof.Claims.LaneFieldResult : Prop := ∀ (w : LA) (x : LXA),
  LaneWord (.bfe w x) w (readsAB 1 w x) (fun g l => bfe x (A g w l) (B g w x l)) ∧
  LaneWord (.bfi w x) w (readsABC 1 w x) (fun g l => bfi (A g w l) (B3 g w l) (C g x l)) ∧
  LaneWord (.prmt w x) w (readsABC 1 w x) (fun g l =>
    let b (i : Nat) : Nat := prmtByte (A g w l) (B3 g w l) (C g x l) i
    b 0 + b 1 * 2 ^ 8 + b 2 * 2 ^ 16 + b 3 * 2 ^ 24)

/-- R267, R271, R276: ISET, PSET and FSET write the condition, or the table's bit, to pd at the active lanes. -/
def Obligations.LanePredicateResult : Prop := ∀ (w : LA) (x : LXA),
  LaneTests (.iset w x) w x.pd { vr := readsAB 1 w x }
    (fun g l => (holds (w.d.toNat % 16) (num x (A g w l)) (num x (B g w x l)), 0)) ∧
  LaneTests (.pset w x) w x.pd { pr := preds (BitVec.ofNat 3 (x.imm.toNat / 16)) ++ preds (BitVec.ofNat 3 (x.imm.toNat / 128)) }
    (fun g l => (x.imm.getLsbD (2 * (predAt g (x.imm.toNat / 16 % 8) l).toNat + (predAt g (x.imm.toNat / 128 % 8) l).toNat), 0)) ∧
  LaneTests (.fset w x) w x.pd { vr := readsAB 1 w x }
    (fun g l => Fp.cond (w.d.toNat % 16) (Fp.decode Fp.f32 (FA Fp.f32 g w x l)) (Fp.decode Fp.f32 (FB Fp.f32 g w x l)))

/-- R277, R278, R279, R281: the short floating-point instructions compute exactly, round once and OR their flags. -/
def Obligations.LaneFloatResult : Prop := ∀ (w : LA) (x : LXA),
  LaneWrites (.fadd w x) w { vr := readsAB 1 w x } 1
    (fun g _ l => once Fp.f32 x (exactAdd Fp.f32 x (FA Fp.f32 g w x l) (FB Fp.f32 g w x l))) ∧
  LaneWrites (.fsub w x) w { vr := readsAB 1 w x } 1
    (fun g _ l => once Fp.f32 x (exactSub Fp.f32 x (FA Fp.f32 g w x l) (FB Fp.f32 g w x l))) ∧
  LaneWrites (.fmul w x) w { vr := readsAB 1 w x } 1
    (fun g _ l => once Fp.f32 x (exactMul Fp.f32 (FA Fp.f32 g w x l) (FB Fp.f32 g w x l))) ∧
  LaneWrites (.ffma w x) w { vr := readsABC 1 w x } 1
    (fun g _ l => once Fp.f32 x (exactFma Fp.f32 x (FA Fp.f32 g w x l) (FB3 Fp.f32 g w x l) (FC Fp.f32 g x l))) ∧
  LaneWrites (.fmin w x) w { vr := readsAB 1 w x } 1
    (fun g _ l => Fp.minMax Fp.f32 false (FA Fp.f32 g w x l) (FB Fp.f32 g w x l)) ∧
  LaneWrites (.fmax w x) w { vr := readsAB 1 w x } 1
    (fun g _ l => Fp.minMax Fp.f32 true (FA Fp.f32 g w x l) (FB Fp.f32 g w x l)) ∧
  (∀ t, Fp.Fmt.ofCode x.ty.toNat = some t → LaneWrites (.fclass w x) w { vr := readsA (if x.ty = 11 then 2 else 1) w } 1
    (fun g _ l => (Alu.classOf t (g.codeF t w.a l % 2 ^ (t.w + 1)), 0))) ∧
  LaneWrites (.hadd2 w x) w { vr := regs w.a 1 ++ regs w.b 1 } 1 (fun g _ l =>
    packed (fun k => once (half x) x (exactAdd (half x) x (HA (half x) g w x l k) (HB (half x) g w x l k)))) ∧
  LaneWrites (.hmul2 w x) w { vr := regs w.a 1 ++ regs w.b 1 } 1 (fun g _ l =>
    packed (fun k => once (half x) x (exactMul (half x) (HA (half x) g w x l k) (HB (half x) g w x l k)))) ∧
  LaneWrites (.hfma2 w x) w { vr := readsABC 1 w x } 1 (fun g _ l => packed (fun k => once (half x) x
    (exactFma (half x) x (HA (half x) g w x l k) (HB (half x) g w x l k) (HC (half x) g x l k)))) ∧
  LaneWrites (.hmin2 w x) w { vr := regs w.a 1 ++ regs w.b 1 } 1 (fun g _ l =>
    packed (fun k => Fp.minMax (half x) false (HA (half x) g w x l k) (HB (half x) g w x l k))) ∧
  LaneWrites (.hmax2 w x) w { vr := regs w.a 1 ++ regs w.b 1 } 1 (fun g _ l =>
    packed (fun k => Fp.minMax (half x) true (HA (half x) g w x l k) (HB (half x) g w x l k)))

/-- R282 to R287: the conversions, those of .f64 as long results. -/
def Obligations.LaneConversionResult : Prop := ∀ (w : LA) (x : LXA),
  (x.ty ≠ 11 → ty2 x ≠ 11 → LaneWrites (.cvt w x) w { vr := readsA 1 w } 1
    (fun g _ l => Fp.convert x.ty.toNat (ty2 x) x.rnd.toNat x.sat (A g w l).toNat)) ∧
  (x.ty = 11 ∨ ty2 x = 11 →
    LanePends (.cvt w x) w (readsA (if ty2 x = 11 then 2 else 1) w) (if x.ty = 11 then 2 else 1)
      (fun g l => Fp.convert x.ty.toNat (ty2 x) x.rnd.toNat x.sat
        (if ty2 x = 11 then g.v64 w.a.toNat l else (A g w l).toNat))) ∧
  LaneWrites (.qnt w x) w { vr := regs w.a 1 ++ regs w.b 1 } 1 (fun g _ l => Fp.quant x.ty.toNat x.rnd.toNat x.sat
    (Fp.decode Fp.f32 (A g w l).toNat) (Alu.valueOf (ty2 x) (B3 g w l).toNat)) ∧
  LaneWrites (.dqnt w x) w { vr := regs w.a 1 ++ regs w.b 1 } 1 (fun g _ l => Fp.dequant x.rnd.toNat
    (Alu.valueOf x.ty.toNat (A g w l).toNat) (Alu.valueOf (ty2 x) (B3 g w l).toNat)) ∧
  LaneWrites (.scle w x) w { vr := readsA 1 w } 1 (fun g m l => Fp.scale x.ty.toNat
    (((List.range 128).filter (fun j => m.has j && j / 32 == l / 32)).map (fun j => Fp.decode Fp.f32 (A g w j).toNat))) ∧
  LaneWrites (.pack w x) w { vr := regs w.a 1 ++ regs w.b 1 ++ regs w.d 1 } 1 (fun g _ l =>
    let wd := Fp.widthOf x.ty.toNat
    let c (v : Word) : Nat × Nat := Fp.convert x.ty.toNat (ty2 x) x.rnd.toNat x.sat v.toNat
    (((g.vreg w.d.toNat).get l).toNat / 2 ^ (2 * wd) ||| (c (A g w l)).1 * 2 ^ (32 - 2 * wd) |||
      (c (B3 g w l)).1 * 2 ^ (32 - wd), (c (A g w l)).2 ||| (c (B3 g w l)).2)) ∧
  (x.ty ≠ 11 → LaneWrites (.unpk w x) w { vr := regs w.a 1 ++ regs w.b 1 } 1 (fun g _ l =>
    let wd := Fp.widthOf (ty2 x)
    Fp.convert x.ty.toNat (ty2 x) x.rnd.toNat x.sat
      ((A g w l).toNat / 2 ^ (wd * ((B3 g w l).toNat % (32 / wd))) % 2 ^ wd))) ∧
  (x.ty = 11 → LanePends (.unpk w x) w (regs w.a 1 ++ regs w.b 1) 2 (fun g l =>
    let wd := Fp.widthOf (ty2 x)
    Fp.convert x.ty.toNat (ty2 x) x.rnd.toNat x.sat
      ((A g w l).toNat / 2 ^ (wd * ((B3 g w l).toNat % (32 / wd))) % 2 ^ wd)))

/-- R265, R277, R280: the SFU and FP64 instructions are long; their results are pending until LONG_RESULT_WRITE. -/
def Obligations.LaneLongResult : Prop := ∀ (w : LA) (x : LXA),
  LanePends (.frcp w x) w (readsA 1 w) 1
    (fun g l => once Fp.f32 x (Fp.quo (Fp.f32.frac + 3) (Fp.numOfInt 1) (Fp.decode Fp.f32 (FA Fp.f32 g w x l)))) ∧
  LanePends (.fsqrt w x) w (readsA 1 w) 1
    (fun g l => once Fp.f32 x (Fp.sqrt (Fp.f32.frac + 3) (Fp.decode Fp.f32 (FA Fp.f32 g w x l)))) ∧
  LanePends (.frsq w x) w (readsA 1 w) 1
    (fun g l => once Fp.f32 x (Fp.rsqrt (Fp.f32.frac + 3) (Fp.decode Fp.f32 (FA Fp.f32 g w x l)))) ∧
  LanePends (.fex2 w x) w (readsA 1 w) 1
    (fun g l => once Fp.f32 x (Fp.exp2 (Fp.decode Fp.f32 (FA Fp.f32 g w x l)))) ∧
  LanePends (.flg2 w x) w (readsA 1 w) 1
    (fun g l => once Fp.f32 x (Fp.log2 (Fp.decode Fp.f32 (FA Fp.f32 g w x l)))) ∧
  LanePends (.dadd w x) w (readsAB 2 w x) 2
    (fun g l => once Fp.f64 x (exactAdd Fp.f64 x (FA Fp.f64 g w x l) (FB Fp.f64 g w x l))) ∧
  LanePends (.dmul w x) w (readsAB 2 w x) 2
    (fun g l => once Fp.f64 x (exactMul Fp.f64 (FA Fp.f64 g w x l) (FB Fp.f64 g w x l))) ∧
  LanePends (.dfma w x) w (readsABC 2 w x) 2
    (fun g l => once Fp.f64 x (exactFma Fp.f64 x (FA Fp.f64 g w x l) (FB3 Fp.f64 g w x l) (FC Fp.f64 g x l))) ∧
  LanePends (.dmin w x) w (readsAB 2 w x) 2
    (fun g l => Fp.minMax Fp.f64 false (FA Fp.f64 g w x l) (FB Fp.f64 g w x l)) ∧
  LanePends (.dmax w x) w (readsAB 2 w x) 2
    (fun g l => Fp.minMax Fp.f64 true (FA Fp.f64 g w x l) (FB Fp.f64 g w x l)) ∧
  LanePends (.drcp w x) w (readsA 2 w) 2
    (fun g l => once Fp.f64 x (Fp.quo (Fp.f64.frac + 3) (Fp.numOfInt 1) (Fp.decode Fp.f64 (FA Fp.f64 g w x l)))) ∧
  LanePends (.dsqrt w x) w (readsA 2 w) 2
    (fun g l => once Fp.f64 x (Fp.sqrt (Fp.f64.frac + 3) (Fp.decode Fp.f64 (FA Fp.f64 g w x l)))) ∧
  LaneTestPends (.dset w x) w x.pd (readsAB 2 w x)
    (fun g l => Fp.cond (w.d.toNat % 16) (Fp.decode Fp.f64 (FA Fp.f64 g w x l)) (Fp.decode Fp.f64 (FB Fp.f64 g w x l)))

/-- R301 to R305: the cross-lane instructions act among the active lanes m, every lane reading before any writes. -/
def Sys2Proof.Claims.CrossLaneResult : Prop := ∀ (w : LA) (x : LXA),
  LaneWritesBoth (.shfl w x) w x.pd (readsAB 1 w x) (fun g m l =>
    let src := (B g w x l).toNat % 128
    ((if m.has src then A g w src else A g w l).toNat, m.has src)) ∧
  LaneWritesBoth (.matchL w x) w x.pd (readsA 1 w) (fun g m l =>
    let j := (((List.range 128).filter m.has).find? (fun j => A g w j == A g w l)).getD l
    (j, j == l)) ∧
  LaneWrites (.redux w x) w { vr := readsA 1 w } 1 (fun g m _ => combine (x.imm.toNat % 8) x (terms g w m 128)) ∧
  LaneWrites (.scan w x) w { vr := readsA 1 w } 1 (fun g m l =>
    let ts := terms g w m (if x.imm.getLsbD 3 then l else l + 1)
    if ts.isEmpty then (identity (x.imm.toNat % 8) x, 0) else combine (x.imm.toNat % 8) x ts) ∧
  (∀ s, LaneRuns (.rdlane w x) w.guard { vr := readsAB 1 w x, sw := [w.d.toNat] } s →
    Gives (exec (.rdlane w x) s) (fun t =>
      (∀ low, low < 128 → (s.active w.guard).has low → (∀ j < low, (s.active w.guard).has j = false) →
        t.g.sreg w.d.toNat = A s.g w ((B s.g w x low).toNat % 128)) ∧ Wrote s t [] [] [w.d.toNat] [] 0 [])) ∧
  (∀ s, LaneRuns (.movs w) w.guard { sr := [w.a.toNat], vw := regs w.d 1 } s →
    Gives (exec (.movs w) s) (fun t => WroteLanes s t w.d.toNat 1 (s.active w.guard)
      (fun _ => (s.g.sreg w.a.toNat).toNat) 0))

/-- R302: VOTE in its five modes, over the participating lanes m. -/
def Sys2Proof.Claims.VoteResult : Prop := ∀ (w : LA) (x : LXA) (s : State),
  let mode := x.imm.toNat / 8 % 8
  let px := x.imm.toNat % 8
  let m := s.active w.guard
  let yes (l : Nat) : Bool := m.has l && predAt s.g px l
  let any := (List.range 128).any yes
  let all := (List.range 128).all (fun l => !m.has l || predAt s.g px l)
  let reads := preds (BitVec.ofNat 3 px)
  (mode = 2 ∨ mode = 3 → LaneRuns (.vote w x) w.guard { pr := reads, vw := regs w.d 1 } s →
    Gives (exec (.vote w x) s) (fun t => WroteLanes s t w.d.toNat 1 m
      (fun _ => if mode = 2 then ofBits (fun i => yes (32 * (x.imm.toNat / 64 % 4) + i))
        else ((List.range 128).filter yes).length) 0)) ∧
  (mode = 0 ∨ mode = 1 ∨ mode = 4 → LaneRuns (.vote w x) w.guard { pr := reads, pw := preds x.pd } s →
    Gives (exec (.vote w x) s) (fun t => WrotePred s t x.pd.toNat m
      (fun _ => if mode = 0 then any else if mode = 1 then all else all || !any) 0))

/-- What `CrossLaneResult`, `VoteResult` state together, R301, R302, R305. -/
def Obligations.CrossLaneAndVoteResult : Prop := Sys2Proof.Claims.CrossLaneResult ∧ Sys2Proof.Claims.VoteResult

/-- R235, R268: MOV to a handler register and from one, in a handler. The first changes only t(d) at the active lanes;
the second only v(d). -/
def Sys2Proof.Claims.HandlerMoveResult : Prop := ∀ (w : LA) (s : State), s.cur.handler = true →
  let m := s.active w.guard
  let pk := s.g.partKey
  (w.b = 1 → LaneRuns (.mov w) w.guard { vr := regs w.a 1 } s →
    Gives (exec (.mov w) s) (fun t =>
      (∀ l < 128, ((t.part pk).t.get {} w.d.toNat).get l =
        if m.has l then A s.g w l else ((s.part pk).t.get {} w.d.toNat).get l) ∧
      (∀ r, r ≠ w.d.toNat → (t.part pk).t.get {} r = (s.part pk).t.get {} r) ∧
      (t.part pk).owner = (s.part pk).owner ∧ (∀ k, k ≠ pk → { t.part k with latch := [] } = { s.part k with latch := [] }) ∧
      RegsKept s t [] [] [] [] ∧ t.g.longs = s.g.longs ∧ t.g.others = s.g.others ∧
      (∀ k, k ≠ s.cur.gid → t.group k = s.group k) ∧ t.others = s.others ∧ MemKept s t ∧ Advanced s t)) ∧
  (w.b = 2 → (∀ b ∈ (s.part pk).bad, b.1 = w.a.toNat → b.2 &&& m = 0) →
    LaneRuns (.mov w) w.guard { vw := regs w.d 1 } s →
    Gives (exec (.mov w) s) (fun t => WroteLanes s t w.d.toNat 1 m
      (fun l => (((s.part pk).t.get {} w.a.toNat).get l).toNat) 0))

/-- R268, R306: NOP completes and changes nothing. FENCE waits, as an interlock, for the subgroup's atomics that have not yet
been performed at their homes, and then completes and changes nothing; with none of them it completes at once. FENCE.tm waits
for none: team memory and scratch accesses are performed when they issue. -/
def Sys2Proof.Claims.NopAndFenceResult : Prop := ∀ (w : LA) (s : State),
  let pending (o : HomeOp) : Prop := o.gid = s.cur.gid ∧ o.done = false ∧ o.id < s.nextId ∧
    ∃ l ∈ o.lanes, s.cur.lanes.has l.lane = true
  let waits (t : State) : Prop := RegsKept s t [] [] [] [] ∧ Kept s t ∧
    ∀ x ∈ t.g.subs, x.lanes = s.cur.lanes → ∃ k, x.wait = .homeOp k
  (LaneRuns (.nop w) w.guard {} s → ∃ t, Sys2Proof.Machine.exec (.nop w) s = .next t ∧ Wrote s t [] [] [] [] 0 []) ∧
  (LaneRuns (.fenceTm w) w.guard {} s →
    ∃ t, Sys2Proof.Machine.exec (.fenceTm w) s = .next t ∧ Wrote s t [] [] [] [] 0 []) ∧
  (LaneRuns (.fenceW w) w.guard {} s → (∀ o ∈ s.mem.homeOps, ¬ pending o) →
    ∃ t, Sys2Proof.Machine.exec (.fenceW w) s = .next t ∧ Wrote s t [] [] [] [] 0 []) ∧
  (LaneRuns (.fenceGl w) w.guard {} s → (∀ o ∈ s.mem.homeOps, ¬ pending o) →
    ∃ t, Sys2Proof.Machine.exec (.fenceGl w) s = .next t ∧ Wrote s t [] [] [] [] 0 []) ∧
  (LaneRuns (.fenceW w) w.guard {} s → (∃ o ∈ s.mem.homeOps, pending o) → Gives (exec (.fenceW w) s) waits) ∧
  (LaneRuns (.fenceGl w) w.guard {} s → (∃ o ∈ s.mem.homeOps, pending o) → Gives (exec (.fenceGl w) s) waits)

/-- What `HandlerMoveResult`, `NopAndFenceResult` state together, R235, R268, R306. -/
def Obligations.MoveAndFenceResult : Prop := Sys2Proof.Claims.HandlerMoveResult ∧ Sys2Proof.Claims.NopAndFenceResult

/-- R119, R240: an L-set instruction none of whose lanes has its guard true only moves on, whatever its other fields
hold. -/
def Obligations.InactivePassesOver : Prop := ∀ (w : LA) (x : LXA) (m : LXM) (b : LB) (y : LXB) (lit : Word) (s : State),
  s.cur.stage = 0 → s.cur.aslice = false → s.cur.lanes ≠ 0 →
  (s.active w.guard = 0 → ∀ i ∈ [Instr.nop w, .mov w, .movi w lit, .sel w x, .iadd w x, .isub w x, .imul w x, .imulh w x,
      .imad w x, .imin w x, .imax w x, .iabs w x, .ineg w x, .lea w x, .iset w x, .andL w x, .orL w x, .xorL w x,
      .andnL w x, .notL w x, .shl w x, .shr w x, .sar w x, .rotl w x, .popc w x, .clz w x, .brev w x, .bfe w x, .bfi w x,
      .prmt w x, .pset w x, .fadd w x, .fsub w x, .fmul w x, .ffma w x, .fmin w x, .fmax w x, .fset w x, .fclass w x,
      .frcp w x, .fsqrt w x, .frsq w x, .fex2 w x, .flg2 w x, .dadd w x, .dmul w x, .dfma w x, .dmin w x, .dmax w x,
      .dset w x, .drcp w x, .dsqrt w x, .hadd2 w x, .hmul2 w x, .hfma2 w x, .hmin2 w x, .hmax2 w x, .cvt w x, .qnt w x,
      .dqnt w x, .scle w x, .pack w x, .unpk w x, .shfl w x, .vote w x, .redux w x, .scan w x, .matchL w x, .fenceW w,
      .fenceTm w, .fenceGl w, .movs w, .rdlane w x, .ld w m, .st w m, .ldr w m, .atom w m, .atomf w m, .cas w m,
      .atld w m, .pref w m],
    Gives (exec i s) (fun t => Wrote s t [] [] [] [] 0 [])) ∧
  (s.active b.guard = 0 → ∀ i ∈ [Instr.bra b, .brx b y, .jmpr b y, .call b y, .calli b y, .ret b y, .jset b, .join b,
      .exit b, .bpt b],
    Gives (exec i s) (fun t => Wrote s t [] [] [] [] 0 []))

namespace Sys2Proof.Claims

/-! ## Memory (08, 16 R288 to R299) -/

/-- Bytes of an access and registers of a data operand (R288). -/
def size (x : LXM) : Nat := 2 ^ x.width.toNat
def words (x : LXM) : Nat := if x.width = 3 then 2 else if x.width = 4 then 4 else 1

/-- A value from its bytes, lowest first (00 R2). -/
def little (f : Nat → Byte) : Nat → Nat
  | 0 => 0
  | n + 1 => little f n + 256 ^ n * (f n).toNat

/-- A loaded value in its registers: b8 and b16 extend to 32 bits, with the sign under `.sx` (R288). -/
def extended (x : LXM) (v : Nat) : Nat :=
  if x.sgn ∧ x.width = 0 ∧ 2 ^ 7 ≤ v then v + 2 ^ 32 - 2 ^ 8
  else if x.sgn ∧ x.width = 1 ∧ 2 ^ 15 ≤ v then v + 2 ^ 32 - 2 ^ 16 else v

/-- The data operand at r, by its registers, lowest first. -/
def operand (g : Group) (r : BitVec 6) (x : LXM) (l : Nat) : Nat :=
  ((List.range (words x)).map (fun j => ((g.vreg (r.toNat + j)).get l).toNat * 2 ^ (32 * j))).sum

/-- Byte k of a value. -/
def byteAt (v k : Nat) : Byte := BitVec.ofNat 8 (v / 256 ^ k)

/-- The window offset of a lane, and the global address (R289). -/
def winEA (g : Group) (w : LA) (x : LXM) (l : Nat) : Int := ((g.vreg w.a.toNat).get l).toNat + x.off.toInt
def glEA (g : Group) (w : LA) (x : LXM) (l : Nat) : Nat :=
  (((g.v64 w.a.toNat l : Int) + x.off.toInt) % 2 ^ 64).toNat

/-- A byte of a window as the issuing group reaches it: 1 team memory, 2 scratch of its die, 3 its stack, 4 its side
buffer (08 R147). -/
def winAt (s : State) (space : Nat) (off : Nat) : Byte :=
  if space = 1 then s.winByte 1 s.g.teamKey off else if space = 2 then s.winByte 2 s.g.die off
  else if space = 3 then s.g.stack.get 0 off else s.g.side.get 0 off

/-- The size of a window (R147). -/
def winBytes (s : State) (space : Nat) : Nat :=
  if space = 1 then s.launch.tmem else if space = 2 then 2 ^ 26 else if space = 3 then 2 ^ 16 else 2 ^ 12

/-- Checks 1 and 2 of R289 pass at a lane of a window access. -/
def inWindow (s : State) (space : Nat) (x : LXM) (ea : Int) : Prop :=
  ea % size x = 0 ∧ 0 ≤ ea ∧ ea + size x ≤ winBytes s space

/-- The words that a read of a window touches hold no uncorrectable data (01 R24). -/
def goodWords (s : State) (space : Nat) (x : LXM) (ea : Int) : Prop :=
  space = 1 ∨ space = 2 → s.winBad space (if space = 1 then s.g.teamKey else s.g.die) ea.toNat (size x) = none

/-- No watch is armed (10 R205), and the group's die samples no requests (11 R221). -/
def unwatched (s : State) : Prop := (∀ i < 16, s.reg (0x3010 + 32 * i) % 2 = 0) ∧ s.reg (obsBase s.g.die + 0x40) % 2 = 0

/-- No byte of n at `pa` of a page of map `cm` lies in an uncorrectable line (01 R24). -/
def goodLine (s : State) (pa cm n : Nat) : Prop := ∀ k < n, s.badByte (s.at cm (pa + k)) = false

/-- Checks 2 to 6 of R289 pass at a global address through an entry of the core's TLB: canonical, permitted, of the
page's world, resident, not a fabric page, and for a write already dirty. `pa` is the physical address, `cm` the
channel map of a region A page. -/
def mapped (s : State) (a : Acc) (va pa cm : Nat) : Prop :=
  canonical va = true ∧ ∃ e, s.tlbFind s.g.coreKey s.asid va = some e ∧ permitted a e.pte = true ∧
    pa = pteFrame e.pte + va56 va % 2 ^ e.size ∧ pteRes e.pte = 0 ∧ pteTier e.pte ≠ 2 ∧
    (pteTier e.pte = 0 → tierOf pa = .hbmA → s.mapValid (pteCm e.pte) = true) ∧
    pteWorld e.pte = s.secureAt pa ∧ (s.secureAt pa = true → s.host.secure.contains s.g.coreKey = true) ∧
    (a = .store ∨ a = .atomic → pteD e.pte = true) ∧
    cm = if pteTier e.pte = 0 ∧ tierOf pa = .hbmA then pteCm e.pte else 0

/-- No atomic of the group is on its way to a home (R298 holds later accesses to its word). -/
def noAtomics (s : State) : Prop := ∀ o ∈ s.mem.homeOps, o.gid = s.cur.gid → o.done = true

/-- What a memory instruction never changes: other groups, handler sets, cores, quadrants, engines, names, network,
clock and power; and of its own group whatever `f` keeps. -/
structure MemFrame (f : Group → Group) (s t : State) : Prop where
  machine : { t.others with grids := {}, teams := {}, mem := {}, xlat := {}, host := {} } =
    { s.others with grids := {}, teams := {}, mem := {}, xlat := {}, host := {} }
  launches : ∀ k, (t.grid k).launch = (s.grid k).launch ∧ (t.grid k).status = (s.grid k).status ∧
    (t.grid k).cut = (s.grid k).cut
  teams : ∀ k, { t.team k with tmem := {}, full := {} } = { s.team k with tmem := {}, full := {} }
  tlbs : t.xlat.tlbs = s.xlat.tlbs
  own : f t.g.others = f s.g.others
  groups : ∀ k, k ≠ s.cur.gid → t.group k = s.group k
  parts : ∀ k, { t.part k with latch := [] } = { s.part k with latch := [] }

/-- Every full bit is as before (08 R150). -/
def fullKept (s t : State) : Prop := ∀ space place off, t.isFull space place off = s.isFull space place off

/-- The long result of a load: registers from d at the lanes m. -/
def loads (s t : State) (w : LA) (x : LXM) (m : Mask) (val : Nat → Nat) : Prop :=
  ∃ lg : Long, t.g.longs = s.g.longs ++ [lg] ∧ lg.ready = true ∧ lg.flags = 0 ∧ lg.ps = [] ∧ lg.ss = [] ∧ lg.qs = [] ∧
    lg.vs.length = words x ∧ ∀ j < words x, ∃ v : Lanes, lg.vs[j]? = some (w.d.toNat + j, m, v) ∧
      ∀ l < 128, m.has l = true → v.get l = BitVec.ofNat 32 (extended x (val l) / 2 ^ (32 * j))

/-- The highest lane of m whose access of n bytes at `ea` covers an address. -/
def lastLane (m : Mask) (ea : Nat → Int) (n : Nat) (a : Int) (l : Nat) : Prop :=
  m.has l = true ∧ l < 128 ∧ ea l ≤ a ∧ a < ea l + n ∧
    ∀ k, k < 128 → m.has k = true → ea k ≤ a → a < ea k + n → k ≤ l

end Sys2Proof.Claims

/-- R288, R289, R292: LD of a window (team memory, scratch, stack, and the trap window in a handler), unqualified, whose
lanes pass the checks: the bytes at each active lane's offset, extended, as a long result. No byte and no full bit
changes. -/
def Sys2Proof.Claims.WindowLoadResult : Prop := ∀ (w : LA) (x : LXM) (s : State),
  let m := s.active w.guard
  x.space ≠ 0 → x.fe = 0 → (x.space = 4 → s.cur.handler = true) →
  LaneRuns (.ld w x) w.guard { vr := regs w.a 1, vw := regs w.d (words x) } s →
  (∀ l < 128, m.has l = true → inWindow s x.space.toNat x (winEA s.g w x l) ∧
    goodWords s x.space.toNat x (winEA s.g w x l)) →
  Gives (exec (.ld w x) s) (fun t =>
    loads s t w x m (fun l => little (fun k => winAt s x.space.toNat ((winEA s.g w x l).toNat + k)) (size x)) ∧
    RegsKept s t [] [] [] [] ∧ t.g.spec = s.g.spec ∧ MemFrame id s t ∧ MemKept s t ∧ fullKept s t ∧ Advanced s t)

/-- R291, R292, R151, R153: ST to a window whose lanes pass the checks writes each active lane's operand at its offset; where
lanes write one byte the highest lane's remains; every other byte of memory is as before. `.sf` then sets the full bit
of each lane's granule (no lane waits there), and an unqualified store changes none. -/
def Sys2Proof.Claims.WindowStoreResult : Prop := ∀ (w : LA) (x : LXM) (s : State),
  let m := s.active w.guard
  let sp := x.space.toNat
  let ea := winEA s.g w x
  let place := if sp = 1 then s.g.teamKey else s.g.die
  x.space ≠ 0 → s.mem.feWaits = [] →
  LaneRuns (.st w x) w.guard { vr := regs w.a 1 ++ regs w.b (words x) } s →
  (∀ l < 128, m.has l = true → inWindow s sp x (ea l)) →
  Gives (exec (.st w x) s) (fun t =>
    (∀ a l, lastLane m ea (size x) a l →
      winAt t sp a.toNat = byteAt (operand s.g w.b x l) (a - ea l).toNat) ∧
    (∀ a : Nat, (∀ l < 128, m.has l = true → ¬ (ea l ≤ a ∧ a < ea l + size x)) → winAt t sp a = winAt s sp a) ∧
    (∀ sp' place' off, (sp' ≠ sp ∨ place' ≠ place) → (sp' = 1 ∨ sp' = 2) →
      t.winByte sp' place' off = s.winByte sp' place' off) ∧
    (sp ≠ 3 → t.g.stack = s.g.stack) ∧ (∀ pa, t.newest pa = s.newest pa) ∧ (∀ n a, t.nodeByte n a = s.nodeByte n a) ∧
    (∀ sp' place' off, (sp' = 1 ∨ sp' = 2) → t.isFull sp' place' off =
      (s.isFull sp' place' off || (x.fe == 3 && sp' == sp && place' == place &&
        (List.range 128).any (fun l => m.has l && (ea l).toNat / 16 == off / 16)))) ∧
    RegsKept s t [] [] [] [] ∧ t.g.longs = s.g.longs ∧ t.g.spec = s.g.spec ∧
    MemFrame (fun g => { g with stack := {} }) s t ∧ Advanced s t)

/-- What `WindowLoadResult`, `WindowStoreResult` state together, R151, R153, R288, R289, R291, R292. -/
def Obligations.WindowAccessResult : Prop := Sys2Proof.Claims.WindowLoadResult ∧ Sys2Proof.Claims.WindowStoreResult

/-- R150, R152: LD.fw and LD.fc whose active lanes name full granules, each lane a granule of its own, return the bytes;
`.fc` leaves those granules empty, `.fw` leaves them full; no other full bit and no byte changes. An access of one lane
whose granule is empty parks the group (type 0x6) and writes nothing. -/
def Obligations.FullEmptyLoad : Prop := ∀ (w : LA) (x : LXM) (s : State),
  let m := s.active w.guard
  let sp := x.space.toNat
  let ea := winEA s.g w x
  let place := if sp = 1 then s.g.teamKey else s.g.die
  x.fe = 1 ∨ x.fe = 2 → s.mem.feWaits = [] → (∀ y ∈ s.g.subs, y.done = 0) → (s.gridOf s.cur.gid).launch.mode ≠ 2 →
  LaneRuns (.ld w x) w.guard { vr := regs w.a 1, vw := regs w.d (words x) } s →
  (∀ l < 128, m.has l = true → inWindow s sp x (ea l) ∧ goodWords s sp x (ea l)) →
  ((∀ l < 128, m.has l = true → s.isFull sp place (ea l).toNat = true) →
    (∀ l < 128, ∀ k < 128, m.has l = true → m.has k = true → (ea l).toNat / 16 = (ea k).toNat / 16 → l = k) →
    Gives (exec (.ld w x) s) (fun t =>
      loads s t w x m (fun l => little (fun k => winAt s sp ((ea l).toNat + k)) (size x)) ∧
      (∀ sp' place' off, (sp' = 1 ∨ sp' = 2) → t.isFull sp' place' off =
        (s.isFull sp' place' off && !(x.fe == 2 && sp' == sp && place' == place &&
          (List.range 128).any (fun l => m.has l && (ea l).toNat / 16 == off / 16)))) ∧
      RegsKept s t [] [] [] [] ∧ MemFrame id s t ∧ MemKept s t ∧ Advanced s t)) ∧
  (∀ l < 128, (∀ k < 128, m.has k = decide (k = l)) → s.isFull sp place (ea l).toNat = false → s.cur.handler = false →
    Gives (exec (.ld w x) s) (fun t =>
      t.g.wake.map (·.cond) = some (.granule sp ((ea l).toNat / 16 * 16) x.fe.toNat) ∧
      (∃ q ∈ t.mem.feWaits, q.gid = s.cur.gid ∧ q.lane = l ∧ q.off = (ea l).toNat ∧ q.fc = (x.fe == 2)) ∧
      t.g.longs = s.g.longs ∧ RegsKept s t [] [] [] [] ∧ MemKept s t ∧ fullKept s t))

/-- R289, R292, R159: LD of global memory whose lanes pass the checks returns each byte that the group's cut and its own
unpublished and pending bytes admit (`State.loadByte`), as a long result; LDR does the same and writes true to p(rp) at
those lanes; PREF has no effect. No byte of memory changes. -/
def Sys2Proof.Claims.GlobalLoadResult : Prop := ∀ (w : LA) (x : LXM) (s : State) (pa cm : Nat → Nat),
  let m := s.active w.guard
  let ea := glEA s.g w x
  x.space = 0 →
  ((∀ l < 128, m.has l = true → ea l % size x = 0 ∧ mapped s .load (ea l) (pa l) (cm l) ∧ goodLine s (pa l) (cm l) (size x)) →
    unwatched s → noAtomics s →
    (x.fe = 0 → LaneRuns (.ld w x) w.guard { vr := regs w.a 2, vw := regs w.d (words x) } s →
      Gives (exec (.ld w x) s) (fun t =>
        loads s t w x m (fun l => little (fun k => s.loadByte s.g s.g.cut (ea l + k) (s.at (cm l) (pa l + k))) (size x)) ∧
        RegsKept s t [] [] [] [] ∧ t.g.spec = s.g.spec ∧ MemFrame id s t ∧ MemKept s t ∧ fullKept s t ∧ Advanced s t)) ∧
    (LaneRuns (.ldr w x) w.guard { vr := regs w.a 2, vw := regs w.d (words x), pw := [x.rp.toNat] } s →
      Gives (exec (.ldr w x) s) (fun t =>
        (∃ lg : Long, t.g.longs = s.g.longs ++ [lg] ∧ (∃ q, lg.ps = [(x.rp.toNat, m, q)] ∧
            ∀ l < 128, m.has l = true → q.has l = true) ∧
          ∀ j < words x, ∃ v : Lanes, lg.vs[j]? = some (w.d.toNat + j, m, v) ∧
            ∀ l < 128, m.has l = true → v.get l = BitVec.ofNat 32 (extended x
              (little (fun k => s.loadByte s.g s.g.cut (ea l + k) (s.at (cm l) (pa l + k))) (size x)) / 2 ^ (32 * j))) ∧
        RegsKept s t [] [] [] [] ∧ MemFrame id s t ∧ MemKept s t ∧ fullKept s t ∧ Advanced s t))) ∧
  (LaneRuns (.pref w x) w.guard { vr := regs w.a 2 } s →
    Gives (exec (.pref w x) s) (fun t => Wrote s t [] [] [] [] 0 []))

/-- R155, R292: ST to global memory whose lanes pass the checks adds each active lane's bytes to the group's unpublished
set by virtual address, the highest lane's where lanes write one byte; every committed byte, and every other unpublished
byte, is as before. -/
def Sys2Proof.Claims.GlobalStoreResult : Prop := ∀ (w : LA) (x : LXM) (s : State) (pa cm : Nat → Nat),
  let m := s.active w.guard
  let ea := glEA s.g w x
  x.space = 0 → LaneRuns (.st w x) w.guard { vr := regs w.a 2 ++ regs w.b (words x) } s →
  (∀ l < 128, m.has l = true → ea l % size x = 0 ∧ mapped s .store (ea l) (pa l) (cm l)) →
  unwatched s → noAtomics s →
  Gives (exec (.st w x) s) (fun t =>
    (∀ (a : Nat) l, lastLane m (fun l => ea l) (size x) a l →
      t.g.unpub.get none a = some (byteAt (operand s.g w.b x l) (a - ea l))) ∧
    (∀ a : Nat, (∀ l < 128, m.has l = true → ¬ (ea l ≤ a ∧ a < ea l + size x)) →
      t.g.unpub.get none a = s.g.unpub.get none a) ∧
    RegsKept s t [] [] [] [] ∧ t.g.longs = s.g.longs ∧ t.g.spec = s.g.spec ∧
    MemFrame (fun g => { g with unpub := {} }) s t ∧ MemKept s t ∧ fullKept s t ∧ Advanced s t)

/-- What `GlobalLoadResult`, `GlobalStoreResult` state together, R155, R159, R289, R292. -/
def Obligations.GlobalAccessResult : Prop := Sys2Proof.Claims.GlobalLoadResult ∧ Sys2Proof.Claims.GlobalStoreResult

namespace Sys2Proof.Claims

/-- An n-bit value as two's complement. -/
def signed (n v : Nat) : Int := if 2 ^ (n - 1) ≤ v then (v : Int) - 2 ^ n else v

/-- R297: what an atomic writes to its word of n bits, if it writes, and its flags. Kinds 0 ATOM, 1 ATOMF, 2 CAS; `a` is
the compare value and `b` the operand. -/
def atomicWrites (kind op n old a b : Nat) : Option Nat × Nat :=
  if kind = 0 then
    (some (if op = 0 then (old + b) % 2 ^ n
      else if op = 1 then (if signed n b < signed n old then b else old)
      else if op = 2 then (if signed n old < signed n b then b else old)
      else if op = 3 then old &&& b else if op = 4 then old ||| b else if op = 5 then old ^^^ b else b), 0)
  else if kind = 1 then
    let t := if n = 64 then Fp.f64 else Fp.f32
    let r := if op = 0 then
        ((Fp.round t 0 false (Fp.sum 0 [Fp.decode t old, Fp.decode t b]).1).1,
         (Fp.round t 0 false (Fp.sum 0 [Fp.decode t old, Fp.decode t b]).1).2 ||| (Fp.sum 0 [Fp.decode t old, Fp.decode t b]).2)
      else Fp.minMax t (op == 2) old b
    (some r.1, r.2)
  else if old = a then (some b, 0) else (none, 0)

/-- A memory with n bytes of v written at an offset. -/
def poke (f : Nat → Byte) (off n v : Nat) : Nat → Byte :=
  fun a => if off ≤ a ∧ a < off + n then byteAt v (a - off) else f a

/-- Atomic lanes acting one after another on a memory: what they leave, the old value that each saw (by lane), flags. -/
def atomicsInOrder (kind op n : Nat) (off a b : Nat → Nat) : List Nat → (Nat → Byte) → (Nat → Byte) × (Nat → Nat) × Nat
  | [], f => (f, fun _ => 0, 0)
  | l :: t, f =>
    let old := little (fun k => f (off l + k)) n
    let r := atomicWrites kind op (8 * n) old (a l) (b l)
    let f' := match r.1 with | some v => poke f (off l) n v | none => f
    let q := atomicsInOrder kind op n off a b t f'
    (q.1, fun j => if j = l then old else q.2.1 j, r.2 ||| q.2.2)

/-- The lanes of a mask in ascending order. -/
def ascending (m : Mask) : List Nat := (List.range 128).filter m.has

/-- The instruction of an atomic kind. -/
def atomicInstr (kind : Nat) (w : LA) (x : LXM) : Instr :=
  if kind = 0 then .atom w x else if kind = 1 then .atomf w x else if kind = 2 then .cas w x else .atld w x
/-- A form that returns the old value. -/
def returning (kind : Nat) (x : LXM) : Bool := 2 ≤ kind || x.aop.getLsbD 3
/-- Registers of an atomic form. -/
def atomicFoot (kind : Nat) (w : LA) (x : LXM) : Foot :=
  { vr := regs w.a (if x.space = 0 then 2 else 1) ++ (if kind ≠ 3 then regs w.b (words x) else []) ++
      (if kind = 2 then regs w.d (words x) else []),
    vw := if returning kind x then regs w.d (words x) else [] }

end Sys2Proof.Claims

/-- R296, R297, R298: ATOM, ATOMF and CAS on team memory or scratch whose lanes pass the checks: the active lanes act on
the bytes in ascending lane order, each on what the lane before left; the flags of ATOMF are ORed into `fpflags`; a
returning form's old values are a long result. Every other byte, and every full bit, is as before. -/
def Obligations.WindowAtomicResult : Prop := ∀ (kind : Nat) (w : LA) (x : LXM) (s : State), kind ≤ 2 →
  let m := s.active w.guard
  let sp := x.space.toNat
  let off (l : Nat) : Nat := (winEA s.g w x l).toNat
  let place := if sp = 1 then s.g.teamKey else s.g.die
  let r := atomicsInOrder kind (x.aop.toNat % 8) (size x) off (operand s.g w.d x) (operand s.g w.b x) (ascending m)
    (winAt s sp)
  x.space ≠ 0 → LaneRuns (atomicInstr kind w x) w.guard (atomicFoot kind w x) s →
  (∀ l < 128, m.has l = true → inWindow s sp x (winEA s.g w x l) ∧ goodWords s sp x (winEA s.g w x l)) →
  Gives (exec (atomicInstr kind w x) s) (fun t =>
    (∀ a, winAt t sp a = r.1 a) ∧
    (∀ sp' place' a, (sp' ≠ sp ∨ place' ≠ place) → (sp' = 1 ∨ sp' = 2) → t.winByte sp' place' a = s.winByte sp' place' a) ∧
    (∀ pa, t.newest pa = s.newest pa) ∧ (∀ n a, t.nodeByte n a = s.nodeByte n a) ∧ fullKept s t ∧
    t.g.spec.fpflags = s.g.spec.fpflags ||| r.2.2 ∧
    (returning kind x = true → ∃ lg : Long, t.g.longs = s.g.longs ++ [lg] ∧ lg.ready = true ∧
      ∀ j < words x, ∃ v : Lanes, lg.vs[j]? = some (w.d.toNat + j, m, v) ∧
        ∀ l < 128, m.has l = true → v.get l = BitVec.ofNat 32 (r.2.1 l / 2 ^ (32 * j))) ∧
    (returning kind x = false → t.g.longs = s.g.longs) ∧
    RegsKept s t [] [] [] [] ∧ MemFrame id s t ∧ Advanced s t)

/-- R163, R297, R299: ATOM, ATOMF, CAS and ATLD on phased global memory whose lanes pass the checks are on their way to their
home when the instruction has issued: one operation holds, for each active lane in ascending order, its address and
operands; a returning form's result is pending until the home answers; no byte has changed. Outside a steered grid the
lanes go on. -/
def Sys2Proof.Claims.GlobalAtomicIssue : Prop := ∀ (kind : Nat) (w : LA) (x : LXM) (s : State) (pa cm : Nat → Nat), kind ≤ 3 →
  let m := s.active w.guard
  let ea := glEA s.g w x
  x.space = 0 → LaneRuns (atomicInstr kind w x) w.guard (atomicFoot kind w x) s →
  (∀ l < 128, m.has l = true → ea l % size x = 0 ∧
    mapped s (if kind = 3 then .load else .atomic) (ea l) (pa l) (cm l) ∧ goodLine s (pa l) (cm l) (size x)) →
  unwatched s → noAtomics s → (s.gridOf s.cur.gid).launch.mode ≠ 2 →
  Gives (exec (atomicInstr kind w x) s) (fun t =>
    (∃ o : HomeOp, t.mem.homeOps = s.mem.homeOps ++ [o] ∧ o.gid = s.cur.gid ∧ o.kind = kind ∧ o.aop = x.aop.toNat ∧
      o.width = size x ∧ o.done = false ∧ o.lanes.map (·.lane) = ascending m ∧
      (∀ h ∈ o.lanes, h.va = ea h.lane ∧ h.pa = pa h.lane ∧ h.loc = s.at (cm h.lane) (pa h.lane) ∧ h.performed = false ∧
        (kind ≠ 3 → h.b = operand s.g w.b x h.lane) ∧ (kind = 2 → h.a = operand s.g w.d x h.lane)) ∧
      (returning kind x = true → ∃ lg : Long, t.g.longs = s.g.longs ++ [lg] ∧ o.long = some lg.id ∧ lg.ready = false ∧
        lg.vs.map (fun v => (v.1, v.2.1)) = (List.range (words x)).map (fun j => (w.d.toNat + j, m))) ∧
      (returning kind x = false → o.long = none ∧ t.g.longs = s.g.longs)) ∧
    RegsKept s t [] [] [] [] ∧ MemFrame id s t ∧ MemKept s t ∧ fullKept s t ∧ Advanced s t)

/-- R298: a later access by a lane to a word on which an atomic of that lane has not yet been performed is held as an
interlock: LD of the same word changes no register and no memory, and waits for that operation. -/
def Sys2Proof.Claims.AtomicHoldsLaterLoad : Prop := ∀ (w : LA) (x : LXM) (s : State) (pa cm : Nat) (l : Nat) (o : HomeOp) (h : HomeLane),
  x.space = 0 → x.fe = 0 → l < 128 → (∀ k < 128, (s.active w.guard).has k = decide (k = l)) →
  LaneRuns (.ld w x) w.guard { vr := regs w.a 2, vw := regs w.d (words x) } s →
  glEA s.g w x l % size x = 0 → mapped s .load (glEA s.g w x l) pa cm → goodLine s pa cm (size x) →
  s.mem.homeOps = [o] → o.gid = s.cur.gid → o.done = false → h ∈ o.lanes → h.performed = false → h.lane = l →
  h.pa < pa + size x → pa < h.pa + o.width →
  Gives (exec (.ld w x) s) (fun t => RegsKept s t [] [] [] [] ∧ t.g.longs = s.g.longs ∧ Kept s t ∧
    ∀ y ∈ t.g.subs, y.lanes = s.cur.lanes → y.wait = .homeOp o.id)

/-- What `GlobalAtomicIssue`, `AtomicHoldsLaterLoad` state together, R163, R297, R298, R299. -/
def Obligations.GlobalAtomicResult : Prop :=
  Sys2Proof.Claims.GlobalAtomicIssue ∧ Sys2Proof.Claims.AtomicHoldsLaterLoad

namespace Sys2Proof.Claims

/-! ## Uniform instructions (17 R314 to R321) -/

/-- As `Kept`, but the issuing group may differ in what `f` blanks, the machine in what `h` blanks, and the partitions
`ps` may differ. -/
structure KeptBut (f : Group → Group) (s t : State) (h : State → State := id) (ps : List Nat := []) : Prop where
  machine : h t.others = h s.others
  group : f t.g.others = f s.g.others
  groups : ∀ k, k ≠ s.cur.gid → t.group k = s.group k
  parts : ∀ k, k ∉ ps → { t.part k with latch := [] } = { s.part k with latch := [] }
  memory : MemKept s t

/-- Registers but those listed, `fpflags` and the long results are as before, and so is the rest of the machine but for
what `f`, `h` and `ps` except. -/
structure Ends (f : Group → Group) (s t : State) (v p sr q : List Nat) (h : State → State := id) (ps : List Nat := []) :
    Prop where
  regs : RegsKept s t v p sr q
  flags : t.g.spec.fpflags = s.g.spec.fpflags
  longs : t.g.longs = s.g.longs
  kept : KeptBut f s t h ps

/-- The instruction executes for the subgroup being issued, or for the A-slice (R132, R315). -/
def ScalarRuns (i : Instr) (w : GA) (f : Foot) (s : State) : Prop :=
  GroupRuns i w.guard f s ∨ SliceRuns i w.guard f s

/-- A scalar register: s0 to s63, or a0 to a15 in an A-slice (R132). -/
def SR (s : State) (r : Nat) : Word := if s.cur.aslice then s.g.a.regs.get 0 r else s.g.sreg r
/-- Sources A and B, and a 64-bit pair (R315). -/
def SA (s : State) (w : GA) : Word := SR s w.a.toNat
def SB (s : State) (w : GA) : Word := if w.i then w.x.signExtend 32 else SR s (w.x.toNat % 64)
def SR64 (s : State) (r : Nat) : Nat := (SR s r).toNat + 2 ^ 32 * (SR s (r + 1)).toNat
def readsB (w : GA) : List Nat := if w.i then [] else [w.x.toNat % 64]

/-- n scalar registers from d hold the words of v, and nothing else changed. -/
def WroteScalars (s t : State) (d n v : Nat) : Prop :=
  (∀ j < n, SR t (d + j) = BitVec.ofNat 32 (v / 2 ^ (32 * j))) ∧
  (∀ r, r < d ∨ d + n ≤ r → SR t r = SR s r) ∧
  Wrote s t [] [] (if s.cur.aslice then [] else destV d n) [] 0 []

/-- Wherever `i` executes it writes n scalar registers from d. -/
def ScalarWrites (i : Instr) (w : GA) (reads : List Nat) (n : Nat) (val : State → Nat) : Prop :=
  ∀ s, ScalarRuns i w { sr := reads, sw := regs w.d n } s →
    Gives (exec i s) (fun t => WroteScalars s t w.d.toNat n (val s))

/-- An integer mod 2^32. -/
def word (v : Int) : Nat := (v % 2 ^ 32).toNat

end Sys2Proof.Claims

/-- R316, R317: the uniform ALU instructions write S(d), in the C-slice and in the A-slice; SLEA writes a pair; SSEL and
SSET, which an A-slice may not hold, select a source and write a group predicate. -/
def Obligations.UniformResult : Prop := ∀ (w : GA) (x : GXC) (lit : Word),
  let two (i : Instr) (f : Word → Word → Nat) : Prop :=
    ScalarWrites i w (w.a.toNat :: readsB w) 1 (fun s => f (SA s w) (SB s w))
  ScalarWrites (.smov w) w [w.a.toNat] 1 (fun s => (SA s w).toNat) ∧
  ScalarWrites (.smovImm w) w [] 1 (fun _ => (w.x.signExtend 32).toNat) ∧
  ScalarWrites (.smovi w lit) w [] 1 (fun _ => lit.toNat) ∧
  two (.sadd w) (fun a b => word (a.toInt + b.toInt)) ∧
  two (.ssub w) (fun a b => word (a.toInt - b.toInt)) ∧
  two (.smul w) (fun a b => word (a.toInt * b.toInt)) ∧
  two (.smin w) (fun a b => word (min a.toInt b.toInt)) ∧
  two (.smax w) (fun a b => word (max a.toInt b.toInt)) ∧
  two (.sand w) (fun a b => (a &&& b).toNat) ∧
  two (.sor w) (fun a b => (a ||| b).toNat) ∧
  two (.sxor w) (fun a b => (a ^^^ b).toNat) ∧
  two (.sshl w) (fun a b => a.toNat * 2 ^ b.toNat % 2 ^ 32) ∧
  two (.sshr w) (fun a b => a.toNat / 2 ^ b.toNat) ∧
  two (.ssar w) (fun a b => word (a.toInt / 2 ^ b.toNat)) ∧
  ScalarWrites (.slea w x) w (regs w.a 2 ++ readsB w) 2
    (fun s => (((SR64 s w.a.toNat : Int) + (SB s w).toInt * scale x.ty) % 2 ^ 64).toNat) ∧
  (∀ s, GroupRuns (.ssel w x) w.guard { sr := w.a.toNat :: readsB w, sw := [w.d.toNat], qr := [x.pred.toNat] } s →
    Gives (exec (.ssel w x) s) (fun t =>
      WroteScalars s t w.d.toNat 1 (if s.g.qpred x.pred.toNat then SA s w else SB s w).toNat)) ∧
  (∀ s, GroupRuns (.sset w x) w.guard { sr := w.a.toNat :: readsB w, qw := [x.pred.toNat] } s →
    let v (u : Word) : Int := if x.ty = 1 then u.toInt else u.toNat
    Gives (exec (.sset w x) s) (fun t =>
      t.g.qpred x.pred.toNat = holds x.sub.toNat (v (SA s w)) (v (SB s w)) ∧
      Wrote s t [] [] [] [x.pred.toNat] 0 []))

namespace Sys2Proof.Claims

/-- PC + 4 × offset (R227). -/
def target (s : State) (off : Int) : Nat := (((s.cur.pc : Int) + 4 * off) % 2 ^ 64).toNat

/-- A lane hallmark after a taken branch of n lanes to t (R211). -/
def fold (h : DWord) (t n : Nat) : DWord := h.rotateLeft 7 ^^^ BitVec.ofNat 64 t ^^^ BitVec.ofNat 64 (n * 2 ^ 56)

/-- Of each lane, the hallmark after a branch in which lane l of the mask m goes to `tgt l`; a lane whose target is the
next instruction folds nothing. -/
def Folded (s t : State) (m : Mask) (tgt : Nat → Nat) : Prop :=
  ∀ l < 128, t.g.hall.get 0 l =
    if m.has l ∧ tgt l ≠ s.cur.npc then
      fold (s.g.hall.get 0 l) (tgt l) ((List.range 128).filter (fun k => m.has k && tgt k == tgt l)).length
    else s.g.hall.get 0 l

/-- A group without its hallmarks. -/
def sansHall (g : Group) : Group := { g with hall := {} }

end Sys2Proof.Claims

/-- R319, R211: SBRA sends every lane of the subgroup to its target, and folds their hallmarks; SLOOP counts down and
branches unless the result is 0. In an A-slice only its PC and its counter change, and a branch to itself idles it (R226). -/
def Obligations.GroupBranchResult : Prop := ∀ (w : GA) (lit : Word) (s : State), s.g.traced = false →
  let dest := target s lit.toInt
  let m := s.cur.lanes
  let c := SR s w.d.toNat - 1
  (GroupRuns (.sbra w lit) w.guard {} s → Gives (exec (.sbra w lit) s) (fun t =>
    t.g.standAt m dest none ∧ Folded s t m (fun _ => dest) ∧ Ends sansHall s t [] [] [] [])) ∧
  (SliceRuns (.sbra w lit) w.guard {} s → Gives (exec (.sbra w lit) s) (fun t =>
    t.g.a.pc = dest ∧ t.g.a.regs = s.g.a.regs ∧ t.g.a.wait = (if dest = s.cur.pc then .idle else .none) ∧
    Ends id s t [] [] [] [])) ∧
  (GroupRuns (.sloop w lit) w.guard { sr := [w.d.toNat], sw := [w.d.toNat] } s → Gives (exec (.sloop w lit) s) (fun t =>
    t.g.sreg w.d.toNat = c ∧ Ends sansHall s t [] [] [w.d.toNat] [] ∧
    (c ≠ 0 → t.g.standAt m dest none ∧ Folded s t m (fun _ => dest)) ∧
    (c = 0 → Advanced s t ∧ t.g.hall = s.g.hall))) ∧
  (SliceRuns (.sloop w lit) w.guard { sr := [w.d.toNat], sw := [w.d.toNat] } s → Gives (exec (.sloop w lit) s) (fun t =>
    SR t w.d.toNat = c ∧ (∀ r, r ≠ w.d.toNat → SR t r = SR s r) ∧ Ends id s t [] [] [] [] ∧
    t.g.a.pc = if c = 0 then s.cur.npc else dest))

namespace Sys2Proof.Claims

/-- The special registers that SREAD may name, but laneid: number and value (R321). -/
def specials (s : State) : List (Nat × Nat) :=
  let g := s.g
  let gr := s.grid g.grid
  let st := gr.launch.mode == 2
  [(0x01, g.team), (0x02, g.num), (0x03, g.role), (0x04, gr.launch.gridid), (0x05, gr.launch.teams),
   (0x06, gr.launch.groups), (0x07, gr.launch.mode + 4 * gr.launch.exhaust.toNat),
   (0x08, if st then g.num else g.slot), (0x09, if st then 0 else g.core), (0x0A, if st then 0 else g.die),
   (0x0B, if st then gr.steer.round else s.clock), (0x0C, if st then gr.steer.round else 0),
   (0x0D, if s.cur.aslice then (if st then g.a.lcut else g.a.cut) else (if st then g.lcut else g.cut)),
   (0x0F, g.spec.name), (0x10, g.budget), (0x11, g.spec.fpflags), (0x12, g.spec.trapbase), (0x13, g.spec.contptr),
   (0x14, g.spec.ganginfo), (0x15, g.spec.digestctl), (0x16, g.a.slip)]

/-- The 64-bit special registers (R321). -/
def wide (n : Nat) : Bool := n == 0x0B || n == 0x0D || n == 0x12 || n == 0x13

end Sys2Proof.Claims

/-- R320, R321: SREAD of every special register writes its value to S(d), or to a pair, and SREAD of laneid writes each
lane of the subgroup its number. In a grid that is not steered, reads of `slot`, `coreid`, `dieid` and `clock` may add an
entry to the grid's DCAUSE besides. -/
def Sys2Proof.Claims.SpecialRegisterRead : Prop := ∀ (w : GA) (x : GXC) (s : State),
  let n := x.imm.toNat
  let timed := 0x08 ≤ n ∧ n ≤ 0x0B ∧ (s.grid s.g.grid).launch.mode ≠ 2
  let k := if wide n then 2 else 1
  let blank (t : State) : State := { t with grids := {} }
  (∀ v, (n, v) ∈ specials s → ScalarRuns (.sread w x) w { sw := regs w.d k, xr := [n] } s →
    Gives (exec (.sread w x) s) (fun t => (¬ timed → WroteScalars s t w.d.toNat k v) ∧
      (timed → WroteScalars (blank s) (blank t) w.d.toNat k v))) ∧
  (n = 0x0E → ScalarRuns (.sread w x) w { sw := regs w.d 1, xr := [n] } s → Gives (exec (.sread w x) s) (fun t =>
    WroteScalars s t w.d.toNat 1 (word (if (s.grid s.g.grid).launch.mode = 1 then (s.team s.g.teamKey).horizon1 - 1 else -1)))) ∧
  (n = 0 → GroupRuns (.sread w x) w.guard { vw := [w.d.toNat] } s → Gives (exec (.sread w x) s) (fun t =>
    WroteLanes s t w.d.toNat 1 s.cur.lanes (fun l => l) 0))

namespace Sys2Proof.Claims

/-- A group without its writable special registers. -/
def sansSpecials (g : Group) : Group := { g with spec := {} }

/-- A value that GANG accepts for a group of number `num` in slot `slot` (R130, R333): 0, or enabled, with a mask of the
four quadrants or of one half, that holds the group's own quadrant with the group's own number, and whose other members
are groups of the team in slots of their quadrants; a field outside the mask is 0. -/
def GangValue (groups slot num v : Nat) : Prop :=
  let q := slot / 16
  let mask := v / 2 ^ 16 % 16
  let field (k : Nat) : Nat := v / 16 ^ k % 16
  v = 0 ∨ (v / 2 ^ 20 = 1 ∧ (mask = 15 ∨ mask = 3 ∨ mask = 12) ∧ mask / 2 ^ q % 2 = 1 ∧ field q = num ∧
    ∀ k < 4, if mask / 2 ^ k % 2 = 1 then field k < groups ∧ field k % 4 = k else field k = 0)

/-- No matrix command of the group is in flight, and no member of its gang waits in a rendezvous latch (R131, R333). -/
def GangIdle (s : State) : Prop := ∀ o ∈ s.eng.ops,
  (o.gid = s.cur.gid → o.kind ≠ .mma ∧ o.kind ≠ .mres ∧ o.kind ≠ .accz ∧ o.kind ≠ .accld ∧ o.kind ≠ .accst) ∧
  o.latched = false

end Sys2Proof.Claims

/-- R321, R333: SWRITE of each writable special register sets it from S(a) or a pair, reserved bits ignored, and changes
nothing else; GANG, and SWRITE of `ganginfo`, set it to a value that its checks accept. -/
def Sys2Proof.Claims.SpecialRegisterWrite : Prop := ∀ (w : GA) (x : GXC) (s : State),
  let n := x.imm.toNat
  let v := (SA s w).toNat
  let p := SR64 s w.a.toNat
  let one := GroupRuns (.swrite w x) w.guard { sr := [w.a.toNat] } s
  let pair := GroupRuns (.swrite w x) w.guard { sr := regs w.a 2 } s
  let ends (t : State) (u : Specials) : Prop := t.g.spec = u ∧ RegsKept s t [] [] [] [] ∧ t.g.longs = s.g.longs ∧
    KeptBut sansSpecials s t ∧ Advanced s t
  (n = 0x11 → one → Gives (exec (.swrite w x) s) (fun t =>
    ends t { s.g.spec with fpflags := v % 2 ^ 5 })) ∧
  (n = 0x12 → pair → p % 2 ^ 10 = 0 → Gives (exec (.swrite w x) s) (fun t => ends t { s.g.spec with trapbase := p })) ∧
  (n = 0x13 → pair → p % 2 ^ 6 = 0 → Gives (exec (.swrite w x) s) (fun t => ends t { s.g.spec with contptr := p })) ∧
  (n = 0x15 → one → Gives (exec (.swrite w x) s) (fun t => ends t { s.g.spec with digestctl := v % 4 })) ∧
  (GangValue s.launch.groups s.g.slot s.g.num v → GangIdle s →
    (n = 0x14 → one → Gives (exec (.swrite w x) s) (fun t => ends t { s.g.spec with ganginfo := v })) ∧
    (GroupRuns (.gang w x) w.guard { sr := [w.a.toNat] } s →
      Gives (exec (.gang w x) s) (fun t => ends t { s.g.spec with ganginfo := v })))

/-- What `SpecialRegisterRead`, `SpecialRegisterWrite` state together, R320, R321, R333. -/
def Obligations.SpecialRegisterResult : Prop :=
  Sys2Proof.Claims.SpecialRegisterRead ∧ Sys2Proof.Claims.SpecialRegisterWrite

namespace Sys2Proof.Claims

/-- The window offset and the global address of a scalar access (R289, R318). -/
def scalarWin (s : State) (w : GA) (x : LXM) : Int := ((SR s w.a.toNat).toNat : Int) + x.off.toInt
def scalarVA (s : State) (w : GA) (x : LXM) : Nat := (((SR64 s w.a.toNat : Int) + x.off.toInt) % 2 ^ 64).toNat

end Sys2Proof.Claims

/-- R318, R288, R289: SLD whose access passes the checks: one value for the group, extended, as a long result in the
C-slice and at once in the A-slice, from a window or from global memory at the slice's cut. No byte and no full bit
changes. -/
def Sys2Proof.Claims.ScalarLoadResult : Prop := ∀ (w : GA) (x : LXM) (s : State),
  let d := w.d.toNat
  let word (v j : Nat) : Word := BitVec.ofNat 32 (extended x v / 2 ^ (32 * j))
  let got (v : Nat) (t : State) : Prop :=
    (if s.cur.aslice then
      (∀ j < words x, SR t (d + j) = word v j) ∧ (∀ r, r < d ∨ d + words x ≤ r → SR t r = SR s r) ∧ t.g.longs = s.g.longs
    else ∃ lg : Long, t.g.longs = s.g.longs ++ [lg] ∧ lg.ss = (List.range (words x)).map (fun j => (d + j, word v j)) ∧
      lg.vs = [] ∧ lg.ps = [] ∧ lg.qs = [] ∧ lg.flags = 0 ∧ lg.ready = true) ∧
    RegsKept s t [] [] [] [] ∧ t.g.spec = s.g.spec ∧ MemFrame id s t ∧ MemKept s t ∧ fullKept s t ∧ Advanced s t
  let reader := if s.cur.aslice then s.g.aReader else s.g
  let cut := if s.cur.aslice then s.g.a.cut else s.g.cut
  let va := scalarVA s w x
  x.fe = 0 → ScalarRuns (.sld w x) w { sr := regs w.a (if x.space = 0 then 2 else 1), sw := regs w.d (words x) } s →
  (x.space ≠ 0 → inWindow s x.space.toNat x (scalarWin s w x) → goodWords s x.space.toNat x (scalarWin s w x) →
    Gives (exec (.sld w x) s)
    (got (little (fun k => winAt s x.space.toNat ((scalarWin s w x).toNat + k)) (size x)))) ∧
  (x.space = 0 → ∀ pa cm, va % size x = 0 → mapped s .load va pa cm → goodLine s pa cm (size x) → unwatched s →
    noAtomics s →
    Gives (exec (.sld w x) s) (got (little (fun k => s.loadByte reader cut (va + k) (s.at cm (pa + k))) (size x))))

/-- R318, R292, R155: SST whose access passes the checks writes S(b), or a pair, at its window offset (`.sf` then sets the
full bit of the granule), or adds it to the group's unpublished bytes; every other byte is as before. -/
def Sys2Proof.Claims.ScalarStoreResult : Prop := ∀ (w : GA) (x : LXM) (s : State),
  let sp := x.space.toNat
  let b := w.x.toNat % 64
  let v := if words x = 2 then SR64 s b else (SR s b).toNat
  let off := (scalarWin s w x).toNat
  let va := scalarVA s w x
  let place := if sp = 1 then s.g.teamKey else s.g.die
  GroupRuns (.sst w x) w.guard
    { sr := regs w.a (if x.space = 0 then 2 else 1) ++ (List.range (words x)).map (b + ·) } s →
  (x.space ≠ 0 → s.mem.feWaits = [] → inWindow s sp x (scalarWin s w x) → Gives (exec (.sst w x) s) (fun t =>
    (∀ a, winAt t sp a = poke (winAt s sp) off (size x) v a) ∧
    (∀ sp' place' a, (sp' ≠ sp ∨ place' ≠ place) → (sp' = 1 ∨ sp' = 2) → t.winByte sp' place' a = s.winByte sp' place' a) ∧
    (sp ≠ 3 → t.g.stack = s.g.stack) ∧ (∀ pa, t.newest pa = s.newest pa) ∧ (∀ n a, t.nodeByte n a = s.nodeByte n a) ∧
    (∀ sp' place' a, (sp' = 1 ∨ sp' = 2) → t.isFull sp' place' a =
      (s.isFull sp' place' a || (x.fe == 3 && sp' == sp && place' == place && off / 16 == a / 16))) ∧
    RegsKept s t [] [] [] [] ∧ t.g.longs = s.g.longs ∧ t.g.spec = s.g.spec ∧
    MemFrame (fun g => { g with stack := {} }) s t ∧ Advanced s t)) ∧
  (x.space = 0 → ∀ pa cm, va % size x = 0 → mapped s .store va pa cm → unwatched s → noAtomics s →
    Gives (exec (.sst w x) s) (fun t =>
      (∀ a : Nat, t.g.unpub.get none a =
        if va ≤ a ∧ a < va + size x then some (byteAt v (a - va)) else s.g.unpub.get none a) ∧
      RegsKept s t [] [] [] [] ∧ t.g.longs = s.g.longs ∧ t.g.spec = s.g.spec ∧
      MemFrame (fun g => { g with unpub := {} }) s t ∧ MemKept s t ∧ fullKept s t ∧ Advanced s t))

/-- What `ScalarLoadResult`, `ScalarStoreResult` state together, R155, R288, R289, R292, R318. -/
def Obligations.ScalarMemoryResult : Prop := Sys2Proof.Claims.ScalarLoadResult ∧ Sys2Proof.Claims.ScalarStoreResult

namespace Sys2Proof.Claims

/-! ## Control flow and traps (07 R119 to R122, 10 R191 to R197, 16 R307 to R312) -/

/-- The word of code that the group fetches at va: its translation is in the core's TLB and its line is good (R241). -/
def fetches (s : State) (va e : Nat) : Prop := ∃ pa cm, mapped s .fetch va pa cm ∧ goodLine s pa cm 4 ∧
  e = little (fun k => s.loadByte s.g s.g.cut (va + k) (s.at cm (pa + k))) 4

/-- The lanes of the subgroup that are not in m go to the next place. -/
def RestAdvances (s t : State) (m : Mask) : Prop :=
  s.cur.lanes.diff m ≠ 0 → t.g.standAt (s.cur.lanes.diff m) s.nextPlace.1 s.nextPlace.2

/-- The lanes m have branched: those of one target stand there together, the others have gone on, hallmarks have folded,
and nothing else changed but the registers v (R120, R211, R307). -/
def Branched (s t : State) (m : Mask) (tgt : Nat → Nat) (v : List Nat) : Prop :=
  (∀ l < 128, m.has l → t.g.standAt (Mask.of (fun k => m.has k && tgt k == tgt l)) (tgt l) none) ∧
  RestAdvances s t m ∧ Folded s t m tgt ∧ Ends sansHall s t v [] [] []

/-- With `.u`, the lanes of m agree. -/
def agree (b : LB) (m : Mask) (f : Nat → Nat) : Prop :=
  b.u = true → ∀ l < 128, ∀ k < 128, m.has l → m.has k → f l = f k

/-- The 64-bit value that a pair holds at a lane. -/
def pair (s : State) (r : BitVec 6) (l : Nat) : Nat :=
  ((s.g.vreg r.toNat).get l).toNat + 2 ^ 32 * ((s.g.vreg (r.toNat + 1)).get l).toNat

end Sys2Proof.Claims

/-- R307 to R310, R211: the lane branches. BRA and CALL go to PC + 4 × offset, JMPR and RET to a pair, BRX to a table's
entry, CALLI to a pair whose frame words ask for no more than the group's budget; CALL and CALLI write PC + 8 to their
pair. Lanes whose guard is false fall through. -/
def Sys2Proof.Claims.LaneBranchResult : Prop := ∀ (b : LB) (y : LXB) (s : State), s.g.traced = false →
  let m := s.active b.guard
  let dest := target s b.off.toInt
  let link (t : State) : Prop := s.g.wroteV t.g y.a.toNat 2 m (fun _ => (s.cur.pc + s.cur.len) % 2 ^ 64)
  (LaneRuns (.bra b) b.guard {} s → Gives (exec (.bra b) s) (fun t => Branched s t m (fun _ => dest) [])) ∧
  (LaneRuns (.call b y) b.guard { vw := regs y.a 2 } s → Gives (exec (.call b y) s) (fun t =>
    link t ∧ Branched s t m (fun _ => dest) (regs y.a 2))) ∧
  ((∀ l < 128, m.has l → pair s y.a l % 4 = 0) → agree b m (pair s y.a) →
    (∀ i, i = .jmpr b y ∨ i = .ret b y → LaneRuns i b.guard { vr := regs y.a 2 } s →
      Gives (exec i s) (fun t => Branched s t m (pair s y.a) [])) ∧
    (∀ need : Nat → Nat, (∀ l < 128, m.has l → need l ≤ 2 ∧ need l ≤ s.g.budget ∧
        fetches s ((pair s y.a l + 2 ^ 64 - 4) % 2 ^ 64) (0xFFF00000 + need l)) →
      LaneRuns (.calli b y) b.guard { vr := regs y.a 2, vw := regs y.a 2 } s →
      Gives (exec (.calli b y) s) (fun t => link t ∧ Branched s t m (pair s y.a) (regs y.a 2)))) ∧
  (∀ e : Nat → Nat,
    let i (l : Nat) : Nat := ((s.g.vreg y.a.toNat).get l).toNat
    let tgt (l : Nat) : Nat := (((dest : Int) + (BitVec.ofNat 32 (e l)).toInt) % 2 ^ 64).toNat
    (∀ l < 128, m.has l → i l ≤ y.n.toNat ∧ fetches s ((dest + 4 * i l) % 2 ^ 64) (e l) ∧ e l % 4 = 0) → agree b m i →
    LaneRuns (.brx b y) b.guard { vr := regs y.a 1 } s →
    Gives (exec (.brx b y) s) (fun t => Branched s t m tgt []))

namespace Sys2Proof.Claims

/-- A group without its join stacks and the lanes that wait at JOINs. -/
def sansJoins (g : Group) : Group := { g with joins := {}, joining := [], joinedAt := 0 }
/-- The entries of a lane's join stack, top first. -/
def stackOf (g : Group) (l : Nat) : List (Nat × Mask) := g.joins.get [] l

end Sys2Proof.Claims

/-- R121, R311: JSET pushes an entry of its target and the active lanes onto each active lane's stack, unless one is
full, which raises BOUND 0x2 at all of them. JOIN passes lanes whose top entry names another address; the others wait,
and when all of an entry's lanes wait or have exited they pop it and go on as one subgroup. -/
def Sys2Proof.Claims.RendezvousResult : Prop := ∀ (b : LB) (s : State),
  let m := s.active b.guard
  let pc := s.cur.pc
  let here (l : Nat) : Bool := m.has l && ((stackOf s.g l).head?.map (·.1) == some pc)
  (LaneRuns (.jset b) b.guard {} s → (∀ l < 128, m.has l → (stackOf s.g l).length < 8) →
    Gives (exec (.jset b) s) (fun t =>
      (∀ l < 128, stackOf t.g l = if m.has l then (target s b.off.toInt, m) :: stackOf s.g l else stackOf s.g l) ∧
      t.g.joining = s.g.joining ∧ Advanced s t ∧ Ends sansJoins s t [] [] [] [])) ∧
  (LaneRuns (.jset b) b.guard {} s → s.g.trap = none → s.g.spec.trapbase ≠ 0 → s.cur.handler = false →
    (s.part s.g.partKey).owner = some (s.cur.gid + 1) → (∃ l < 128, m.has l ∧ 8 ≤ (stackOf s.g l).length) →
    Gives (exec (.jset b) s) (fun t => (∃ x, t.g.trap = some x ∧ x.cls = 4 ∧ x.sub = 2 ∧ x.lanes = m ∧ x.pc = pc) ∧
      t.g.joins = s.g.joins)) ∧
  (LaneRuns (.join b) b.guard {} s → s.g.joining = [] →
    ((∀ l < 128, here l = false) → Gives (exec (.join b) s) (fun t => Advanced s t ∧ Ends id s t [] [] [] [])) ∧
    (∀ jm : Mask, s.g.trap = none → Mask.of here ≠ 0 → (∀ l < 128, here l → (stackOf s.g l).head? = some (pc, jm) ∧ jm.has l) →
      ((∀ l < 128, jm.has l → here l ∨ s.g.exited.has l) → Gives (exec (.join b) s) (fun t =>
        t.g.standAt (Mask.of here) ((pc + 4) % 2 ^ 64) none ∧ RestAdvances s t (Mask.of here) ∧ t.g.joining = [] ∧
        (∀ l < 128, stackOf t.g l = if here l then (stackOf s.g l).tail else stackOf s.g l) ∧
        Ends sansJoins s t [] [] [] [])) ∧
      ((∃ l < 128, jm.has l ∧ here l = false ∧ s.g.exited.has l = false) → Gives (exec (.join b) s) (fun t =>
        t.g.joining = [(Mask.of here, pc)] ∧ t.g.joins = s.g.joins ∧ RestAdvances s t (Mask.of here) ∧
        Ends sansJoins s t [] [] [] []))))

/-- What `LaneBranchResult`, `RendezvousResult` state together, R121, R211, R307, R310, R311. -/
def Obligations.LaneControlResult : Prop := Sys2Proof.Claims.LaneBranchResult ∧ Sys2Proof.Claims.RendezvousResult

namespace Sys2Proof.Claims

/-- The group owes nothing at a commit: no unpublished byte, no command whose writes it waits for, no AQST behind its
queue, no recorded engine fault, and no commit in progress. -/
structure Settled (s : State) : Prop where
  bytes : s.g.unpub.cells = []
  pend : s.g.pend = {}
  faults : s.g.faults = []
  slice : s.g.a.pushed ≤ s.g.a.popped
  ops : ∀ o ∈ s.eng.ops, o.gid = s.cur.gid → o.kind ≠ .copy ∧ o.kind ≠ .gather ∧ o.kind ≠ .accst
  commits : ∀ c ∈ s.mem.commits, c.gid ≠ s.cur.gid ∧ c.id < s.nextId

/-- The sum that an exit hallmark gains (R211). -/
def exitSum (s : State) (m : Mask) : DWord :=
  ((List.range 128).filter m.has).foldl (fun a l => a + (s.g.hall.get 0 l).rotateLeft (l % 64)) s.g.exitHall

end Sys2Proof.Claims

/-- R312, R211, 05 R90: EXIT of some of the group's lanes retires them and adds to the exit hallmark; the others go on.
EXIT of its last live lanes, with nothing left to commit, ends the group's run: it drains, with no blocks held. -/
def Obligations.ExitResult : Prop := ∀ (b : LB) (s : State),
  let m := s.active b.guard
  LaneRuns (.exit b) b.guard {} s → s.cur.handler = false → s.g.joining = [] → s.g.faults = [] → s.g.status = .running →
  (s.g.live.diff m ≠ 0 → (∀ x ∈ s.g.subs, ∀ n k, x.wait ≠ .bar n k) → Gives (exec (.exit b) s) (fun t =>
    t.g.exited = s.g.exited ||| m ∧ t.g.exitHall = exitSum s m ∧ RestAdvances s t m ∧
    Ends (fun g => { g with exited := 0, exitHall := 0 }) s t [] [] [] [])) ∧
  (s.g.live.diff m = 0 → Settled s → Gives (exec (.exit b) s) (fun t =>
    t.g.status = .draining ∧ t.g.exited = s.g.exited ||| m ∧ t.g.exitHall = exitSum s m ∧ t.g.budget = 0 ∧ t.g.subs = [] ∧
    RegsKept s t [] [] [] [] ∧ MemKept s t))

namespace Sys2Proof.Claims

/-- Bytes of the side buffer as a number. -/
def sideField (g : Group) (off n : Nat) : Nat := little (fun k => g.side.get 0 (off + k)) n

/-- The trap of class `cls` and sub-code `sub` can enter its handler at once: the group has a vector table, no lane of it
traps or runs the handler, and no group of its partition holds the handler set or waits for it (R192, R194). -/
structure HandlerFree (s : State) : Prop where
  table : s.g.spec.trapbase ≠ 0
  outside : s.cur.handler = false
  plain : s.cur.micro = none
  trap : s.g.trap = none
  parked : s.g.parked = []
  run : s.g.status = .running
  set : (s.part s.g.partKey).owner = none
  queue : ∀ c ∈ s.groups.cells, c.1 ≠ s.cur.gid → c.2.partKey = s.g.partKey → c.2.trap = none

/-- The lanes m have taken a trap and entered the handler: PC, side buffer and t0 to t15 (R194, R196). -/
structure Entered (s t : State) (m : Mask) (cls sub : Nat) (addr : Nat → Nat) : Prop where
  trap : ∃ x, t.g.trap = some x ∧ x.cls = cls ∧ x.sub = sub ∧ x.lanes = m ∧ x.pc = s.cur.pc ∧ x.npc = s.cur.npc ∧ x.entered = true
  stands : ∃ y ∈ t.g.subs, y.lanes = m ∧ y.handler = true ∧ y.pc = (s.g.spec.trapbase + 64 * cls) % 2 ^ 64
  set : (t.part s.g.partKey).owner = some s.cur.gid
  t0 : ∀ l < 128, m.has l → ((t.part s.g.partKey).t.get {} 0).get l = BitVec.ofNat 32 (cls + sub * 2 ^ 8 + l * 2 ^ 16)
  t1 : ∀ l < 128, m.has l → ((t.part s.g.partKey).t.get {} 1).get l = BitVec.ofNat 32 (addr l)
  t2 : ∀ l < 128, m.has l → ((t.part s.g.partKey).t.get {} 2).get l = BitVec.ofNat 32 (addr l / 2 ^ 32)
  rest : ∀ l < 128, m.has l → ∀ r, 3 ≤ r → r < 16 → ((t.part s.g.partKey).t.get {} r).get l = 0
  other : ∀ l < 128, m.has l = false → ∀ r < 16,
    ((t.part s.g.partKey).t.get {} r).get l = ((s.part s.g.partKey).t.get {} r).get l
  pc : sideField t.g 0 8 = s.cur.pc % 2 ^ 64
  npc : sideField t.g 8 8 = s.cur.npc
  code : t.g.side.get 0 24 = BitVec.ofNat 8 cls ∧ t.g.side.get 0 25 = BitVec.ofNat 8 sub
  mask : sideField t.g 32 16 = m.toNat
  insn : sideField t.g 48 4 = s.cur.w0 % 2 ^ 32
  record : ∀ l < 128, m.has l → sideField t.g (128 + 16 * l) 8 = addr l % 2 ^ 64

/-- A group without its trap, its side buffer, and the latch of failed page-ins and released freezes that a trap ends. -/
def sansTrap (g : Group) : Group := { g with trap := none, side := {} }
/-- The machine without those marks. -/
def sansMarks (s : State) : State :=
  { s with xlat := { s.xlat with failed := [] }, host := { s.host with released := [] } }

end Sys2Proof.Claims

/-- R312, R341, R191, R193, R194, R196: BPT raises DEBUG 0x1 at its active lanes, and TRAP the class and sub-code that it
names at every lane of the subgroup. With a vector table and the handler set free, they enter the handler; the other
lanes go on, and nothing else changes. -/
def Sys2Proof.Claims.TrapEntryResult : Prop := ∀ (b : LB) (w : GA) (s : State), HandlerFree s →
  (LaneRuns (.bpt b) b.guard {} s → Gives (exec (.bpt b) s) (fun t =>
    Entered s t (s.active b.guard) 12 1 (fun _ => 0) ∧ RestAdvances s t (s.active b.guard) ∧
    Ends sansTrap s t [] [] [] [] sansMarks [s.g.partKey])) ∧
  (GroupRuns (.trap w) w.guard {} s → Gives (exec (.trap w) s) (fun t =>
    Entered s t s.cur.lanes w.x.toNat w.d.toNat (fun _ => 0) ∧
    Ends sansTrap s t [] [] [] [] sansMarks [s.g.partKey]))

/-- R192, R76: a trap of a group whose `trapbase` is 0, and a trap raised in a handler, are fatal: every group of the
grid stops at its next instruction boundary and leaves its slot once it owes nothing, the grid is to complete with status
2 (`Claims.GroupLeavesResult` says when), and the side buffer of the slot holds the trap. No group of another grid changes. -/
def Sys2Proof.Claims.FatalTrapResult : Prop := ∀ (b : LB) (s : State), LaneRuns (.bpt b) b.guard {} s →
  let gr := s.gridOf s.cur.gid
  s.g.spec.trapbase = 0 ∨ s.cur.handler = true → s.cur.micro = none →
  gr.status = .running → gr.stopping = false → gr.ending = none → s.g.status = .running →
  Gives (exec (.bpt b) s) (fun t =>
    (t.grid s.g.grid).stopping = true ∧ (t.grid s.g.grid).code = 2 ∧
    (∀ k, (s.group k).grid = s.g.grid → (s.group k).status ≠ .gone →
      (t.group k).status = .gone ∨ (t.group k).status = .draining ∨
      ((t.group k).status = .running ∧ (t.group k).subs ≠ [] ∧ ∀ y ∈ (t.group k).subs, y.mid = true)) ∧
    t.host.lastFatal = some (s.g.die, s.g.core, s.g.slot) ∧ t.host.fatalSide.get 0 24 = 12 ∧ t.host.fatalSide.get 0 25 = 1 ∧
    (∀ k, (s.group k).grid ≠ s.g.grid → t.group k = s.group k))

/-- What `TrapEntryResult`, `FatalTrapResult` state together, R76, R191, R192, R193, R194, R196, R312, R341. -/
def Obligations.TrapResult : Prop := Sys2Proof.Claims.TrapEntryResult ∧ Sys2Proof.Claims.FatalTrapResult

namespace Sys2Proof.Claims

/-- The lanes that the trap subgroup returns: those that have not exited (R197). -/
def returnedLanes (s : State) (x : Trap) : Mask := Mask.of (fun l => x.lanes.has l && !s.g.exited.has l)

/-- The group's handler holds trap `x`, of no split instruction, and no other trap of the partition waits for the set. -/
def InHandler (s : State) (x : Trap) : Prop :=
  s.cur.handler = true ∧ s.g.trap = some x ∧ s.g.parked = [] ∧ x.flags = 0 ∧
  ∀ c ∈ s.groups.cells, c.1 ≠ s.cur.gid → c.2.partKey = s.g.partKey → c.2.trap = none

/-- The trap's lanes stand at `dest`, and the handler set is free (R194, R197). -/
def Returned (s t : State) (x : Trap) (dest : Nat → Nat) : Prop :=
  let lanes := returnedLanes s x
  (∀ l < 128, lanes.has l → t.g.standAt (Mask.of (fun k => lanes.has k && dest k == dest l)) (dest l) none) ∧
  (∀ y ∈ t.g.subs, y.handler = false) ∧ t.g.trap = none ∧ (t.part s.g.partKey).owner = none ∧
  (t.part s.g.partKey).t = (s.part s.g.partKey).t ∧
  t.g.joining = (s.g.joining.map (fun j => (j.1.diff lanes, j.2))).filter (fun j => j.1 != 0) ∧
  Ends (fun g => { g with trap := none, joining := [] }) s t [] [] [] [] id [s.g.partKey]

end Sys2Proof.Claims

/-- R197, R194: RFT completes and returns every lane of the trap that has not exited, wherever in the handler it runs or waits,
to the trapping instruction, to the next one, or to the address that its t15 gives, by form; the handler set is free again. -/
def Obligations.HandlerReturnResult : Prop := ∀ (w : GA) (s : State) (x : Trap), InHandler s x →
  let t15 (l : Nat) : Nat := (((s.part s.g.partKey).t.get {} 15).get l).toNat
  (GroupRuns (.rftRetry w) w.guard {} s →
    ∃ t, Sys2Proof.Machine.exec (.rftRetry w) s = .next t ∧ Returned s t x (fun _ => x.pc)) ∧
  (GroupRuns (.rftNext w) w.guard {} s →
    ∃ t, Sys2Proof.Machine.exec (.rftNext w) s = .next t ∧ Returned s t x (fun _ => x.npc)) ∧
  (GroupRuns (.rftJump w) w.guard {} s → (∀ l < 128, (returnedLanes s x).has l → t15 l % 4 = 0) →
    ∃ t, Sys2Proof.Machine.exec (.rftJump w) s = .next t ∧ Returned s t x (fun l => x.pc / 2 ^ 32 * 2 ^ 32 + t15 l))

namespace Sys2Proof.Claims

/-! ## Publishing and synchronising (08 R155 to R158, 17 R322 to R328) -/

/-- Nothing holds up a commit of the group or makes it fault: no command whose writes it waits for, no AQST behind its
queue, no recorded engine fault, and no commit in progress. -/
structure CommitClear (s : State) : Prop where
  faults : s.g.faults = []
  slice : s.g.a.pushed ≤ s.g.a.popped
  ops : ∀ o ∈ s.eng.ops, o.gid = s.cur.gid → o.kind ≠ .copy ∧ o.kind ≠ .gather ∧ o.kind ≠ .accst
  commits : ∀ c ∈ s.mem.commits, c.gid ≠ s.cur.gid ∧ c.id < s.nextId

/-- A group without its cut. -/
def sansCut (g : Group) : Group := { g with cut := 0, cutAfter := false, lateFrom := 0 }
/-- A group without its cut, its bytes on the way to memory, and the count of its commits. -/
def sansBytes (g : Group) : Group := { sansCut g with unpub := {}, pend := {}, epoch := 0 }
/-- The machine without its memory system, its teams, or its grids. -/
def sansMem (s : State) : State := { s with mem := {} }
def sansTeams (s : State) : State := { s with teams := {} }

/-- The issuing subgroup stands where it did and waits. -/
def Waits (s t : State) (c : Cond) : Prop :=
  ∃ x ∈ t.g.subs, x.lanes = s.cur.lanes ∧ x.wait = c

/-- The subgroup being issued is one of the group's, alone with its lanes. -/
def Standing (s : State) : Prop :=
  ∃ x, s.g.subs.filter (fun y => y.lanes == s.cur.lanes) = [x] ∧ x.pc = s.cur.pc ∧ x.handler = s.cur.handler ∧ x.wait = .none

/-- The grid of the issuing group is not steered: its operations wait at no site (06 R101). -/
def unsteered (s : State) : Prop := (s.grid s.g.grid).launch.mode ≠ 2

end Sys2Proof.Claims

/-- R322, R156, R158: PHASE and PHASE.rel commit exactly the group's unpublished bytes. With none, PHASE takes a cut at
this clock and PHASE.rel nothing; with some, whose pages are mapped, the commit is installed with them and their physical
addresses, and the subgroup waits until it is visible, when the instruction ends (PHASE with its cut). PHASE.acq takes the
cut alone. -/
def Obligations.PhaseResult : Prop := ∀ (w : GA) (x : GXC) (s : State) (pa cm : Nat → Nat), unsteered s →
  let rel (i : Instr) : Prop := i = .phase w x ∨ i = .phaseRel w x
  let cutNow (i : Instr) : Nat := if i = .phaseRel w x then s.g.cut else s.clock
  (GroupRuns (.phaseAcq w x) w.guard {} s → (∀ f ∈ s.g.faults, f.tiles = []) → Gives (exec (.phaseAcq w x) s) (fun t =>
    t.g.cut = s.clock ∧ Advanced s t ∧ Ends sansCut s t [] [] [] [])) ∧
  (∀ i, rel i → GroupRuns i w.guard {} s → Settled s → Gives (exec i s) (fun t =>
    t.g.cut = cutNow i ∧ t.g.unpub = {} ∧ Advanced s t ∧ Ends sansBytes s t [] [] [] [])) ∧
  (∀ i, rel i → GroupRuns i w.guard {} s → CommitClear s → Standing s → unwatched s → s.g.unpub.cells ≠ [] →
    (∀ c ∈ s.g.unpub.cells, mapped s .store c.1 (pa c.1) (cm c.1)) →
    Gives (exec i s) (fun t =>
      (∃ c, t.mem.commits = s.mem.commits ++ [c] ∧ c.id = s.nextId ∧ c.gid = s.cur.gid ∧ c.installed = true ∧ c.covers = s.g.unpub ∧
        c.bytes = s.g.unpub.cells.map (fun b => { va := b.1, pa := pa b.1, loc := s.at (cm b.1) (pa b.1), val := b.2.getD 0 }) ∧
        (∀ ck, ck ∈ c.notices ↔ ∃ b ∈ s.g.unpub.cells, ck ∈ s.mem.dir.get [] (s.at (cm b.1) (pa b.1) / 64))) ∧
      t.g.unpub = {} ∧ t.g.cut = s.g.cut ∧ Waits s t (.commit s.nextId) ∧
      Ends sansBytes s t [] [] [] [] sansMem)) ∧
  (∀ i, rel i → s.cur.stage = 2 → s.cur.aslice = false → s.cur.lanes ≠ 0 → Gives (exec i s) (fun t =>
    t.g.cut = cutNow i ∧ Advanced s t ∧ Ends sansCut s t [] [] [] []))

/-- R323: BAR n, k. A group of which some live lane waits elsewhere has not arrived: its subgroup waits. The last one
arrives: the generation takes its count, and completes when k groups have arrived (k = 0: all that have not exited), which
lets them past the BAR; else the group parks. -/
def Sys2Proof.Claims.BarrierResult : Prop := ∀ (w : GA) (x : GXC) (s : State),
  let n := x.imm.toNat % 16
  let k := x.imm.toNat / 16 % 32
  let tk := s.g.teamKey
  let b := (s.team tk).bars.get {} n
  let all := b.arrived ++ [s.cur.gid]
  let complete := if k = 0 then ∀ j ∈ (s.team tk).gids, (s.group j).status ≠ .gone → (s.group j).status ≠ .draining → j ∈ all
    else k ≤ all.length
  GroupRuns (.bar w x) w.guard {} s → k ≤ s.launch.groups → s.cur.handler = false → Standing s →
  (∀ y ∈ s.g.subs, ∀ m j, y.wait ≠ .bar m j) →
  (s.g.live.diff s.cur.lanes ≠ 0 → Gives (exec (.bar w x) s) (fun t =>
    Waits s t (.bar n b.gen) ∧ Ends id s t [] [] [] [])) ∧
  (s.g.live.diff s.cur.lanes = 0 → s.cur.gid ∉ b.arrived → (b.k = none ∨ b.k = some k) →
    (complete → Gives (exec (.bar w x) s) (fun t =>
      (t.team tk).bars.get {} n = { gen := b.gen + 1 } ∧ t.g.wake = none ∧
      t.g.standAt s.cur.lanes ((s.cur.pc + 8) % 2 ^ 64) none ∧ (∀ j, j ∉ all → t.group j = s.group j) ∧
      RegsKept s t [] [] [] [] ∧ t.g.others = s.g.others ∧ MemKept s t)) ∧
    (¬ complete → Gives (exec (.bar w x) s) (fun t =>
      (t.team tk).bars.get {} n = { gen := b.gen, k := some k, arrived := all } ∧
      t.g.wake.map (·.cond) = some (.bar n b.gen) ∧ Ends id s t [] [] [] [] sansTeams)))

/-- R324, R127: ARRIVE with nothing left to commit sends its increment, with N, to the word's home, the predicate
pending. When the home has answered it ends: the answer is the predicate's long result, and the participant that completes
the count takes a cut. -/
def Sys2Proof.Claims.ArriveResult : Prop := ∀ (w : GA) (x : GXC) (s : State) (pa cm : Nat), unsteered s →
  let va := SR64 s w.a.toNat
  (GroupRuns (.arrive w x) w.guard { sr := regs w.a 2 ++ readsB w, qw := preds x.pred } s → Settled s → Standing s →
    va % 4 = 0 → SB s w ≠ 0 → mapped s .atomic va pa cm → goodLine s pa cm 4 → unwatched s → noAtomics s →
    Gives (exec (.arrive w x) s) (fun t =>
      (∃ o, t.mem.homeOps = s.mem.homeOps ++ [o] ∧ o.gid = s.cur.gid ∧ o.kind = 4 ∧ o.width = 4 ∧ o.n = (SB s w).toNat ∧
        o.lanes.map (fun h => (h.va, h.pa, h.loc)) = [(va, pa, s.at cm pa)] ∧ Waits s t (.homeOp o.id)) ∧
      (x.pred ≠ 7 → ∃ lg, t.g.longs = s.g.longs ++ [lg] ∧ lg.qs.map (·.1) = [x.pred.toNat] ∧ lg.ready = false) ∧
      (x.pred = 7 → t.g.longs = s.g.longs) ∧ RegsKept s t [] [] [] [] ∧ t.g.spec = s.g.spec ∧ MemKept s t)) ∧
  (∀ o, s.cur.stage = 4 → s.cur.aslice = false → s.cur.lanes ≠ 0 → s.cur.aux = o.id →
    s.mem.homeOps.filter (fun y => y.id == o.id) = [o] → o.who = [] →
    Gives (exec (.arrive w x) s) (fun t =>
      (∀ y ∈ t.mem.homeOps, y.id ≠ o.id) ∧ t.g.cut = (if o.result then s.clock else s.g.cut) ∧
      (∀ lg ∈ s.g.longs, lg.qs.map (·.1) = [x.pred.toNat] →
        ∃ lg' ∈ t.g.longs, lg'.id = lg.id ∧ lg'.qs = [(x.pred.toNat, o.result)] ∧ lg'.ready = true) ∧
      RegsKept s t [] [] [] [] ∧ Advanced s t))

/-- R326, R327, R328: WAITLOW k below the group's team waits until teams 0 to k have retired, raises the horizon of a
deterministic grid, and takes a cut. TRIGGER marks the group. WAITV goes on if the newest committed word meets its
condition, and parks if not. -/
def Sys2Proof.Claims.WaitResult : Prop := ∀ (w : GA) (x : GXC) (s : State) (pa cm : Nat),
  let k := (SB s w).toInt
  let det := (s.grid s.g.grid).launch.mode = 1
  let retired := ∀ i : Nat, (i : Int) ≤ k → ∃ c ∈ s.teams.cells, c.2.grid = s.g.grid ∧ c.2.idx = i ∧ c.2.retired = true
  let once := (s.teams.cells.filter (fun c => c.2.grid == s.g.grid && c.2.retired)).map (·.2.idx)
  let va := SR64 s w.a.toNat
  let v (u : Word) : Int := if x.ty = 1 then u.toInt else u.toNat
  let holds' := holds x.sub.toNat (v (BitVec.ofNat 32 (little (fun j => s.newest (s.at cm pa + j)) 4))) (v (SB s w))
  (GroupRuns (.waitlow w x) w.guard { sr := readsB w } s → k < s.g.team → unsteered s → once.Nodup →
    (retired → Gives (exec (.waitlow w x) s) (fun t =>
      t.g.cut = s.clock ∧ Advanced s t ∧ Ends sansCut s t [] [] [] [] sansTeams ∧
      (t.team s.g.teamKey).horizon1 =
        (if det ∧ 0 ≤ k then max (s.team s.g.teamKey).horizon1 (k.toNat + 1) else (s.team s.g.teamKey).horizon1))) ∧
    (¬ retired → s.cur.handler = false → Gives (exec (.waitlow w x) s) (fun t =>
      t.g.wake.map (·.cond) = some (.waitlow k.toNat) ∧ Ends id s t [] [] [] []))) ∧
  (GroupRuns (.trigger w) w.guard {} s → Gives (exec (.trigger w) s) (fun t =>
    t.g.triggered = true ∧ Advanced s t ∧ Ends (fun g => { g with triggered := false }) s t [] [] [] [] sansTeams ∧
    ((s.team s.g.teamKey).trigTime = none → (∀ j ∈ (s.team s.g.teamKey).gids, j ≠ s.cur.gid → (s.group j).triggered = true) →
      (t.team s.g.teamKey).trigTime = some s.clock) ∧
    (∀ c, (s.team s.g.teamKey).trigTime = some c → (t.team s.g.teamKey).trigTime = some c))) ∧
  (GroupRuns (.waitv w x) w.guard { sr := regs w.a 2 ++ readsB w } s → va % 4 = 0 → mapped s .load va pa cm →
    goodLine s pa cm 4 → unwatched s → noAtomics s →
    (holds' = true → Gives (exec (.waitv w x) s) (fun t =>
      Advanced s t ∧ Ends (fun g => { g with observed := false }) s t [] [] [] [] sansMarks)) ∧
    (holds' = false → s.cur.handler = false → Gives (exec (.waitv w x) s) (fun t =>
      t.g.wake.map (·.cond) = some (.waitv va (s.at cm pa) x.sub.toNat x.ty.toNat (SB s w)) ∧ Ends id s t [] [] [] [] sansMarks)))

/-- What `BarrierResult`, `ArriveResult`, `WaitResult` state together, R127, R323, R324, R326, R327, R328. -/
def Obligations.TeamSynchronization : Prop :=
  Sys2Proof.Claims.BarrierResult ∧ Sys2Proof.Claims.ArriveResult ∧ Sys2Proof.Claims.WaitResult

namespace Sys2Proof.Claims

/-! ## Budgets, names and deliveries (07 R124, R141 to R146) -/

/-- Registers of a budget (R124). -/
def limit (k : Nat) : Nat := 32 + 16 * k
/-- Blocks that the groups in a partition's slots hold, those that are being moved out among them. -/
def blocksHeld (s : State) (pk : Nat) : Nat :=
  ((s.groups.cells.filter (fun c => (c.2.status == .running || c.2.status == .migrating) && c.2.partKey == pk)).map
    (·.2.budget)).sum
/-- A name (R141). -/
def nameBits (pkg idx gen : Nat) : Nat := pkg * 2 ^ 26 + idx * 2 ^ 8 + gen

end Sys2Proof.Claims

/-- R329, R330: XACQ to a budget that the group has is no effect; to a larger one it takes the blocks, which read as zero,
if the pool of eight has them and no request waits, else it parks. XREL gives blocks back with their registers and hold
counts. HOLD sets a hold count. -/
def Sys2Proof.Claims.BudgetResult : Prop := ∀ (w : GA) (x : GXC) (s : State),
  let k := w.x.toNat
  let pk := s.g.partKey
  (GroupRuns (.xacq w) w.guard {} s →
    (k ≤ s.g.budget → Gives (exec (.xacq w) s) (fun t => Wrote s t [] [] [] [] 0 [])) ∧
    (s.g.budget < k → (s.part pk).xacq = [] →
      (blocksHeld s pk + (k - s.g.budget) ≤ 8 → Gives (exec (.xacq w) s) (fun t =>
        t.g.budget = k ∧ (∀ r, limit s.g.budget ≤ r → r < limit k → t.g.vreg r = {}) ∧ Advanced s t ∧
        Ends (fun g => { g with budget := 0 }) s t ((List.range 64).filter (fun r => limit s.g.budget ≤ r)) [] [] [] id [pk])) ∧
      (8 < blocksHeld s pk + (k - s.g.budget) → s.cur.handler = false → Gives (exec (.xacq w) s) (fun t =>
        t.g.wake.map (·.cond) = some (.blocks k) ∧ (t.part pk).xacq = [(s.cur.gid, k, s.clock)] ∧
        Ends id s t [] [] [] [] id [pk])))) ∧
  (GroupRuns (.xrel w) w.guard {} s →
    (s.g.budget ≤ k → Gives (exec (.xrel w) s) (fun t => Wrote s t [] [] [] [] 0 [])) ∧
    (k < s.g.budget → (∀ r ∈ s.g.pendV, r < limit k) → Gives (exec (.xrel w) s) (fun t =>
      t.g.budget = k ∧ (∀ r, limit k ≤ r → t.g.vreg r = {} ∧ t.g.holds.get 0 r = 0) ∧
      (∀ r, r < limit k → t.g.vreg r = s.g.vreg r ∧ t.g.holds.get 0 r = s.g.holds.get 0 r) ∧ Advanced s t ∧
      (∀ p, t.g.pred p = s.g.pred p) ∧ (∀ r, t.g.sreg r = s.g.sreg r) ∧ (∀ p, t.g.qpred p = s.g.qpred p) ∧
      KeptBut (fun g => { g with budget := 0, holds := {} }) s t))) ∧
  (GroupRuns (.hold w x) w.guard {} s → w.d.toNat < limit s.g.budget → Gives (exec (.hold w x) s) (fun t =>
    t.g.holds.get 0 w.d.toNat = x.imm.toNat % 256 ∧ (∀ r, r ≠ w.d.toNat → t.g.holds.get 0 r = s.g.holds.get 0 r) ∧
    Advanced s t ∧ Ends (fun g => { g with holds := {} }) s t [] [] [] []))

/-- R331, R141, R142: NAME gives a group its name once. In a free grid it is the package, an index and the index's
generation; elsewhere it is canonical: the package, 16 × team + group + 1, and generation 0. The scalar is a long result. -/
def Sys2Proof.Claims.NameResult : Prop := ∀ (w : GA) (s : State),
  let lg (t : State) (v : Nat) : Prop := t.g.spec.name = v ∧ Advanced s t ∧
    ∃ x, t.g.longs = s.g.longs ++ [x] ∧ x.ss = [(w.d.toNat, BitVec.ofNat 32 v)] ∧ x.vs = [] ∧ x.ps = [] ∧ x.qs = [] ∧
      x.ready = true
  let keeps (t : State) : Prop := RegsKept s t [] [] [] [] ∧
    KeptBut (fun g => { g with spec := {}, nameIdx := 0 }) s t (fun s => { s with names := {} })
  GroupRuns (.name w) w.guard { sw := [w.d.toNat] } s →
  (s.g.nameIdx ≠ 0 → Gives (exec (.name w) s) (fun t => lg t s.g.spec.name ∧ t.names = s.names ∧ keeps t)) ∧
  (s.g.nameIdx = 0 → s.names.used < 262143 → (∀ i, s.names.gens.get 0 i < 255) → s.g.team < 16383 →
    Gives (exec (.name w) s) (fun t =>
    t.g.nameIdx ≠ 0 ∧ t.names.holder.get 0 t.g.nameIdx = s.cur.gid + 1 ∧ keeps t ∧
    ((s.grid s.g.grid).launch.mode = 0 → lg t (nameBits s.pkgid t.g.nameIdx (s.names.gens.get 0 t.g.nameIdx + 1))) ∧
    ((s.grid s.g.grid).launch.mode ≠ 0 → s.g.num < 16 → lg t (nameBits s.pkgid (16 * s.g.team + s.g.num + 1) 0))))

/-- R332, R145: RSTV to a name of this package posts all 128 lanes of V(a), to arrive after the commits that the group
started earlier, and goes on. -/
def Sys2Proof.Claims.DeliveryPosted : Prop := ∀ (w : GA) (x : GXC) (s : State), unsteered s →
  let name := (s.g.sreg w.d.toNat).toNat
  GroupRuns (.rstv w x) w.guard { vr := [w.a.toNat], sr := [w.d.toNat] } s → name / 2 ^ 26 = s.pkgid →
  Gives (exec (.rstv w x) s) (fun t =>
    (∃ d : Delivery, t.eng.deliveries = s.eng.deliveries ++ [d] ∧ d.gid = s.cur.gid ∧ d.target = name ∧
      d.reg = x.imm.toNat % 64 ∧ d.data = s.g.vreg w.a.toNat ∧
      d.after = (s.mem.commits.filter (fun c => c.gid == s.cur.gid)).map (·.id)) ∧
    Advanced s t ∧ Ends id s t [] [] [] [] (fun s => { s with eng := { s.eng with deliveries := [] } }))

/-- What `BudgetResult`, `NameResult`, `DeliveryPosted` state together, R141, R142, R145, R329, R330, R331, R332. -/
def Obligations.BudgetNameAndDelivery : Prop :=
  Sys2Proof.Claims.BudgetResult ∧ Sys2Proof.Claims.NameResult ∧ Sys2Proof.Claims.DeliveryPosted

namespace Sys2Proof.Claims

/-! ## The two slices of a group (07 R132 to R139, 17 R334 to R337) -/

/-- A queue of the group: 0 to 3 oq, 4 wq, 5 bq; its depth, and entries that are filled or being filled in the oqs. -/
def queueOf (g : Group) (q : Nat) : List QEntry := g.queues.get [] q
def depth (s : State) (q : Nat) : Nat := if s.g.sliced then s.launch.qdepth.getD q 0 else 0
def inOqs (g : Group) : Nat := (queueOf g 0).length + (queueOf g 1).length + (queueOf g 2).length + (queueOf g 3).length

/-- A group without its queues and its A-context. -/
def sansSlices (g : Group) : Group := { g with queues := {}, a := {} }

/-- The queues but q are as before. -/
def QueuesKept (s t : State) (q : List Nat) : Prop := ∀ k, k ∉ q → queueOf t.g k = queueOf s.g k

/-- The unpublished bytes that the A-slice sees before its next access, and its cut: those of the bq entry that an indexed
access pops, else those of its last QPOP (R137, R138). -/
def sliceView (s : State) (ie : Option QEntry) : FMap (Option Byte) :=
  let v : FMap (Option (Byte × Nat)) := match ie with | some e => e.view | none => s.g.a.view
  ⟨v.cells.map (fun c => (c.1, c.2.map (·.1)))⟩
def sliceCut (s : State) (ie : Option QEntry) : Nat := match ie with | some e => e.cut | none => s.g.a.cut

/-- The address of a lane of AQLD and AQST: base + offset + width × lane, or the index entry's value (R336). -/
def aqWin (s : State) (w : GA) (x : LXM) (ie : Option QEntry) (l : Nat) : Int :=
  ((SR s w.a.toNat).toNat : Int) + x.off.toInt + (match ie with | some e => ((e.data.get l).toNat : Int) | none => (size x * l : Nat))
def aqVA (s : State) (w : GA) (x : LXM) (ie : Option QEntry) (l : Nat) : Nat :=
  (((SR64 s w.a.toNat : Int) + x.off.toInt + (match ie with | some e => ((e.data.get l).toNat : Int) | none => (size x * l : Nat))) %
    2 ^ 64).toNat

/-- The index entry of the access: none without `.idx`, else the head of bq, whose words are good (01 R24). -/
def IndexIs (s : State) (x : LXM) (ie : Option QEntry) : Prop :=
  (x.rp = 0 ∧ ie = none) ∨ (x.rp ≠ 0 ∧ 2 ≤ depth s 5 ∧ ∃ e t, queueOf s.g 5 = e :: t ∧ ie = some e ∧ e.bad = 0)

end Sys2Proof.Claims

/-- R334, R335, R337, R138: QPUSH of wq or bq with room appends V(a), for bq with the group's cut. A C-slice QPOP takes
the head of an oq, a long result for V(d) and its residency mask; an A-slice QPOP takes the head of bq: lane 0 goes to
a(d), and the A-cut becomes the entry's. QSLIP sets the slip limit. -/
def Obligations.QueueResult : Prop := ∀ (w : GA) (x : GXC) (s : State),
  let q := x.queue.toNat
  let k := (SB s w).toNat
  (GroupRuns (.qpush w x) w.guard { vr := [w.a.toNat] } s → q = 4 ∨ q = 5 → (queueOf s.g q).length < depth s q →
    Gives (exec (.qpush w x) s) (fun t =>
      (∃ e, queueOf t.g q = queueOf s.g q ++ [e] ∧ e.data = s.g.vreg w.a.toNat ∧ e.cut = s.g.cut ∧ e.filled = true) ∧
      QueuesKept s t [q] ∧ t.g.a.pushed = s.g.a.pushed + (if q = 4 then 1 else 0) ∧ Advanced s t ∧
      Ends sansSlices s t [] [] [] [])) ∧
  (∀ e r, GroupRuns (.qpop w x) w.guard { vw := [w.d.toNat], pw := preds x.pred } s → q < 4 → 2 ≤ depth s q →
    queueOf s.g q = e :: r → e.filled = true → e.bad = 0 →
    Gives (exec (.qpop w x) s) (fun t =>
      queueOf t.g q = r ∧ QueuesKept s t [q] ∧
      (∃ lg, t.g.longs = s.g.longs ++ [lg] ∧ lg.vs = [(w.d.toNat, s.cur.lanes, e.data)] ∧ lg.ready = true ∧
        lg.ps = if x.pred = 7 then [] else [(x.pred.toNat, s.cur.lanes, e.mask)]) ∧
      Advanced s t ∧ RegsKept s t [] [] [] [] ∧ KeptBut sansSlices s t)) ∧
  (∀ e r, SliceRuns (.qpop w x) w.guard { sw := [w.d.toNat] } s → q = 5 → x.pred = 0 → 2 ≤ depth s 5 →
    queueOf s.g 5 = e :: r → e.bad = 0 →
    Gives (exec (.qpop w x) s) (fun t =>
      queueOf t.g 5 = r ∧ QueuesKept s t [5] ∧ SR t w.d.toNat = e.data.get 0 ∧
      (∀ j, j ≠ w.d.toNat → SR t j = SR s j) ∧ t.g.a.cut = e.cut ∧ Advanced s t ∧ Ends sansSlices s t [] [] [] [])) ∧
  (ScalarRuns (.qslip w) w { sr := readsB w } s → s.g.sliced = true → 1 ≤ k → k ≤ depth s 0 + depth s 1 + depth s 2 + depth s 3 →
    Gives (exec (.qslip w) s) (fun t => t.g.a.slip = k ∧ t.g.a.cut = s.g.a.cut ∧ t.g.queues = s.g.queues ∧ Advanced s t ∧
      Ends sansSlices s t [] [] [] []))

/-- R336, R135, R137: AQLD below the slip limit, with room in its oq and every lane's access passing the checks, reserves
an entry with the lanes' values, which QUEUE_ENTRY_FILL makes poppable. An `.idx` form takes its offsets, its cut and its
view from the head of bq, and pops it. No byte and no full bit changes. -/
def Sys2Proof.Claims.SliceLoadResult : Prop := ∀ (w : GA) (x : LXM) (s : State) (ie : Option QEntry) (pa cm : Nat → Nat),
  let q := w.d.toNat
  let rd : Group := { s.g with unpub := sliceView s ie, pend := {} }
  let win := aqWin s w x ie
  let va := aqVA s w x ie
  let got (val : Nat → Nat) (t : State) : Prop :=
    (∃ e, queueOf t.g q = queueOf s.g q ++ [e] ∧ e.filled = false ∧ e.mask = Mask.full ∧
      ∀ l < 128, e.data.get l = BitVec.ofNat 32 (extended x (val l))) ∧
    queueOf t.g 5 = (if ie = none then queueOf s.g 5 else (queueOf s.g 5).tail) ∧ QueuesKept s t [q, 5] ∧
    t.g.a.cut = sliceCut s ie ∧ RegsKept s t [] [] [] [] ∧ t.g.longs = s.g.longs ∧ t.g.spec = s.g.spec ∧
    MemFrame sansSlices s t ∧ MemKept s t ∧ fullKept s t ∧ Advanced s t
  SliceRuns (.aqld w x) w.guard { sr := regs w.a (if x.space = 0 then 2 else 1) } s → IndexIs s x ie → unwatched s →
  2 ≤ depth s q → inOqs s.g < s.g.a.slip → (queueOf s.g q).length < depth s q →
  (x.space ≠ 0 → (∀ l < 128, inWindow s x.space.toNat x (win l) ∧ goodWords s x.space.toNat x (win l)) → Gives (exec (.aqld w x) s)
    (got (fun l => little (fun k => winAt s x.space.toNat ((win l).toNat + k)) (size x)))) ∧
  (x.space = 0 → (∀ l < 128, va l % size x = 0 ∧ mapped s .load (va l) (pa l) (cm l) ∧ goodLine s (pa l) (cm l) (size x)) →
    Gives (exec (.aqld w x) s)
      (got (fun l => little (fun k => s.loadByte rd (sliceCut s ie) (va l + k) (s.at (cm l) (pa l + k))) (size x))))

/-- R336, R138: AQST takes the head of wq and stores its lanes: to a window, or to the group's unpublished bytes; where
lanes write one byte the highest lane's remains. Every other byte is as before. -/
def Sys2Proof.Claims.SliceStoreResult : Prop := ∀ (w : GA) (x : LXM) (s : State) (y : QEntry) (r : List QEntry) (ie : Option QEntry)
    (pa cm : Nat → Nat),
  let sp := x.space.toNat
  let win := aqWin s w x ie
  let va := aqVA s w x ie
  let place := if sp = 1 then s.g.teamKey else s.g.die
  let took (t : State) : Prop := (queueOf t.g 4).length = r.length ∧ t.g.a.popped = s.g.a.popped + 1 ∧ t.g.a.cut = sliceCut s ie ∧
    RegsKept s t [] [] [] [] ∧ t.g.longs = s.g.longs ∧ t.g.spec = s.g.spec ∧ Advanced s t
  SliceRuns (.aqst w x) w.guard { sr := regs w.a (if x.space = 0 then 2 else 1) } s → IndexIs s x ie → unwatched s →
  2 ≤ depth s 4 → queueOf s.g 4 = y :: r → y.bad = 0 → sp ≠ 3 →
  (x.space ≠ 0 → (∀ l < 128, inWindow s sp x (win l)) → Gives (exec (.aqst w x) s) (fun t =>
    took t ∧
    (∀ a l, lastLane Mask.full win (size x) a l → winAt t sp a.toNat = byteAt (y.data.get l).toNat (a - win l).toNat) ∧
    (∀ a : Nat, (∀ l < 128, ¬ (win l ≤ a ∧ a < win l + size x)) → winAt t sp a = winAt s sp a) ∧
    (∀ sp' place' a, (sp' ≠ sp ∨ place' ≠ place) → (sp' = 1 ∨ sp' = 2) → t.winByte sp' place' a = s.winByte sp' place' a) ∧
    (∀ p, t.newest p = s.newest p) ∧ (∀ n a, t.nodeByte n a = s.nodeByte n a) ∧ fullKept s t ∧ MemFrame sansSlices s t)) ∧
  (x.space = 0 → (∀ l < 128, va l % size x = 0 ∧ mapped s .store (va l) (pa l) (cm l)) →
    (∀ c ∈ s.mem.commits, c.gid ≠ s.cur.gid) → Gives (exec (.aqst w x) s) (fun t =>
    took t ∧
    (∀ (a : Nat) l, lastLane Mask.full (fun l => va l) (size x) a l →
      t.g.unpub.get none a = some (byteAt (y.data.get l).toNat (a - va l))) ∧
    (∀ a : Nat, (∀ l < 128, ¬ (va l ≤ a ∧ a < va l + size x)) → t.g.unpub.get none a = s.g.unpub.get none a) ∧
    MemFrame (fun g => { sansSlices g with unpub := {} }) s t ∧ MemKept s t ∧ fullKept s t))

/-- What `SliceLoadResult`, `SliceStoreResult` state together, R135, R137, R138, R336. -/
def Obligations.SliceMemoryResult : Prop := Sys2Proof.Claims.SliceLoadResult ∧ Sys2Proof.Claims.SliceStoreResult

/-! ## Microprograms, launches and engine commands -/

/-- R339, R340: MCLOAD of an image whose header and words are fetched and pass its checks fills the slot of the core, with
the ASID and the address, when no call of it runs. MCALL of a slot of this address space, whose operations suit its
parameters, enters the microprogram at operation 0. -/
def Obligations.MicroprogramResult : Prop := ∀ (w : GA) (x : GXCall) (lit : Word) (s : State) (hdr : Nat) (ws : Nat → Nat),
  let base := target s lit.toInt
  let ck := s.g.coreKey
  let image := (List.range (hdr % 128)).map ws
  (GroupRuns (.mcload w lit) w.guard {} s → fetches s base hdr →
    (∀ k < hdr % 128, fetches s ((base + 4 + 4 * k) % 2 ^ 64) (ws k)) → imageOk hdr image = true →
    (∀ k, (s.group k).status = .gone ∨ (s.group k).coreKey ≠ ck ∨
      ((∀ y ∈ (s.group k).subs, y.micro = none) ∧ (s.group k).trap = none)) →
    Gives (exec (.mcload w lit) s) (fun t =>
      (t.core ck).store.get none w.d.toNat = some { asid := s.asid, addr := base, words := image } ∧
      (∀ n, n ≠ w.d.toNat → (t.core ck).store.get none n = (s.core ck).store.get none n) ∧
      (∀ k, k ≠ ck → t.core k = s.core k) ∧ Advanced s t ∧
      Ends id s t [] [] [] [] (fun s => { s with cores := {} }))) ∧
  (∀ m, GroupRuns (.mcall w x) w.guard {} s → Standing s → (s.core ck).store.get none x.slot.toNat = some m → m.asid = s.asid →
    callOk x (s.microOps x.slot.toNat) = true →
    (∀ k, (s.group k).coreKey ≠ ck ∨ ∀ y ∈ (s.group k).subs, y.wait ≠ .slotIdle x.slot.toNat) →
    Gives (exec (.mcall w x) s) (fun t =>
      (∃ y ∈ t.g.subs, y.lanes = s.cur.lanes ∧ y.pc = s.cur.pc ∧ y.micro = some (x.slot.toNat, 0) ∧
        y.maux % 2 ^ 32 = gxcallWord x) ∧ Ends id s t [] [] [] []))

namespace Sys2Proof.Claims

/-- The record that LAUNCH reads, ROOT and ASID replaced by the grid's own outside a supervisor grid (R343). -/
def launchRecord (s : State) (va pa cm : Nat) : Nat :=
  let v := little (fun k => s.loadByte s.g s.g.cut (va + k) (s.at cm (pa + k))) 128
  if s.supervisor then v else setBits (setBits v 191 128 s.launch.root) 207 192 s.asid

end Sys2Proof.Claims

/-- R343, R77 to R79: LAUNCH and LAUNCH.nb of a record that is read, with an entry of the store free beside those that
waiting slots and groups will take: the status is a long
result, 0 where the record is taken into the store and the code of its first failed check where it is refused, which
leaves the store alone; LAUNCH.nb gives a predicate besides. -/
def Obligations.LaunchResult : Prop := ∀ (w : GA) (x : GXC) (s : State) (pa cm : Nat) (nb : Bool), unsteered s →
  let i : Instr := if nb then .launchNb w x else .launch w x
  let va := SR64 s w.a.toNat
  let v := launchRecord s va pa cm
  let code := s.launchCode v
  GroupRuns i w.guard { sr := regs w.a 2, sw := [w.d.toNat], qw := if nb then [x.pred.toNat] else [] } s →
  (∀ y ∈ s.g.subs, y.done = 0) → va % 128 = 0 → mapped s .load va pa cm → goodLine s pa cm 128 → unwatched s → noAtomics s →
  (s.grids.cells.filter (fun c => c.2.inStore)).length + ((List.range 256).filter s.mboxFull).length + s.launchWaiters.length <
    4096 →
  FMap.wf {} s.grids = true →
  Gives (exec i s) (fun t =>
    (∃ lg, t.g.longs = s.g.longs ++ [lg] ∧ lg.ss = [(w.d.toNat, BitVec.ofNat 32 code)] ∧ lg.ready = true ∧
      lg.qs = if nb then [(x.pred.toNat, code == 0)] else []) ∧
    (code = 0 → ∃ k, (t.grid k).status = .stored ∧ (t.grid k).inStore = true ∧ (t.grid k).launch = parseLaunch v ∧
      (∀ j, j ≠ k → (t.grid j).launch = (s.grid j).launch ∧ (t.grid j).status = (s.grid j).status)) ∧
    (code ≠ 0 → ∀ j, (t.grid j).launch = (s.grid j).launch ∧ (t.grid j).status = (s.grid j).status ∧
      (t.grid j).inStore = (s.grid j).inStore) ∧
    RegsKept s t [] [] [] [] ∧ t.g.spec = s.g.spec ∧ MemKept s t ∧ Advanced s t)

namespace Sys2Proof.Claims

/-- Word k of the operand block, and a 64-bit value of it, low word first (R345). -/
def blk (s : State) (w : GA) (k : Nat) : Nat := (s.g.sreg (w.a.toNat + k)).toNat
def blk64 (s : State) (w : GA) (k : Nat) : Nat := blk s w k + 2 ^ 32 * blk s w (k + 1)

/-- An engine command with a block executes: it passes the checks, and the words that it does not use are 0 (R345). -/
def BlockRuns (i : Instr) (w : GA) (f : Foot) (used : List Nat) (s : State) : Prop :=
  GroupRuns i w.guard { f with sr := regs w.a 8 ++ f.sr } s ∧ ∀ k < 8, k ∉ used → blk s w k = 0

/-- The barrier object that word k names: none, or 8 bytes of team memory (R345). -/
def barrierAt (s : State) (w : GA) (k : Nat) (obj : Option Nat) : Prop :=
  (blk s w k = 2 ^ 32 - 1 ∧ obj = none) ∨
  (blk s w k ≠ 2 ^ 32 - 1 ∧ blk s w k % 8 = 0 ∧ blk s w k + 8 ≤ s.launch.tmem ∧ obj = some (blk s w k))

/-- The machine without its engines and accumulator files. -/
def sansEngines (s : State) : State := { s with eng := {}, quads := {} }

/-- A new command as its issue leaves it: the group and what it captured, its block, queue and barrier object. -/
def IsCommand (s : State) (w : GA) (x : GXE) (kind : EngKind) (obj : Option Nat) (o : EngOp) : Prop :=
  o.kind = kind ∧ o.gid = s.cur.gid ∧ o.grid = s.g.grid ∧ o.team = s.g.team ∧ o.num = s.g.num ∧ o.die = s.g.die ∧ o.core = s.g.core ∧
  o.w = (List.range 8).map (blk s w) ∧ o.queue = x.eq.toNat ∧ o.cut = s.g.cut ∧ o.pc = s.cur.pc ∧ o.lanes = s.cur.lanes ∧
  o.obj = obj ∧ o.next = 0

/-- A command has been issued: it is in its queue, the group goes on, and nothing else changed. -/
def Issued (s t : State) (P : EngOp → Prop) : Prop :=
  (∃ o, t.eng.ops = s.eng.ops ++ [o] ∧ o.started = false ∧ o.latched = false ∧ P o) ∧ t.eng.deliveries = s.eng.deliveries ∧
  t.eng.mcasts = s.eng.mcasts ∧ t.quads = s.quads ∧ Advanced s t ∧ Ends id s t [] [] [] [] sansEngines

/-- The page range that PGREQ and DIGEST take: R371 and R372 give its limits; the model's check of them is `badLength`. -/
def goodLength (s : State) (w : GA) : Prop := badLength (blk64 s w 2) = false

end Sys2Proof.Claims

/-- R345, R351, R352, R369, R371, R372: a data, residency or digest command whose block passes the checks at issue enters
its queue with the block, the group's cut and lanes; GATHER reads its index register then; SHOOT has every translating
agent still to acknowledge. PGTIER and SHOOT are a supervisor's. -/
def Sys2Proof.Claims.EngineCommandIssued : Prop := ∀ (w : GA) (x : GXE) (s : State) (obj : Option Nat),
  (barrierAt s w 4 obj →
    (BlockRuns (.copy w x) w {} [0, 1, 2, 3, 4] s →
      Gives (exec (.copy w x) s) (fun t => Issued s t (IsCommand s w x .copy obj))) ∧
    (BlockRuns (.gather w x) w {} [0, 1, 2, 3, 4, 5] s → blk s w 5 < 64 → s.Clear { vr := [blk s w 5] } s.cur.lanes →
      Gives (exec (.gather w x) s) (fun t => Issued s t (fun o =>
        IsCommand s w x .gather obj o ∧ o.regs = [s.g.vreg (blk s w 5)]))) ∧
    (BlockRuns (.pgreq w x) w {} [0, 1, 2, 3, 4] s → goodLength s w →
      Gives (exec (.pgreq w x) s) (fun t => Issued s t (fun o => IsCommand s w x .pgreq obj o ∧ o.left = blk64 s w 2))) ∧
    (BlockRuns (.pgtier w x) w {} [0, 1, 2, 3, 4] s → s.supervisor = true →
      Gives (exec (.pgtier w x) s) (fun t => Issued s t (IsCommand s w x .pgtier obj))) ∧
    (BlockRuns (.digest w x) w {} [0, 1, 2, 3, 4, 5, 6] s → goodLength s w → blk64 s w 5 % 32 = 0 →
      s.g.spec.digestctl = 0 ∨ (s.g.spec.digestctl = 1 ∧ blk64 s w 2 % 4096 = 0) →
      Gives (exec (.digest w x) s) (fun t => Issued s t (fun o => IsCommand s w x .digest obj o ∧ o.dmode = s.g.spec.digestctl)))) ∧
  (BlockRuns (.reshard w x) w {} [0, 1] s → (s.grid s.g.grid).snapped = false →
    Gives (exec (.reshard w x) s) (fun t => Issued s t (IsCommand s w x .reshard none))) ∧
  (∀ i used, (i = .shoot w x ∧ used = [0, 2, 3, 4, 5]) ∨ (i = .shootAll w x ∧ used = [0]) → BlockRuns i w {} used s →
    s.supervisor = true → blk s w 0 < 2 ^ 16 → (s.eng.ops.filter (fun o => o.kind == .shoot)).length < 16 →
    Gives (exec i s) (fun t => Issued s t (fun o => IsCommand s w x .shoot none o ∧
      (∀ a < 4099, a ∈ o.open_)))) ∧
  (∀ i, i = .shoot w x ∨ i = .shootAll w x ∨ i = .pgtier w x → s.cur.stage = 0 → s.cur.aslice = false → s.g.guardG w.guard = true →
    s.supervisor = false → s.g.spec.trapbase ≠ 0 → s.cur.handler = false → s.g.trap = none →
    (s.part s.g.partKey).owner = some (s.cur.gid + 1) →
    Gives (exec i s) (fun t => (∃ y, t.g.trap = some y ∧ y.cls = 0 ∧ y.sub = 6 ∧ y.lanes = s.cur.lanes ∧ y.pc = s.cur.pc) ∧
      t.eng = s.eng))

namespace Sys2Proof.Claims

/-- The tiles that a command names: an FP64 tile is a pair (R356). -/
def tiles (x : GXE) : List Nat := if x.typea = 11 then [x.acc.toNat, x.acc.toNat + 1] else [x.acc.toNat]

/-- The accumulator file of the quadrant is free or the team's, the group is in a gang, and no fault is recorded. -/
structure AccReady (s : State) : Prop where
  gang : s.g.spec.ganginfo / 2 ^ 20 % 2 = 1
  faults : s.g.faults = []
  file : (s.quad s.g.quadKey).holder = none ∨ (s.quad s.g.quadKey).holder = some s.g.teamKey

/-- The quadrant's file is the team's, and the marks that `gone` names are off; elements and other quadrants are as before. -/
def FileTaken (s t : State) (gone : List Nat) : Prop :=
  (t.quad s.g.quadKey).holder = some s.g.teamKey ∧ (t.quad s.g.quadKey).acc = (s.quad s.g.quadKey).acc ∧
  (∀ n, n ∈ (t.quad s.g.quadKey).marks ↔ n ∈ (s.quad s.g.quadKey).marks ∧ n ∉ gone) ∧
  (∀ q, q ≠ s.g.quadKey → t.quad q = s.quad q)

/-- The bytes of a row of 128 elements of the command's type (R262, R360). -/
def rowBytes (x : GXE) : Nat := 16 * Fp.widthOf x.typea.toNat

end Sys2Proof.Claims

/-- R356, R360: ACCZ, ACCLD and ACCST take the quadrant's accumulator file for the team and enter their queue; ACCZ and
ACCLD clear the split marks of their tiles, and ACCST names no marked one, nor one with uncorrectable data (R24). -/
def Sys2Proof.Claims.AccumulatorIssued : Prop := ∀ (w : GA) (x : GXE) (s : State) (obj : Option Nat), AccReady s →
  let placed (t : State) (P : EngOp → Prop) : Prop :=
    (∃ o, t.eng.ops = s.eng.ops ++ [o] ∧ o.gid = s.cur.gid ∧ o.queue = x.eq.toNat ∧ o.tile = x.acc.toNat ∧ o.ty = x.typea.toNat ∧
      o.started = false ∧ P o) ∧ Advanced s t ∧ Ends id s t [] [] [] [] sansEngines
  let block := (List.range 8).map (blk s w)
  let row := blk64 s w 0 % 16 = 0 ∧ blk s w 2 % 16 = 0 ∧ rowBytes x ≤ blk s w 2
  (GroupRuns (.accz w x) w.guard {} s → Gives (exec (.accz w x) s) (fun t =>
    placed t (fun o => o.kind = .accz) ∧ FileTaken s t (tiles x))) ∧
  (BlockRuns (.accld w x) w {} [0, 1, 2] s → row → Gives (exec (.accld w x) s) (fun t =>
    placed t (fun o => o.kind = .accld ∧ o.w = block ∧ o.total = 32) ∧ FileTaken s t (tiles x))) ∧
  (BlockRuns (.accst w x) w {} [0, 1, 2, 3] s → row → barrierAt s w 3 obj →
    (∀ n ∈ tiles x, n ∉ (s.quad s.g.quadKey).marks ∧ n ∉ (s.quad s.g.quadKey).bad) →
    Gives (exec (.accst w x) s) (fun t =>
      placed t (fun o => o.kind = .accst ∧ o.w = block ∧ o.total = 32 ∧ o.obj = obj) ∧ FileTaken s t []))

/-- What `EngineCommandIssued`, `AccumulatorIssued` state together, R24, R345, R351, R352, R356, R360, R369, R371,
R372. -/
def Obligations.EngineIssue : Prop := Sys2Proof.Claims.EngineCommandIssued ∧ Sys2Proof.Claims.AccumulatorIssued

namespace Sys2Proof.Claims

/-- A field of the gang word: the group of quadrant q. -/
def gangMember (s : State) (q : Nat) : Nat := s.g.spec.ganginfo / 16 ^ q % 16
def inGang (s : State) (q : Nat) : Prop := q < 4 ∧ s.g.spec.ganginfo / 2 ^ (16 + q) % 2 = 1

/-- An operation that waits in a rendezvous latch for the gang of the issuing group (R131). -/
def waitsHere (s : State) (o : EngOp) : Prop := o.latched = true ∧ o.teamKey = s.g.teamKey ∧ o.coreKey = s.g.coreKey

/-- No operation of the group, or of its quadrant, waits in the latch. -/
def LatchFree (s : State) : Prop :=
  (∀ o ∈ s.eng.ops, o.latched = true → o.quadKey ≠ s.g.quadKey ∧ (o.teamKey = s.g.teamKey → o.num ≠ s.g.num)) ∧
  s.g.quadKey = s.g.coreKey * 4 + s.g.num % 4 ∧ (∀ o ∈ s.eng.ops, o.id < s.nextId) ∧ (s.eng.ops.map (·.id)).Nodup

/-- A member, other than the issuing group, of the gang that a gang word names has not issued its operation. -/
def short (s : State) (v : Nat) : Prop := ∃ q < 4, v / 2 ^ (16 + q) % 2 = 1 ∧ v / 16 ^ q % 16 ≠ s.g.num ∧
  ∀ o ∈ s.eng.ops, waitsHere s o → o.num ≠ v / 16 ^ q % 16

/-- No gang of the latch is complete, the issuing group's own or a waiting operation's. -/
def gangShort (s : State) : Prop :=
  short s s.g.spec.ganginfo ∧ ∀ o ∈ s.eng.ops, waitsHere s o → short s o.gang

/-- The operands of MMA.R pass its checks: A rows and scales lie in team memory, aligned (R357). -/
def goodA (s : State) (w : GA) (x : GXE) : Prop :=
  blk s w 0 % 16 = 0 ∧ blk s w 1 % 16 = 0 ∧ rowBytes x ≤ blk s w 1 ∧ blk s w 0 + 31 * blk s w 1 + rowBytes x ≤ s.launch.tmem ∧
  (x.smode ≠ 0 → blk s w 3 % 4 = 0 ∧ blk s w 3 + 128 ≤ s.launch.tmem)

/-- B registers and the scale register of MMA.R (R357). -/
def bFoot (s : State) (w : GA) (x : GXE) : List Nat :=
  (List.range ((if x.gform = 1 then 32 else 64) * Fp.widthOf x.typea.toNat / 32)).map (blk s w 2 % 64 + ·) ++
    (if x.smode = 1 then [blk s w 2 / 256 % 64] else [])

end Sys2Proof.Claims

/-- R131, R355, R357, R358: an MMA whose operands pass the checks enters its quadrant's rendezvous latch. While a member of
the gang has not issued its own, the subgroup waits there. When the last does, with matching words and equal `ganginfo`,
every member's operation starts as one. -/
def Sys2Proof.Claims.MatrixIssued : Prop := ∀ (w : GA) (x : GXE) (s : State) (tform : Bool),
  let i : Instr := if tform then .mmaT w x else .mmaR w x
  let used := if tform then List.range (if x.smode = 0 then 7 else 8) else List.range (if x.smode = 0 then 3 else if x.smode = 1 then 5 else 6)
  let k := if tform then blk s w 4 else 128
  let mine (o : EngOp) : Prop := o.kind = .mma ∧ o.gid = s.cur.gid ∧ o.w = (List.range 8).map (blk s w) ∧ o.ktotal = k ∧
    o.tile = x.acc.toNat ∧ o.ty = x.typea.toNat ∧ o.kdone = 0
  let fits (o : EngOp) : Prop := o.kind = .mma ∧ o.w1 = s.cur.w1 ∧ noRegs o.w0 = noRegs s.cur.w0 ∧
    o.gang = s.g.spec.ganginfo ∧ o.gform = x.gform.toNat
  let mask := s.g.spec.ganginfo / 2 ^ 16 % 16
  BlockRuns i w {} used s → Standing s → AccReady s → LatchFree s →
  (∀ n ∈ tiles x, n ∉ (s.quad s.g.quadKey).marks ∧ n ∉ (s.quad s.g.quadKey).bad) →
  (if tform then 1 ≤ k ∧ k ≤ 8192 ∧ k % kBlock x.smode.toNat = 0
   else goodA s w x ∧ blk s w 2 < 2 ^ 14 ∧ blk s w 2 / 64 % 4 = 0 ∧ (x.smode ≠ 1 → blk s w 2 < 256) ∧
     s.Clear { vr := bFoot s w x } s.cur.lanes) →
  (gangShort s → Gives (exec i s) (fun t =>
    (∃ o, t.eng.ops = s.eng.ops ++ [o] ∧ mine o ∧ o.latched = true ∧ o.started = false ∧ Waits s t (.latch o.id)) ∧
    FileTaken s t [] ∧ Ends id s t [] [] [] [] sansEngines)) ∧
  ((mask = 15 ∧ x.gform = 1 ∨ (mask = 3 ∨ mask = 12) ∧ x.gform = 2) → inGang s (s.g.num % 4) →
    gangMember s (s.g.num % 4) = s.g.num →
    (∀ q, inGang s q → q ≠ s.g.num % 4 → gangMember s q ≠ s.g.num ∧ ∃ o ∈ s.eng.ops, waitsHere s o ∧ o.num = gangMember s q) →
    (∀ o ∈ s.eng.ops, waitsHere s o → fits o ∨ (short s o.gang ∧ ∀ q, inGang s q → o.num ≠ gangMember s q)) →
    Gives (exec i s) (fun t =>
      (∃ o ∈ t.eng.ops, o.id = s.nextId ∧ mine o ∧ o.started = true ∧ o.latched = false) ∧
      (∀ q, inGang s q → q ≠ s.g.num % 4 → ∃ o ∈ t.eng.ops, o.num = gangMember s q ∧ o.teamKey = s.g.teamKey ∧
        o.started = true ∧ o.latched = false ∧ s.nextId ∈ o.members) ∧
      FileTaken s t [] ∧ Advanced s t ∧ Ends id s t [] [] [] [] sansEngines))

/-- R361, R202, R203: MRES takes the operation of a continuation block, from the side buffer or from memory, whose fields
are well formed and whose tile is marked and good, and enters the latch with the elements already accumulated; the mark
stays until the operation starts. -/
def Sys2Proof.Claims.MatrixResumed : Prop := ∀ (w : GA) (x y : GXE) (s : State) (form : Nat) (pa cm : Nat),
  let a := blk64 s w 0
  let f (k : Nat) : Byte := if a = 0 then s.g.side.get 0 (0x880 + k) else s.loadByte s.g s.g.cut (a + k) (s.at cm (pa + k))
  let field (off n : Nat) : Nat := little (fun k => f (off + k)) n
  let v := little f 64
  let ops := (List.range 8).map (fun k => field (20 + 4 * k) 4)
  let regs := if form = 0 then bRegs ops y.gform.toNat y.smode.toNat y.typea.toNat else []
  BlockRuns (.mres w x) w {} [0, 1] s → Standing s → AccReady s → LatchFree s → gangShort s →
  (a ≠ 0 → a % 64 = 0 ∧ mapped s .load a pa cm ∧ goodLine s pa cm 64 ∧ unwatched s ∧ noAtomics s) →
  contInstr v = some (form, y) → x.gform = y.gform → field 19 1 = 0 → field 52 12 = 0 → field 8 4 < field 12 4 →
  field 17 1 ∈ (s.quad s.g.quadKey).marks → field 17 1 ∉ (s.quad s.g.quadKey).bad → s.Clear { vr := regs } s.cur.lanes →
  Gives (exec (.mres w x) s) (fun t =>
    (∃ o, t.eng.ops = s.eng.ops ++ [o] ∧ o.kind = .mres ∧ o.gid = s.cur.gid ∧ o.w = ops ∧ o.form = form ∧
      o.kdone = field 8 4 ∧ o.ktotal = field 12 4 ∧ o.tile = field 17 1 ∧ o.latched = true ∧ Waits s t (.latch o.id)) ∧
    FileTaken s t [] ∧ RegsKept s t [] [] [] [] ∧ t.g.longs = s.g.longs ∧ MemKept s t)

/-- What `MatrixIssued`, `MatrixResumed` state together, R131, R202, R203, R355, R357, R358, R361. -/
def Obligations.MatrixIssue : Prop := Sys2Proof.Claims.MatrixIssued ∧ Sys2Proof.Claims.MatrixResumed

/-! ## Waits for engines, fabric and network -/

/-- R353, R354, R169, R170: BWAIT goes on when its object's COUNT is at most 0, and parks if not; QFENCE goes on when the
group has no command in the queues that it names, and waits if one is left. -/
def Sys2Proof.Claims.EngineWaitResult : Prop := ∀ (w : GA) (x : GXC) (s : State),
  let off := (s.g.sreg w.a.toNat).toNat
  let count := (BitVec.ofNat 32 (little (fun k => s.winByte 1 s.g.teamKey (off + k)) 4)).toInt
  let mask := x.imm.toNat % 256
  let busy := ∃ o ∈ s.eng.ops, o.gid = s.cur.gid ∧ mask / 2 ^ o.queue % 2 = 1
  (GroupRuns (.bwait w x) w.guard { sr := [w.a.toNat] } s → off % 8 = 0 → off + 8 ≤ s.launch.tmem → s.g.faults = [] →
    (count ≤ 0 → Gives (exec (.bwait w x) s) (fun t => Wrote s t [] [] [] [] 0 [])) ∧
    (0 < count → s.cur.handler = false → Gives (exec (.bwait w x) s) (fun t =>
      t.g.wake.map (·.cond) = some (.barrierObj off) ∧ Ends id s t [] [] [] []))) ∧
  (GroupRuns (.qfence w x) w.guard {} s → s.g.faults = [] → Standing s → (∀ o ∈ s.eng.ops, o.id < s.nextId) →
    (¬ busy → Gives (exec (.qfence w x) s) (fun t => Wrote s t [] [] [] [] 0 [])) ∧
    (busy → Gives (exec (.qfence w x) s) (fun t => Waits s t (.queues mask s.nextId) ∧ Ends id s t [] [] [] [])))

/-- R362, R33, R146: FLUSH of a node or a package sends its request and parks; when it has been answered it ends, with the
answer's count as a long result. -/
def Sys2Proof.Claims.FlushResult : Prop := ∀ (w : GA) (x : GXE) (s : State) (pkg : Bool) (o : FabricOp),
  let i : Instr := if pkg then .flushPkg w x else .flushNode w x
  let peer := blk s w 0 % 2 ^ 31
  let here := s.mem.fabric.filter (fun f => f.gid == s.cur.gid && f.pc == s.cur.pc && f.replied && f.kind != 1)
  BlockRuns i w { sw := [w.d.toNat] } [0] s →
  (if pkg then 2 ^ 31 ≤ blk s w 0 ∧ peer < 64 else blk s w 0 < 16) →
  (here = [] → s.cur.handler = false → (pkg = true → peer = s.pkgid) → Gives (exec i s) (fun t =>
    (∃ f, t.mem.fabric = s.mem.fabric ++ [f] ∧ f.gid = s.cur.gid ∧ f.kind = 3 ∧ f.bytes = peer ∧ f.akind = pkg.toNat ∧
      f.replied = false ∧ t.g.wake.map (·.cond) = some (.fabric [f.id])) ∧ Ends id s t [] [] [] [] sansMem)) ∧
  (here = [o] → o.failed = 0 → Gives (exec i s) (fun t =>
    (∃ lg, t.g.longs = s.g.longs ++ [lg] ∧ lg.ss = [(w.d.toNat, BitVec.ofNat 32 (o.got.get 0 0))] ∧ lg.ready = true) ∧
    (∀ f ∈ s.mem.fabric, f ∈ t.mem.fabric ∨ f = o) ∧ Advanced s t ∧ RegsKept s t [] [] [] [] ∧ KeptBut id s t sansMem))

namespace Sys2Proof.Claims

/-- A register of BAR0 is as before, but for those that `but` names. -/
def BarKept (s t : State) (but : Nat → Prop) : Prop := ∀ off, ¬ but off → t.reg off = s.reg off

/-- The machine without the network engine, BAR0, and the model's count of free values, one of which a new context's
window takes. -/
def sansNet (s : State) : State := { s with net := {}, eng := {}, host := { s.host with bar0 := {} }, free := 0 }

/-- Every one of the package's contexts is in use, and none is the request's own (R43). -/
def ContextsFull (s : State) (peer mode : Nat) : Prop :=
  2048 ≤ s.net.pdcs.length + s.net.rx.length ∧ (∀ p ∈ s.net.pdcs, s.pdcIdle p = false ∧ ¬ (p.peer = peer ∧ p.mode = mode)) ∧
  ∀ r ∈ s.net.rx, s.rxIdle r = false

/-- The offset of an Ultra Ethernet counter in BAR0 (R50, R61). -/
def counterAt (c : Nat) : Nat := 0x80000 + 0x50000 + 8 * c

/-- What a request counts as it fails: ERRORS up by 1, at most 255, and LASTERR (R50). -/
def errorCounted (v status : Nat) : Nat :=
  v % 2 ^ 48 + min 255 (v / 2 ^ 48 % 256 + 1) * 2 ^ 48 + status * 2 ^ 56

end Sys2Proof.Claims

/-- R43, R45, R46, R363, R387: NSEND, NGET and NPOST never trap. A request that fails a check completes at once: its local
counter takes the status, 7 where no context is left. Any other enters its queue: a message with a packet for each 4096
bytes, or a posted buffer. -/
def Sys2Proof.Claims.NetworkCommandResult : Prop := ∀ (w : GA) (x : GXE) (s : State) (form : Nat),
  form = 0 ∨ form = 2 ∨ form = 3 →
  let i : Instr := if form = 0 then .nsend w x else if form = 2 then .nget w x else .npost w x
  let block := (List.range 8).map (blk s w)
  let ctr := counterAt (blk s w 0 / 2 ^ 16 % 1024)
  let status := s.reqStatus form block
  let kind := if form = 0 then blk s w 0 / 2 ^ 14 % 2 else form
  let ends (t : State) : Prop := Advanced s t ∧ Ends id s t [] [] [] [] sansNet
  let failed (st : Nat) (t : State) : Prop := t.reg ctr = errorCounted (s.reg ctr) st ∧ BarKept s t (· = ctr) ∧
    t.eng = s.eng ∧ t.net = s.net ∧ t.free = s.free ∧ ends t
  BlockRuns i w {} (List.range 8) s → (s.grid s.g.grid).snapped = false →
  (status ≠ 0 → Gives (exec i s) (failed status)) ∧
  (status = 0 → kind ≠ 3 → ContextsFull s (blk s w 0 % 2 ^ 12) (blk s w 0 / 2 ^ 12 % 4) → Gives (exec i s) (failed 7)) ∧
  (status = 0 → s.net.pdcs.length + s.net.rx.length < 2048 → Gives (exec i s) (fun t =>
    (∃ o, t.eng.ops = s.eng.ops ++ [o] ∧ o.kind = .net ∧ o.gid = s.cur.gid ∧ o.form = kind ∧ o.w = block ∧ o.queue = x.eq.toNat ∧
      (kind = 3 → t.net.msgs = s.net.msgs ∧ t.free = s.free ∧ ∃ b, t.net.bufs = s.net.bufs ++ [b] ∧ b.op = o.id ∧ b.peer = blk s w 0 % 2 ^ 12 ∧
        b.tag = blk64 s w 4 ∧ b.laddr = blk64 s w 2 ∧ b.len = blk s w 1 ∧ b.taken = none) ∧
      (kind ≠ 3 → t.net.bufs = s.net.bufs ∧ ∃ m, t.net.msgs = s.net.msgs ++ [m] ∧ m.id = o.id ∧ m.formed = 0 ∧
        m.total = (blk s w 1 + 4095) / 4096 ∧ ∃ p ∈ t.net.pdcs, p.id = m.pdc ∧ p.peer = blk s w 0 % 2 ^ 12 ∧
          p.mode = blk s w 0 / 2 ^ 12 % 4)) ∧
    BarKept s t (fun _ => False) ∧ ends t))

/-- R364, R365: NWAIT ends when SUCCESS has reached its target, with 0, or when ERRORS differs, with 0x100 + LASTERR, and parks
if neither holds. NCTR reads a counter into a pair, sets it, or adds to SUCCESS. -/
def Sys2Proof.Claims.NetworkCounterResult : Prop := ∀ (w : GA) (x : GXE) (s : State), (s.grid s.g.grid).snapped = false →
  let c := blk s w 0
  let v := s.reg (counterAt c)
  let goal := blk64 s w 1
  let reached := (v % 2 ^ 48 + 2 ^ 48 - goal) % 2 ^ 48 < 2 ^ 47
  let erred := v / 2 ^ 48 % 256 ≠ blk s w 3
  let long (t : State) (l : List (Nat × Word)) : Prop := ∃ lg, t.g.longs = s.g.longs ++ [lg] ∧ lg.ss = l ∧ lg.ready = true
  let set (t : State) (u : Nat) : Prop := t.reg (counterAt c) = u ∧ BarKept s t (· = counterAt c) ∧ t.g.longs = s.g.longs ∧
    Advanced s t ∧ RegsKept s t [] [] [] [] ∧ KeptBut id s t (fun s => { s with host := { s.host with bar0 := {} } })
  c < 1024 →
  (BlockRuns (.nwait w x) w { sw := [w.d.toNat] } [0, 1, 2, 3] s → goal < 2 ^ 48 → blk s w 3 < 256 →
    (reached → Gives (exec (.nwait w x) s) (fun t => long t [(w.d.toNat, 0)] ∧ Advanced s t ∧ RegsKept s t [] [] [] [] ∧ KeptBut id s t)) ∧
    (¬ reached → erred → Gives (exec (.nwait w x) s) (fun t => long t [(w.d.toNat, BitVec.ofNat 32 (0x100 + v / 2 ^ 56))] ∧
      Advanced s t ∧ RegsKept s t [] [] [] [] ∧ KeptBut id s t)) ∧
    (¬ reached → ¬ erred → s.cur.handler = false → Gives (exec (.nwait w x) s) (fun t =>
      t.g.wake.map (·.cond) = some (.nwait c (goal + blk s w 3 * 2 ^ 48)) ∧ Ends id s t [] [] [] []))) ∧
  (BlockRuns (.nctrRd w x) w { sw := regs w.d 2 } [0, 1, 2] s → Gives (exec (.nctrRd w x) s) (fun t =>
    long t [(w.d.toNat, BitVec.ofNat 32 v), (w.d.toNat + 1, BitVec.ofNat 32 (v / 2 ^ 32))] ∧ Advanced s t ∧
    RegsKept s t [] [] [] [] ∧ KeptBut id s t (fun s => { s with grids := {} }) ∧ BarKept s t (fun _ => False))) ∧
  (BlockRuns (.nctrSet w x) w {} [0, 1, 2] s → Gives (exec (.nctrSet w x) s) (fun t => set t (blk64 s w 1))) ∧
  (BlockRuns (.nctrAdd w x) w {} [0, 1, 2] s → Gives (exec (.nctrAdd w x) s) (fun t =>
    set t ((v + blk s w 1) % 2 ^ 48 + v / 2 ^ 48 * 2 ^ 48)))

/-- What `NetworkCommandResult`, `NetworkCounterResult` state together, R43, R45, R46, R363, R364, R365, R387. -/
def Obligations.NetworkIssue : Prop := Sys2Proof.Claims.NetworkCommandResult ∧ Sys2Proof.Claims.NetworkCounterResult

/-- R370: RSTAT, with no RESHARD of the group for the block in flight, reads the newest version of the block's progress record:
NEXT's low word and STATUS are its long result. -/
def Sys2Proof.Claims.ReshardStatusResult : Prop := ∀ (w : GA) (x : GXE) (s : State) (pa cm pr cp : Nat),
  let va := blk64 s w 0
  let prog := little (fun k => s.loadByte s.g s.g.cut (va + 48 + k) (s.at cm (pa + 48 + k))) 8
  BlockRuns (.rstat w x) w { sw := regs w.d 2 } [0, 1] s → (∀ o ∈ s.eng.ops, o.gid = s.cur.gid → o.kind ≠ .reshard) →
  va % 64 = 0 → mapped s .load va pa cm → goodLine s pa cm 64 → prog % 64 = 0 → mapped s .load prog pr cp →
  goodLine s pr cp 64 → unwatched s → noAtomics s →
  Gives (exec (.rstat w x) s) (fun t =>
    (∃ lg, t.g.longs = s.g.longs ++ [lg] ∧ lg.ready = true ∧ lg.ss =
      [(w.d.toNat, BitVec.ofNat 32 (little (fun k => s.newest (s.at cp (pr + 8 + k))) 8)),
        (w.d.toNat + 1, BitVec.ofNat 32 (s.newest (s.at cp (pr + 24))).toNat)]) ∧
    Advanced s t ∧ RegsKept s t [] [] [] [] ∧ t.g.spec = s.g.spec ∧ MemFrame id s t ∧ MemKept s t ∧ fullKept s t)

/-- What `EngineWaitResult`, `FlushResult`, `ReshardStatusResult` state together, R33, R146, R169, R170, R353, R354,
R362, R370. -/
def Obligations.EngineStatusResult : Prop :=
  Sys2Proof.Claims.EngineWaitResult ∧ Sys2Proof.Claims.FlushResult ∧ Sys2Proof.Claims.ReshardStatusResult

namespace Sys2Proof.Claims

/-- No modifier. -/
def plain (x : LXA) : Prop :=
  x.rnd = 0 ∧ x.na = false ∧ x.nb = false ∧ x.nc = false ∧ x.abs = false ∧ x.sat = false

end Sys2Proof.Claims

/-- R272, R273, R274, R275: the logic and shift instructions, SEL, BFI and PRMT accept only .b32, and BFE .i32 and .n32;
none accepts a modifier, and the c field of SEL is 0 unless pd is 7. -/
def Sys2Proof.Claims.LaneBitsForms : Prop := ∀ (w : LA) (x : LXA) (i : Instr), i.WellFormed = true →
  (i ∈ [.andL w x, .orL w x, .xorL w x, .andnL w x, .notL w x, .shl w x, .shr w x, .sar w x, .rotl w x, .popc w x,
        .clz w x, .brev w x, .bfi w x, .prmt w x] → x.ty = 0 ∧ plain x) ∧
  (i = .sel w x → x.ty = 0 ∧ plain x ∧ (x.pd ≠ 7 → x.c = 0)) ∧
  (i = .bfe w x → (x.ty = 1 ∨ x.ty = 2) ∧ plain x)

/-- What `LaneLogicResult`, `LaneFieldResult`, `LaneBitsForms` state together, R272, R273, R274, R275. -/
def Obligations.LaneBitsResult : Prop :=
  Sys2Proof.Claims.LaneLogicResult ∧ Sys2Proof.Claims.LaneFieldResult ∧ Sys2Proof.Claims.LaneBitsForms

/-! ## Registers of the host's window and observation -/

namespace Sys2Proof.Claims

/-- Nothing changed but registers of BAR0 that `but` names. -/
structure OnlyBar (s t : State) (but : Nat → Prop) : Prop where
  regs : BarKept s t but
  rest : { t with host := { t.host with bar0 := {} } } = { s with host := { s.host with bar0 := {} } }

/-- Registers of a die's observation block, of a gauge and of a ring (R209, R222). -/
def obs (die : Nat) : Nat := 0x40000 + 0x4000 * die
def gauge (die k : Nat) : Nat := obs die + 0x2000 + 0x80 * k
def ring (die k : Nat) : Nat := obs die + (if k = 0 then 0x10 else if k = 1 then 0x48 else if k = 2 then 0x80 else 0xC8)

/-- A gauge's values at reset: MIN is all ones, the others 0 (R222). -/
def gaugeReset (o : Nat) : Nat := if o = 8 then 2 ^ 32 - 1 else 0

/-- A gauge runs: GCFG is on and names a source that exists, and the die's gauges are not frozen (R222). -/
def gaugeRuns (s : State) (die k : Nat) : Prop :=
  let c := s.reg (gauge die k)
  let src := c % 256
  let i := c / 256 % 2 ^ 16
  k < 64 ∧ c / 2 ^ 31 % 2 = 1 ∧ s.reg (obs die + 0x180) % 2 = 0 ∧
  (src = 1 ∧ i < 256 ∨ (src = 2 ∨ src = 4) ∧ i < 64 ∨ src = 3 ∧ i < 544 ∨ 5 ≤ src ∧ src ≤ 8 ∨ src = 9 ∧ i < 4)

/-- The histogram bin of a value: 0 for 0, else the bit length, at most 15. -/
def binIs (v n : Nat) : Prop := (v = 0 ∧ n = 0) ∨ (v ≠ 0 ∧ n < 15 ∧ 2 ^ (n - 1) ≤ v ∧ v < 2 ^ n ∧ 0 < n) ∨ (2 ^ 14 ≤ v ∧ n = 15)

/-- The partitions that SAMPCTL selects: all of the die, or those of one core (R218). -/
def sampled (die ctl pk : Nat) : Prop :=
  if ctl / 2 % 2 = 1 then pk / 4096 = die else pk / 16 = die * 256 + ctl / 2 ^ 16 % 256

/-- The interval after a tick: INTERVAL, at least 16, and the masked LFSR value (R218). -/
def interval (ctl l : Nat) : Nat := max (ctl / 2 ^ 32 % 2 ^ 16) 16 + (l &&& (ctl / 2 ^ 48 % 2 ^ 16))

/-- No die has used up the serials of this clock, so that a commit now takes a stamp of this clock (R156). -/
def stampRoom (s : State) : Prop := ∀ die, s.mem.serials.get 0 (s.clock * 8 + die) < 128

/-- A register of the memory channels' counters (R19). -/
def isCounter (o : Nat) : Prop := 0x18000 ≤ o ∧ o < 0x18000 + 0x20 * 544

/-- The machine without its partitions and BAR0. -/
def sansParts (s : State) : State := { s with parts := {}, host := { s.host with bar0 := {} } }

end Sys2Proof.Claims

/-- R66, R210, R215, R222: a write of a ring's BASE or LEN resets its HEAD and TAIL; PSEL captures PROG and POBJ of the group in
the slot that it names, or 0 for an empty slot; a gauge that runs takes a value into MIN, MAX, COUNT and its histogram; a
write of GCFG clears the gauge, and GAUGECTL freezes or clears every gauge of the die. In recovery mode BAR0 decodes none of them. -/
def Sys2Proof.Claims.ObservationRegisters : Prop := ∀ (die k : Nat) (len freeze : Bool) (v : DWord) (value : Nat) (s : State),
  die < 8 → FMap.wf none s.host.bar0 = true →
  (s.recovery = true → ∀ i ∈ [Instr.ringConfigWrite die k len v, .pselWrite die v, .gaugeFreezeWrite die freeze,
    .gaugeClear die, .gaugeConfigWrite die k v, .sampleEnable die v], exec i s = .next s) ∧
  (s.recovery = false →
  (k < 4 → Gives (exec (.ringConfigWrite die k len v) s) (fun t =>
    t.reg (ring die k + (if len then 8 else 0)) = (if len then v.toNat % 32 else v.toNat / 64 % 2 ^ 46 * 64) ∧
    t.reg (ring die k + 16) = 0 ∧ t.reg (ring die k + 24) = 0 ∧
    OnlyBar s t (fun o => o = ring die k + (if len then 8 else 0) ∨ o = ring die k + 16 ∨ o = ring die k + 24))) ∧
  Gives (exec (.pselWrite die v) s) (fun t =>
    t.reg (obs die + 0x100) = v.toNat / 256 % 256 * 256 + v.toNat % 64 ∧
    (s.inSlot die (v.toNat / 256 % 256) (v.toNat % 64) = none → t.reg (obs die + 0x108) = 0 ∧ t.reg (obs die + 0x110) = 0) ∧
    (∀ g, s.inSlot die (v.toNat / 256 % 256) (v.toNat % 64) = some g →
      t.reg (obs die + 0x108) / 2 ^ 32 = (s.group g).retired % 2 ^ 32 ∧
      (t.reg (obs die + 0x108) / 2 ^ 31 % 2 = 1 ↔ s.cannotIssue g = true) ∧
      t.reg (obs die + 0x108) / 2 ^ 24 % 128 = (s.progWait g).1 ∧ t.reg (obs die + 0x110) = (s.progWait g).2 % 2 ^ 64) ∧
    OnlyBar s t (fun o => o = obs die + 0x100 ∨ o = obs die + 0x108 ∨ o = obs die + 0x110)) ∧
  Gives (exec (.gaugeFreezeWrite die freeze) s) (fun t =>
    t.reg (obs die + 0x180) = freeze.toNat ∧ OnlyBar s t (· = obs die + 0x180)) ∧
  Gives (exec (.gaugeClear die) s) (fun t =>
    (∀ j < 64, ∀ o, 8 ≤ o → o < 0x80 → t.reg (gauge die j + o) = gaugeReset o) ∧
    OnlyBar s t (fun o => ∃ j < 64, gauge die j + 8 ≤ o ∧ o < gauge die j + 0x80)) ∧
  (k < 64 → Gives (exec (.gaugeConfigWrite die k v) s) (fun t =>
    t.reg (gauge die k) = v.toNat % 2 ^ 24 + v.toNat / 2 ^ 31 % 2 * 2 ^ 31 ∧
    (∀ o, 8 ≤ o → o < 0x80 → t.reg (gauge die k + o) = gaugeReset o) ∧
    OnlyBar s t (fun o => gauge die k ≤ o ∧ o < gauge die k + 0x80)) ∧
  (gaugeRuns s die k → Gives (exec (.gaugeSample die k value) s) (fun t =>
    let w := min value (2 ^ 32 - 1)
    let g := gauge die k
    t.reg (g + 8) = min w (s.reg (g + 8)) ∧ t.reg (g + 16) = max w (s.reg (g + 16)) ∧
    t.reg (g + 24) = min (s.reg (g + 24) + 1) (2 ^ 48 - 1) ∧
    (∃ n, binIs w n ∧ t.reg (g + 0x40 + n / 2 * 8) / 2 ^ (n % 2 * 32) % 2 ^ 32 =
        min (s.reg (g + 0x40 + n / 2 * 8) / 2 ^ (n % 2 * 32) % 2 ^ 32 + 1) (2 ^ 32 - 1) ∧
      t.reg (g + 0x40 + n / 2 * 8) / 2 ^ (32 - n % 2 * 32) % 2 ^ 32 = s.reg (g + 0x40 + n / 2 * 8) / 2 ^ (32 - n % 2 * 32) % 2 ^ 32 ∧
      OnlyBar s t (fun o => o = g + 8 ∨ o = g + 16 ∨ o = g + 24 ∨ o = g + 0x40 + n / 2 * 8)))) ∧
  (¬ gaugeRuns s die k → exec (.gaugeSample die k value) s = .next s)))

/-- R218, R219: SAMPCTL's ENABLE starts the ticks of the partitions that it selects, from SAMPSEED, or 1 for a seed of 0;
clearing it stops them. A partition whose tick has come steps its LFSR and sets its next tick, and its record enters the
die's sample ring, if the ring is on and has room. -/
def Sys2Proof.Claims.SamplerResult : Prop := ∀ (die core part : Nat) (v : DWord) (s : State),
  let c := v.toNat
  let old := s.reg (obs die)
  let seed := if s.reg (obs die + 8) % 2 ^ 16 = 0 then 1 else s.reg (obs die + 8) % 2 ^ 16
  let pk := (die * 256 + core) * 16 + part
  let p := s.part pk
  let l := p.lfsr / 2 + (p.lfsr + p.lfsr / 4 + p.lfsr / 8 + p.lfsr / 32) % 2 * 2 ^ 15
  let r := ring die 0
  let lg := s.reg (r + 8) % 32
  let n := s.reg (r + 16)
  let base := s.reg r
  let ticked (t : State) : Prop := t.part pk = { p with lfsr := l, tick := p.tick + interval old l } ∧
    ∀ k, k ≠ pk → t.part k = s.part k
  let place (j : Nat) : Nat := s.at 0 (base + 32 * (n % 2 ^ lg) + j)
  die < 8 → core < 256 → part < 16 → s.recovery = false → stampRoom s →
  (c % 2 = 1 → old % 2 = 0 → Gives (exec (.sampleEnable die v) s) (fun t =>
    (∀ k, (sampled die c k → t.part k = { s.part k with lfsr := seed, tick := s.clock + interval c seed }) ∧
      (¬ sampled die c k → t.part k = s.part k)) ∧
    t.reg (obs die) = c / 2 ^ 32 * 2 ^ 32 + c / 2 ^ 16 % 2 ^ 8 * 2 ^ 16 + c % 4 ∧
    BarKept s t (· = obs die) ∧ sansParts t = sansParts s)) ∧
  (c % 2 = 1 → old % 2 = 1 → Gives (exec (.sampleEnable die v) s) (fun t =>
    t.reg (obs die) = c / 2 ^ 32 * 2 ^ 32 + old / 2 ^ 16 % 2 ^ 8 * 2 ^ 16 + old / 2 % 2 * 2 + 1 ∧ OnlyBar s t (· = obs die))) ∧
  (c % 2 = 0 → Gives (exec (.sampleEnable die v) s) (fun t =>
    (∀ k, (sampled die old k → t.part k = { s.part k with tick := 0 }) ∧ (¬ sampled die old k → t.part k = s.part k)) ∧
    t.reg (obs die) = c / 2 ^ 32 * 2 ^ 32 + c / 2 ^ 16 % 2 ^ 8 * 2 ^ 16 + c / 2 % 2 * 2 ∧
    BarKept s t (· = obs die) ∧ sansParts t = sansParts s)) ∧
  (old % 2 = 1 → 0 < p.tick → p.tick ≤ s.clock →
    (lg = 0 → Gives (exec (.sampleTick die core part) s) (fun t => ticked t ∧ { t with parts := {} } = { s with parts := {} })) ∧
    (4 ≤ lg → lg ≤ 20 → base % 64 = 0 → tierOf base = .hbmA ∨ tierOf base = .lpddr → (n + 2 ^ 32 - s.reg (r + 24)) % 2 ^ 32 ≠ 2 ^ lg →
      Gives (exec (.sampleTick die core part) s) (fun t => ticked t ∧ t.reg (r + 16) = (n + 1) % 2 ^ 32 ∧
        BarKept s t (fun o => o = r + 16 ∨ isCounter o) ∧
        (∀ j < 32, t.newest (place j) = (s.sampleRecord die core part p.tick).getD j 0) ∧
        (∀ a, (∀ j < 32, a ≠ place j) → t.newest a = s.newest a) ∧
        { sansParts t with mem := {} } = { sansParts s with mem := {} })))

/-- What `ObservationRegisters`, `SamplerResult` state together, R66, R210, R215, R218, R219, R222. -/
def Obligations.ObservationResult : Prop := Sys2Proof.Claims.ObservationRegisters ∧ Sys2Proof.Claims.SamplerResult

namespace Sys2Proof.Claims

/-- Registers of channel map m (R13), and bit n of a register. -/
def mapReg (m : Nat) : Nat := 0x10000 + 0x80 * m
def regBit (s : State) (off n : Nat) : Bool := s.reg off / 2 ^ n % 2 = 1

/-- R10: the masks of map m make it valid. -/
def masksValid (s : State) (m : Nat) : Prop :=
  let mask (k : Nat) : Nat := s.reg (mapReg m + 8 * k)
  (∀ k < 14, mask k ≠ 0 ∧ mask k % 64 = 0 ∧ mask k < 2 ^ 39) ∧
  (∀ i < 14, ∀ j < 14, i ≠ j → Nat.log2 (mask i) ≠ Nat.log2 (mask j) ∧ mask i / 2 ^ Nat.log2 (mask j) % 2 = 0)

/-- The register is as before but for the bits that `b` lists, which take the values beside them. -/
def bitsNow (s t : State) (off : Nat) (b : List (Nat × Bool)) : Prop :=
  ∀ n < 64, regBit t off n = match b.find? (fun x => x.1 == n) with | some x => x.2 | none => regBit s off n

/-- BOOTSTAT's stage; recovery mode (R66). -/
def stage (s : State) : Nat := s.reg 8 % 16
def recovering (s : State) : Prop := stage s = 1 ∧ s.reg 8 / 2 ^ 8 % 2 ^ 8 ≠ 0

/-- The state with an answer to the host. -/
def replied (s : State) (r : HostReply) : State := { s with host := { s.host with reply := r } }

/-- An offset of BAR0 that is a secure target (R61). -/
def secureTarget (off : Nat) : Prop :=
  (0x4000 ≤ off ∧ off < 0x5000) ∨ (0x10000 ≤ off ∧ off < 0x10400) ∨ (0x20000 ≤ off ∧ off < 0x21000) ∨
  (0xE0000 ≤ off ∧ off < 0xE8000)

/-- The key in `scratch` of the first byte of the mailbox window (R63). -/
def window (s : State) : Nat := s.reg 0x10 / 2 ^ 6 % 8 * 2 ^ 26 + s.reg 0x10 % 64 * 2 ^ 20

/-- Bytes entered scratch at `key` and nothing else in it changed; the full bits of the granules that `f` names turned 1.
The errors of its words may change with them (01 R22). -/
def ScratchWritten (s t : State) (key : Nat) (l : List Byte) (f : Nat → Prop) : Prop :=
  (∀ k, t.mem.scratch.get 0 k = if key ≤ k ∧ k < key + l.length then l.getD (k - key) 0 else s.mem.scratch.get 0 k) ∧
  (∀ g, (f g → t.mem.sfull.get false g = true) ∧ (¬ f g → t.mem.sfull.get false g = s.mem.sfull.get false g)) ∧
  t.mem = { s.mem with scratch := t.mem.scratch, sfull := t.mem.sfull, badWords := t.mem.badWords, weakWords := t.mem.weakWords }

/-- The machine without memory and BAR0. -/
def sansMemBar (s : State) : State := { s with mem := {}, host := { s.host with bar0 := {} } }

/-- A register of BAR0 whose read has no effect, as it reads: zero for a write-only one, and SWEEPCTL with the length of the
die's queue of cold frames (R61, R187). -/
def readable (s : State) (off : Nat) : Nat :=
  if off = 0x2008 ∨ off = 0x3200 ∨ off = 0x3208 then 0
  else if 0x30000 ≤ off ∧ off < 0x38000 ∧ off % 0x1000 = 8 then 0
  else if 0x30000 ≤ off ∧ off < 0x38000 ∧ off % 0x1000 = 0x18 then
    s.reg off % 2 ^ 32 + (s.xlat.coldq.get [] ((off - 0x30000) / 0x1000)).length % 2 ^ 16 * 2 ^ 32 + s.reg off / 2 ^ 48 * 2 ^ 48
  else s.reg off

/-- PINQ and COLDQ of a die, whose reads pop an entry (R182, R187). -/
def pops (off : Nat) : Prop := 0x30000 ≤ off ∧ off < 0x38000 ∧ (off % 0x1000 = 0 ∨ off % 0x1000 = 0x20)

/-- MSI-X vector v is raised: its message is sent, or is pending while the table masks it (R61, R62). -/
def Raised (s t : State) (v : Nat) : Prop :=
  (s.reg (0x1008 + 16 * v) / 2 ^ 32 % 2 = 0 → t.host.msix = s.host.msix ++ [v] ∧ t.reg 0x1800 = s.reg 0x1800) ∧
  (s.reg (0x1008 + 16 * v) / 2 ^ 32 % 2 = 1 → t.host.msix = s.host.msix ∧ bitsNow s t 0x1800 [(v, true)])

/-- No lane waits for a granule of scratch. -/
def noScratchWait (s : State) : Prop := ∀ w ∈ s.mem.feWaits, w.space ≠ 2

end Sys2Proof.Claims

/-- R10, R13, R14, R19: VALID of a map that is not locked comes into force when its masks make it valid, and else ERR rises;
VALID and the masks of a locked map stay; the masks of a map in force stay; LOCK only rises; ERR clears. CLEAR sets every
counter to 0, and FREEZE is as written. -/
def Obligations.ChannelMapRegisters : Prop := ∀ (m k : Nat) (v : DWord) (freeze : Bool) (s : State), m < 8 → k < 14 →
  let ctl := mapReg m + 0x70
  let only (t : State) : Prop := OnlyBar s t (· = ctl)
  (regBit s ctl 1 = false → masksValid s m → Gives (exec (.mapValidSet m) s) (fun t => bitsNow s t ctl [(0, true)] ∧ only t)) ∧
  (regBit s ctl 1 = false → ¬ masksValid s m → Gives (exec (.mapValidSet m) s) (fun t =>
    bitsNow s t ctl [(0, false), (2, true)] ∧ only t)) ∧
  (regBit s ctl 1 = false → Gives (exec (.mapValidClear m) s) (fun t => bitsNow s t ctl [(0, false)] ∧ only t)) ∧
  (regBit s ctl 1 = true → exec (.mapValidSet m) s = .next s ∧ exec (.mapValidClear m) s = .next s) ∧
  Gives (exec (.mapLockSet m) s) (fun t => bitsNow s t ctl [(1, true)] ∧ only t) ∧
  Gives (exec (.mapErrClear m) s) (fun t => bitsNow s t ctl [(2, false)] ∧ only t) ∧
  (regBit s ctl 0 = false → regBit s ctl 1 = false → Gives (exec (.maskWrite m k v) s) (fun t =>
    t.reg (mapReg m + 8 * k) = v.toNat / 64 % 2 ^ 33 * 64 ∧ OnlyBar s t (· = mapReg m + 8 * k))) ∧
  (regBit s ctl 0 = true ∨ regBit s ctl 1 = true → exec (.maskWrite m k v) s = .next s) ∧
  (FMap.wf none s.host.bar0 = true → ¬ recovering s → Gives (exec .counterClear s) (fun t =>
    (∀ c < 544, ∀ j < 32, t.reg (0x18000 + 0x20 * c + j) = 0) ∧ OnlyBar s t (fun o => 0x18000 ≤ o ∧ o < 0x18000 + 0x20 * 544))) ∧
  (¬ recovering s → Gives (exec (.counterFreezeWrite freeze) s) (fun t => t.reg 0x17FF8 = freeze.toNat ∧ OnlyBar s t (· = 0x17FF8)))

/-- R59, R60, R61, R63 to R66: until boot reaches stage 4 a configuration request is answered with Retry, but for recovery
mode; then a write is done, and a read answers 4 bytes that the spec does not state, the same for the same word last
written. A request to a secure target is not performed: a read is answered Unsupported Request, and the monitor is told;
any other read of BAR0 returns the register. In recovery mode only IDENT and BOOTSTAT read as they are. A write through the window fills the granules
that it writes wholly, and the launch slots whose granule 7 it fills are in MBOXFULL; a read has the window's bytes.
MBOXBASE ignores writes while a slot is full; MBOXERR's VALID and OVF clear where 1 is written. -/
def Sys2Proof.Claims.HostWindowResult : Prop := ∀ (off n : Nat) (l : List Byte) (v : DWord) (w : Word) (write : Bool) (s : State),
  (stage s < 4 → ¬ recovering s → exec (.configRequest write off w) s = .next (replied s .retry)) ∧
  (4 ≤ stage s ∨ recovering s →
    Gives (exec (.configRequest true off w) s) (fun t => t.host.config.get none off = some w ∧
      (∀ o, o ≠ off → t.host.config.get none o = s.host.config.get none o) ∧
      t = { s with host := { s.host with reply := .done, config := t.host.config } }) ∧
    ∃ x, x.length = 4 ∧ exec (.configRequest false off w) s = .next (replied s (.data x)) ∧
      ∀ r, 4 ≤ stage r ∨ recovering r → r.host.config.get none off = s.host.config.get none off →
        exec (.configRequest false off w) r = .next (replied r (.data x))) ∧
  (secureTarget off → ¬ recovering s → Gives (exec (.hostSecureAccess write off) s) (fun t =>
    (∃ x, t.host.monlog = s.host.monlog ++ [x] ∧ x.2.1 = off ∧ x.2.2 = s.clock) ∧
    t = { s with host := { s.host with monlog := t.host.monlog, reply := if write then s.host.reply else .unsupported } })) ∧
  (¬ secureTarget off ∨ recovering s → exec (.hostSecureAccess true off) s = .next s ∧ (off % 8 = 0 → ¬ pops off →
    exec (.hostSecureAccess false off) s =
      .next (replied s (.data (bytesOfNat 8 (if (stage s = 1 ∧ s.reg 8 / 2 ^ 8 % 2 ^ 8 ≠ 0) ∧ off ≠ 0 ∧ off ≠ 8 then 0 else readable s off)))))) ∧
  (¬ recovering s → off < 2 ^ 20 →
    let b := l.take (2 ^ 20 - off)
    (noScratchWait s → Gives (exec (.hostScratchWrite off l) s) (fun t =>
      ScratchWritten s t (window s + off) b (fun g => window s + off ≤ 16 * g ∧ 16 * g + 16 ≤ window s + off + b.length) ∧
      (∀ j < 256, t.mboxFull j = true ↔ s.mboxFull j = true ∨ (off ≤ 128 * j + 112 ∧ 128 * j + 128 ≤ off + b.length)) ∧
      BarKept s t (fun o => o = 0x20 ∨ o = 0x28 ∨ o = 0x30 ∨ o = 0x38) ∧ sansMemBar t = sansMemBar s)) ∧
    exec (.hostScratchRead off n) s = .next (replied s (.data
      ((List.range (min n (2 ^ 20 - off))).map (fun k => s.mem.scratch.get 0 (window s + off + k)))))) ∧
  (¬ recovering s → (∀ j < 256, s.mboxFull j = false) → Gives (exec (.mboxbaseWrite v) s) (fun t =>
    t.reg 0x10 = v.toNat % 512 ∧ OnlyBar s t (· = 0x10))) ∧
  ((∃ j < 256, s.mboxFull j = true) → exec (.mboxbaseWrite v) s = .next s) ∧
  (¬ recovering s → Gives (exec (.mboxerrClear v) s) (fun t =>
    bitsNow s t 0x18 [(16, regBit s 0x18 16 && !v.getLsbD 16), (17, regBit s 0x18 17 && !v.getLsbD 17)] ∧
    OnlyBar s t (· = 0x18))) ∧
  (recovering s → ∀ i ∈ [Instr.hostScratchWrite off l, .hostScratchRead off n, .mboxbaseWrite v, .mboxerrClear v], exec i s = .next s)

/-- R68, R62: a write of ATTCTL sets OFFSET; GO starts a report, if none is in progress, and clears DONE. The report is
written over the nonce in the window: the nonce, the serial number, the digests of firmware, die-init configuration and
region table, VERSION, and the signature, by a key and a secret number that the spec does not state; its granules turn
full, DONE is set and vector 0 raised. -/
def Sys2Proof.Claims.AttestationResult : Prop := ∀ (v : DWord) (s : State) (die off : Nat),
  let field := (List.range 12).map (fun k => (8 + k, v.getLsbD (8 + k)))
  let at_ := (s.reg 0x10 / 2 ^ 6 % 8, s.reg 0x10 % 64 * 2 ^ 20 + v.toNat / 2 ^ 8 % 2 ^ 12 * 256)
  let nonce := (List.range 32).map (fun k => s.mem.scratch.get 0 (die * 2 ^ 26 + off + k))
  let table := (List.range 128).flatMap (fun j => bytesOfNat 8 (s.reg (0x4000 + 8 * j)))
  let fw := s.host.boot.running
  let body := nonce ++ bytesOfNat 16 Config.serial ++ Sha.sha256 fw ++ bytesOfNat 32 Config.dieInit ++ Sha.sha256 table ++
    bytesOfNat 4 (natOfBytes ((fw.drop 4).take 4)) ++ List.replicate 44 0
  let sig := P256.sign Config.deviceKey s.secret (natOfBytes (Sha.sha256 body).reverse)
  (recovering s → exec (.attestGo v) s = .next s) ∧
  (¬ recovering s → v.getLsbD 20 = true → s.host.attest = none → Gives (exec (.attestGo v) s) (fun t =>
    bitsNow s t 0x40 ((21, false) :: field) ∧ BarKept s t (· = 0x40) ∧
    t = { s with host := { s.host with bar0 := t.host.bar0, attest := some at_ } })) ∧
  (¬ recovering s → v.getLsbD 20 = false ∨ s.host.attest ≠ none → Gives (exec (.attestGo v) s) (fun t =>
    bitsNow s t 0x40 field ∧ OnlyBar s t (· = 0x40))) ∧
  (s.host.attest = some (die, off) → off % 256 = 0 → 0x8000 ≤ off % 2 ^ 20 → off < 2 ^ 26 → noScratchWait s →
    Gives (exec .attestDone s) (fun t =>
      ScratchWritten s t (die * 2 ^ 26 + off) (body ++ (bytesOfNat 64 sig).reverse)
        (fun g => die * 2 ^ 26 + off ≤ 16 * g ∧ 16 * g < die * 2 ^ 26 + off + 256) ∧
      bitsNow s t 0x40 [(21, true)] ∧ BarKept s t (fun o => o = 0x40 ∨ o = 0x1800) ∧ Raised s t 0 ∧
      sansMemBar t = sansMemBar { s with free := t.free, host := { s.host with attest := none, msix := t.host.msix } }))

/-- What `HostWindowResult`, `AttestationResult` state together, R59, R60, R61, R62, R63, R66, R68. -/
def Obligations.HostAccessResult : Prop := Sys2Proof.Claims.HostWindowResult ∧ Sys2Proof.Claims.AttestationResult

namespace Sys2Proof.Claims

/-- The group that a write of DHALT or DRELEASE names (R208). -/
def debugged (s : State) (v : DWord) : Option Nat :=
  if v.getLsbD 63 then s.inSlot (v.toNat / 2 ^ 16 % 8) (v.toNat / 2 ^ 8 % 256) (v.toNat % 64) else none

/-- One group changed, and nothing else. -/
def OnlyGroup (s t : State) (k : Nat) (g : Group) : Prop :=
  t.group k = g ∧ (∀ j, j ≠ k → t.group j = s.group j) ∧ { t with groups := {} } = { s with groups := {} }

end Sys2Proof.Claims

/-- R69, R70, R83, R208: a region entry that is not locked takes what is written. The monitor releases a frozen master, whose
access then faults, or resets its block: a core's grids stop with status 3, and its partitions, quadrants, control store
and TLBs are as at reset; an engine loses its commands, and the network engine its contexts; the launch unit loses the
launches that it holds; the Assay engine is idle (what a block's reset state is, log 30). CBUDGET is as written. DHALT halts the
group in the slot that it names, and DRELEASE lets it go on. -/
def Obligations.MonitorResult : Prop := ∀ (i k core : Nat) (lim : Bool) (v : DWord) (s : State),
  let e := 0x4000 + 16 * i
  (i < 64 → regBit s e 2 = false → Gives (exec (.regionEntryWrite i lim v) s) (fun t =>
    t.reg (if lim then e + 8 else e) = v.toNat / 2 ^ 16 % 2 ^ 36 * 2 ^ 16 + (if lim then 0 else v.toNat % 8) ∧
    OnlyBar s t (· = if lim then e + 8 else e))) ∧
  (i < 64 → regBit s e 2 = true → exec (.regionEntryWrite i lim v) s = .next s) ∧
  (k ≠ 8195 ∨ (∀ n, (s.grid n).ending = none) → Gives (exec (.freezeRelease k) s) (fun t =>
    (∀ f, f ∈ t.host.frozen ↔ f ∈ s.host.frozen ∧ f.1 ≠ k) ∧
    (∀ r, r ∈ t.host.released ↔ r ∈ s.host.released ∨ ∃ f ∈ s.host.frozen, f.1 = k ∧ r = (f.2.1, f.2.2.1)) ∧
    t = { s with host := { s.host with frozen := t.host.frozen, released := t.host.released } })) ∧
  (s.isFrozen k = false → exec (.freezeBlockReset k) s = .next s) ∧
  ((∃ f ∈ s.host.frozen, f.1 = k) →
    let gone (t : State) : Prop := ∀ f ∈ t.host.frozen, f.1 ≠ k
    (k < 4096 → Gives (exec (.freezeBlockReset k) s) (fun t =>
      (∀ g ∈ s.resident k, (s.grid (s.group g).grid).status = .running → (s.grid (s.group g).grid).stopping = false →
        (s.grid (s.group g).grid).ending = none →
        (t.grid (s.group g).grid).code = 3 ∧ ((t.grid (s.group g).grid).stopping = true ∨ (t.grid (s.group g).grid).status = .done)) ∧
      t.core k = {} ∧ (∀ p < 16, t.part (k * 16 + p) = {}) ∧ (∀ q < 4, t.quad (k * 4 + q) = {}) ∧
      t.xlat.tlbs.get [] k = [] ∧ t.xlat.tlbs.get [] (2048 + k) = [])) ∧
    ((4096 ≤ k ∧ k < 8192) ∨ k = 8193 → Gives (exec (.freezeBlockReset k) s) (fun t =>
      (∀ o, o ∈ t.eng.ops ↔ o ∈ s.eng.ops ∧ (o.kind = .net ∨ o.master ≠ k)) ∧ gone t ∧
      t = { s with eng := { s.eng with ops := t.eng.ops }, host := { s.host with frozen := t.host.frozen } })) ∧
    (k = 8192 → Gives (exec (.freezeBlockReset k) s) (fun t =>
      (∀ o, o ∈ t.eng.ops ↔ o ∈ s.eng.ops ∧ o.kind ≠ .net) ∧ gone t ∧
      t = { s with eng := { s.eng with ops := t.eng.ops }, net := {}, host := { s.host with frozen := t.host.frozen } })) ∧
    (k = 8194 → Gives (exec (.freezeBlockReset k) s) (fun t =>
      gone t ∧ t = { s with assay := {}, host := { s.host with frozen := t.host.frozen } })) ∧
    (k = 8195 → FMap.wf {} s.grids = true → (∀ n, (s.grid n).status ≠ .running) → Gives (exec (.freezeBlockReset k) s) (fun t =>
      gone t ∧ (∀ n, t.grid n = if (s.grid n).status = .stored then {} else s.grid n) ∧
      t = { s with grids := t.grids, host := { s.host with frozen := t.host.frozen } }))) ∧
  Gives (exec (.cbudgetWrite core v) s) (fun t => t.host.cbudget.get 96 core = v.toNat % 2 ^ 11 ∧
    (∀ c, c ≠ core → t.host.cbudget.get 96 c = s.host.cbudget.get 96 c) ∧
    t = { s with host := { s.host with cbudget := t.host.cbudget } }) ∧
  (∀ g, ¬ recovering s → debugged s v = some g →
    Gives (exec (.dhaltWrite v) s) (fun t => OnlyGroup s t g { s.group g with halted := true }) ∧
    Gives (exec (.dreleaseWrite v) s) (fun t => OnlyGroup s t g { s.group g with halted := false, held := false })) ∧
  (debugged s v = none ∨ recovering s → exec (.dhaltWrite v) s = .next s ∧ exec (.dreleaseWrite v) s = .next s)

namespace Sys2Proof.Claims

/-- A group without its registers, long results and flags. -/
def sansResults (g : Group) : Group :=
  { g with v := {}, p := {}, s := {}, q := {}, longs := [], spec := { g.spec with fpflags := 0 } }

/-- The trap subgroup of group gid is the first of its partition to be served: the least clock, ties to the lower slot. -/
def firstServed (s : State) (pk gid : Nat) (x : Trap) : Prop :=
  (gid, s.group gid) ∈ s.groups.cells ∧ (s.group gid).status = .running ∧ (s.group gid).partKey = pk ∧
  (s.group gid).trap = some x ∧ x.entered = false ∧
  ∀ c ∈ s.groups.cells, c.1 ≠ gid → ∀ y, c.2.trap = some y → y.entered = false → c.2.partKey = pk → c.2.status = .running →
    x.since < y.since ∨ x.since = y.since ∧ (s.group gid).slot < c.2.slot

/-- The machine without memory, translation and BAR0, whose counters a walk advances (R18). -/
def sansXlat (s : State) : State := { s with xlat := {}, mem := {}, host := { s.host with bar0 := {} } }

/-- Bytes of memory at their places (R10): those of `n` from `a` hold v, and the others are as before. -/
def memNow (s t : State) (a n v : Nat) : Prop := ∀ k, t.newest k = if a ≤ k ∧ k < a + n then byteAt v (k - a) else s.newest k

end Sys2Proof.Claims

/-- R127, R135, R177, R176, R178, R194, R195: a long result that has come back is written and its registers are pending no
more; the oldest reserved entry of an oq has its data; a free handler set is taken by the trap subgroup that has waited
longest; a free walk engine of the die takes the oldest walk; a walk that ends in a resident leaf sets A in its PTE and
fills its agent's TLB; one that finds a fault, or a page that is not resident, fills nothing. -/
def Sys2Proof.Claims.CoreEventResult : Prop := ∀ (gid k q pk die : Nat) (s : State),
  (∀ x, (s.group gid).longs.find? (fun y => y.id == k && y.ready) = some x →
    (x.vs.map (·.1)).Nodup → (x.ps.map (·.1)).Nodup → (x.ss.map (·.1)).Nodup → (x.qs.map (·.1)).Nodup →
    Gives (exec (.longResultWrite gid k) s) (fun t =>
      let g := s.group gid
      let h := t.group gid
      (∀ w ∈ x.vs, ∀ l < 128, (h.vreg w.1).get l = if w.2.1.has l then w.2.2.get l else (g.vreg w.1).get l) ∧
      (∀ w ∈ x.ps, ∀ l < 128, (h.pred w.1).has l = if w.2.1.has l then w.2.2.has l else (g.pred w.1).has l) ∧
      (∀ w ∈ x.ss, h.sreg w.1 = w.2) ∧ (∀ w ∈ x.qs, h.qpred w.1 = w.2) ∧
      (∀ r, r ∉ x.vs.map (·.1) → h.vreg r = g.vreg r) ∧ (∀ r, r ∉ x.ps.map (·.1) → h.pred r = g.pred r) ∧
      (∀ r, r ∉ x.ss.map (·.1) → h.sreg r = g.sreg r) ∧ (∀ r, r ∉ x.qs.map (·.1) → h.qpred r = g.qpred r) ∧
      h.spec.fpflags = g.spec.fpflags ||| x.flags ∧ (∀ y, y ∈ h.longs ↔ y ∈ g.longs ∧ y.id ≠ x.id) ∧
      sansResults h = sansResults g ∧ (∀ j, j ≠ gid → t.group j = s.group j) ∧
      { t with groups := {} } = { s with groups := {} })) ∧
  (∀ a e b, queueOf (s.group gid) q = a ++ e :: b → (∀ y ∈ a, y.filled = true) → e.filled = false →
    Gives (exec (.queueEntryFill gid q) s) (fun t =>
      queueOf (t.group gid) q = a ++ { e with filled := true } :: b ∧
      (∀ j, j ≠ q → queueOf (t.group gid) j = queueOf (s.group gid) j) ∧
      OnlyGroup s t gid { s.group gid with queues := (t.group gid).queues })) ∧
  (∀ g x, (s.part pk).owner = none → firstServed s pk g x → Gives (exec (.handlerEnter pk) s) (fun t =>
    (t.part pk).owner = some g ∧ (t.group g).trap = some { x with entered := true } ∧
    (∃ y ∈ (t.group g).subs, y.lanes = x.lanes ∧ y.handler = true ∧ y.pc = ((s.group g).spec.trapbase + 64 * x.cls) % 2 ^ 64) ∧
    (∀ l < 128, ∀ r < 16, ((t.part pk).t.get {} r).get l =
      if x.lanes.has l then
        (if r = 0 then BitVec.ofNat 32 (x.cls + x.sub * 2 ^ 8 + l * 2 ^ 16)
         else if r = 1 then BitVec.ofNat 32 (x.recs.get {} l).addr.toNat
         else if r = 2 then BitVec.ofNat 32 ((x.recs.get {} l).addr.toNat / 2 ^ 32) else 0)
      else ((s.part pk).t.get {} r).get l) ∧
    sideField (t.group g) 0 8 = x.pc % 2 ^ 64 ∧ sideField (t.group g) 32 16 = x.lanes.toNat ∧
    (∀ j, j ≠ pk → t.part j = s.part j) ∧ (∀ j, j ≠ g → t.group j = s.group j) ∧
    { t with groups := {}, parts := {} } = { s with groups := {}, parts := {} })) ∧
  ((s.part pk).owner ≠ none → exec (.handlerEnter pk) s = .next s) ∧
  (∀ w ∈ s.xlat.walks, w.die = die → w.inFlight = false →
    (s.xlat.walks.filter (fun y => y.die == die && y.inFlight)).length < 1024 →
    (∀ y ∈ s.xlat.walks, y.die = die → y.inFlight = false → y = w ∨ w.at_ < y.at_ ∨ w.at_ = y.at_ ∧ w.core < y.core) →
    Gives (exec (.walkStart die) s) (fun t =>
      t = { s with xlat := { s.xlat with walks := s.xlat.walks.map (fun y => if y.id = w.id then { y with inFlight := true } else y) } })) ∧
  (∀ w p a sz, s.xlat.walks.find? (fun y => y.id == k && y.inFlight) = some w →
    let rest := s.xlat.walks.filter (fun y => y.id != k)
    (canonical w.va = false ∨ (∃ e, s.tlbFind w.agent w.asid w.va = some e) →
      exec (.walkComplete k) s = .next { s with xlat := { s.xlat with walks := rest } }) ∧
    ((∃ n, s.walk w.root w.va = .bad n) ∨ (s.walk w.root w.va = .leaf p a sz ∧ pteRes p ≠ 0) →
      Gives (exec (.walkComplete k) s) (fun t => (∀ b, t.newest b = s.newest b) ∧
        t.xlat = { s.xlat with walks := rest } ∧ sansXlat t = sansXlat s)) ∧
    (canonical w.va = true → s.tlbFind w.agent w.asid w.va = none → s.walk w.root w.va = .leaf p a sz → pteRes p = 0 →
      w.agent < 4104 → Gives (exec (.walkComplete k) s) (fun t =>
        memNow s t (s.at 0 a) 8 (p ||| 2 ^ 11) ∧ t.xlat.walks = rest ∧ sansXlat t = sansXlat s ∧
        (∃ e, t.tlbFind w.agent w.asid w.va = some e ∧ e.pte = p ||| 2 ^ 11 ∧ e.pteAddr = a ∧ e.size = sz) ∧
        ∀ j, j ≠ w.agent → t.xlat.tlbs.get [] j = s.xlat.tlbs.get [] j)))

namespace Sys2Proof.Claims

/-- The machine without memory, groups, grids, BAR0 and its clock, which counts up when a home's stamps of a clock run out. -/
def sansHome (s : State) : State :=
  { s with clock := 0, mem := {}, groups := {}, grids := {}, host := { s.host with bar0 := {} } }

/-- Bytes of memory that are no part of the global memory are as before. -/
def othersKept (s t : State) : Prop :=
  (∀ space place off, t.winByte space place off = s.winByte space place off) ∧ ∀ n a, t.nodeByte n a = s.nodeByte n a

/-- Registers of every group are as before. -/
def registersKept (s t : State) : Prop :=
  ∀ k, (t.group k).v = (s.group k).v ∧ (t.group k).p = (s.group k).p ∧ (t.group k).s = (s.group k).s ∧ (t.group k).q = (s.group k).q

/-- The operations of a fabric access, lane by lane, on the bytes of its node: what they leave, and what lanes read. -/
def nodeLanes (kind akind aop n : Nat) : List (Nat × Nat × Nat × Nat) → (Nat → Byte) → (Nat → Byte) × List (Nat × Nat)
  | [], f => (f, [])
  | l :: t, f =>
    let old := little (fun k => f (l.2.1 + k)) n
    let new := if kind = 0 then none else if kind = 1 then some l.2.2.1 else (atomicWrites akind (aop % 8) (8 * n) old l.2.2.1 l.2.2.2).1
    let f' := match new with | some v => poke f l.2.1 n v | none => f
    let q := nodeLanes kind akind aop n t f'
    (q.1, (l.1, old) :: q.2)

end Sys2Proof.Claims

/-- R157, R160, R163, R297, R324: an atomic's last lane, or its only one, is performed at its home: the word takes its new
value, the old value reaches the long result, which comes back. ARRIVE adds 1, and at its count wraps to 0 and ends with
true. A notice of a core's oldest commit is acknowledged. A commit whose notices have been acknowledged becomes visible
whole, under one stamp, and is in progress no more. -/
def Sys2Proof.Claims.HomeEventResult : Prop := ∀ (k core : Nat) (s : State),
  (∀ o h, s.mem.homeOps.find? (fun x => x.id == k) = some o → o.lanes.filter (fun x => !x.performed) = [h] →
    (o.lanes.map (·.lane)).Nodup → (s.gridOf o.gid).launch.mode ≠ 2 → (o.kind = 1 → o.aop % 8 ≤ 2) →
    h.tagged = false →
    s.retentionOk (bytesAt h.loc o.width 0) = true →
    let old := s.newestN h.loc o.width
    let r := atomicWrites o.kind (o.aop % 8) (8 * o.width) old h.a h.b
    Gives (exec (.homeAtomic k) s) (fun t =>
      (o.kind ≤ 2 → (∀ v, r.1 = some v → memNow s t h.loc o.width v) ∧ (r.1 = none → ∀ a, t.newest a = s.newest a)) ∧
      (o.kind = 3 → ∀ a, t.newest a = s.newest a) ∧
      (o.kind = 4 → memNow s t h.loc o.width (if old + 1 = o.n then 0 else (old + 1) % 2 ^ 32)) ∧
      (o.kind ≠ 4 → ∀ x ∈ t.mem.homeOps, x.id ≠ k) ∧
      (o.kind = 4 → ∃ x ∈ t.mem.homeOps, x.id = k ∧ x.done = true ∧ (x.result = true ↔ old + 1 = o.n)) ∧
      (∀ j, o.long = some j → (t.group o.gid).longs.map (·.id) = (s.group o.gid).longs.map (·.id) ∧
        (∀ x ∈ (t.group o.gid).longs, x.id = j → x.ready = true ∧ ∀ i < x.vs.length, ∃ v, x.vs[i]? = some v ∧
          v.2.2.get h.lane = BitVec.ofNat 32 (old / 2 ^ (32 * i)) ∨ 128 ≤ h.lane)) ∧
      registersKept s t ∧ othersKept s t ∧ sansHome t = sansHome s)) ∧
  (∀ c, s.mem.commits.find? (fun x => x.notices.contains core) = some c → (s.mem.commits.map (·.id)).Nodup →
    Gives (exec (.supersededNotice core) s) (fun t =>
      (∃ d ∈ t.mem.commits, d = { c with notices := c.notices.filter (· != core) }) ∧
      (∀ x, x.id ≠ c.id → (x ∈ t.mem.commits ↔ x ∈ s.mem.commits)) ∧
      (∀ b ∈ c.bytes, core ∉ t.mem.dir.get [] (b.loc / 64)) ∧
      (∀ n, (∀ b ∈ c.bytes, b.loc / 64 ≠ n) → t.mem.dir.get [] n = s.mem.dir.get [] n) ∧
      t = { s with mem := { s.mem with dir := t.mem.dir, commits := t.mem.commits } })) ∧
  (∀ c, s.mem.commits.find? (fun x => x.id == k) = some c → (s.gridOf c.gid).launch.mode ≠ 2 → c.installed = true →
    c.notices = [] → c.tags = [] → s.retentionOk c.cells = true → (c.bytes.map (·.loc)).Nodup →
    Gives (exec (.commitVisible k) s) (fun t =>
      (∃ stamp, ∀ b ∈ c.bytes, ∃ v r, t.versOf b.loc = v :: r ∧ r = s.versOf b.loc ∧ v.val = b.val ∧ v.stamp = stamp ∧
        v.grid = (s.group c.gid).grid ∧ v.team = (s.group c.gid).team ∧ v.num = (s.group c.gid).num) ∧
      (∀ a, a ∉ c.bytes.map (·.loc) → t.newest a = s.newest a) ∧ (∀ x, x ∈ t.mem.commits ↔ x ∈ s.mem.commits ∧ x.id ≠ k) ∧
      registersKept s t ∧ othersKept s t ∧ sansHome t = sansHome s)) ∧
  (∀ c, s.mem.commits.find? (fun x => x.id == k) = some c →
    (c.installed = false ∨ c.notices ≠ []) → exec (.commitVisible k) s = .next s)

/-- What `CoreEventResult`, `HomeEventResult` state together, R127, R135, R157, R160, R163, R176, R177, R178, R194,
R195, R297, R324. -/
def Obligations.CoreAndHomeEvents : Prop := Sys2Proof.Claims.CoreEventResult ∧ Sys2Proof.Claims.HomeEventResult

namespace Sys2Proof.Claims

/-- The node grants an access of n bytes at a: they are installed, and it has set no window, or one that holds them (R31;
with no window set, log 52). -/
def granted (s : State) (node a n : Nat) : Prop :=
  a + n ≤ (s.node node).ddr ∧ ((s.node node).windows = [] ∨ ∃ w ∈ (s.node node).windows, w.1 ≤ a ∧ a + n ≤ w.2)

/-- The partitions are as before, but for their operand latches. -/
def partsKept (s t : State) : Prop := ∀ k, { t.part k with latch := [] } = { s.part k with latch := [] }

/-- The machine without memory, groups, grids and engines. -/
def sansNear (s : State) : State := { s with mem := {}, groups := {}, grids := {}, eng := {} }

/-- Every byte of the package's memory is as before. -/
def packageKept (s t : State) : Prop :=
  (∀ a, t.newest a = s.newest a) ∧ ∀ space place off, t.winByte space place off = s.winByte space place off

end Sys2Proof.Claims

/-- R31, R32, R33, R39, R40, R362: an access reaches its node after the group's earlier ones there and acts lane by lane on
the node's bytes; a load or atomic is answered, and a posted store is no more. At a node that is down, or by a port that is, an
access fails with FABRIC 0x1, or 0x2 where a reset was seen, and a store is lost. A FLUSH of a node with nothing before it is answered 0, or
fails with 0x5 where a store was lost; one of this package is answered the count of undelivered deliveries, which returns
to 0. -/
def Sys2Proof.Claims.FabricEventResult : Prop := ∀ (k : Nat) (s : State) (o : FabricOp),
  s.mem.fabric.find? (fun x => x.id == k) = some o → o.replied = false → (s.mem.fabric.map (·.id)).Nodup →
  let up := s.nstate o.node = 1 ∧ s.portDown o.port = false
  let first := (∀ x ∈ s.mem.fabric, x.gid = o.gid → x.node = o.node → x.id < o.id → x.kind ≠ 3 → x.replied = true) ∧
    ∀ m ∈ s.eng.mcasts, m.gid = o.gid → m.node = o.node → o.id ≤ m.op
  let idle := ∀ e ∈ s.eng.ops, e.gid = o.gid → e.queue = o.aop → o.id ≤ e.id
  let r := nodeLanes o.kind o.akind o.aop o.bytes o.lanes (s.nodeByte o.node)
  let answered (t : State) (f n : Nat) : Prop := ∃ x ∈ t.mem.fabric, x.id = k ∧ x.replied = true ∧ x.failed = f ∧ x.got.get 0 0 = n
  let others (t : State) : Prop := (∀ x, x.id ≠ k → (x ∈ t.mem.fabric ↔ x ∈ s.mem.fabric)) ∧ packageKept s t ∧
    registersKept s t ∧ sansNear t = sansNear s
  (s.portWaits o.port = true → o.kind ≠ 3 → exec (.fabricLoadReply k) s = .next s) ∧
  (o.kind ≤ 2 → (s.gridOf o.gid).launch.mode ≠ 2 → s.portWaits o.port = false → first →
    (up → (∀ l ∈ o.lanes, granted s o.node l.2.1 o.bytes) → (o.lanes.map (·.1)).Nodup →
      (o.kind = 2 → o.akind = 1 → o.aop % 8 ≤ 2) → Gives (exec (.fabricLoadReply k) s) (fun t =>
      (∀ a, t.nodeByte o.node a = r.1 a) ∧ (∀ n a, n ≠ o.node → t.nodeByte n a = s.nodeByte n a) ∧ others t ∧
      (o.kind = 1 → (∀ x ∈ t.mem.fabric, x.id ≠ k) ∧
        ((s.group o.gid).status ≠ .gone → (t.group o.gid).posted = (s.group o.gid).posted - 1)) ∧
      (o.kind ≠ 1 → ∃ x ∈ t.mem.fabric, x.id = k ∧ x.replied = true ∧ ∀ v ∈ r.2, x.got.get 0 v.1 = v.2))) ∧
    (¬ up → Gives (exec (.fabricLoadReply k) s) (fun t =>
      (∀ n a, t.nodeByte n a = s.nodeByte n a) ∧ others t ∧
      (o.kind = 1 → (∀ x ∈ t.mem.fabric, x.id ≠ k) ∧ o.gid ∈ (t.node o.node).lost) ∧
      (o.kind ≠ 1 → ∃ x ∈ t.mem.fabric, x.id = k ∧ x.replied = true ∧ x.failed = if s.nstate o.node = 3 then 2 else 1)))) ∧
  (o.kind = 3 → idle → o.akind = 0 → s.portWaits o.port = false → up →
    (o.gid ∉ (s.node o.node).lost → first →
      Gives (exec (.fabricLoadReply k) s) (fun t => answered t 0 0 ∧ (∀ n a, t.nodeByte n a = s.nodeByte n a) ∧ others t)) ∧
    (o.gid ∈ (s.node o.node).lost →
      Gives (exec (.fabricLoadReply k) s) (fun t => answered t 5 0 ∧ o.gid ∉ (t.node o.node).lost ∧
        (∀ n a, t.nodeByte n a = s.nodeByte n a) ∧ others t))) ∧
  (o.kind = 3 → idle → o.akind = 1 → o.bytes = s.pkgid → (∀ d ∈ s.eng.deliveries, d.gid ≠ o.gid) →
    Gives (exec (.fabricLoadReply k) s) (fun t => answered t 0 ((s.group o.gid).undelivered.get 0 o.bytes) ∧
      (t.group o.gid).undelivered.get 0 o.bytes = 0 ∧ (∀ n a, t.nodeByte n a = s.nodeByte n a) ∧ others t))

/-- R35, R142, R143, R144: a multicast store of another package, or this package's copy of one of its own, is written into
scratch, and its granules turn full. A delivery that is ready, or one from another package, whose name reaches a running
group within its budget, by its generation or as a member of its sender's grid, writes the whole register and lowers its
hold count; one whose name reaches no group is dropped, and its sender counts it. -/
def Sys2Proof.Claims.ArrivalResult : Prop := ∀ (k : Nat) (m : McPacket) (p : RegDelivery) (s : State),
  let key := m.die * 2 ^ 26 + m.off
  let turned (g : Nat) : Prop := m.bytes ≠ [] ∧ key / 16 ≤ g ∧ g ≤ (key + m.bytes.length - 1) / 16
  let direct (grid name g : Nat) : Prop := name % 2 ^ 8 = 0 ∧ name / 2 ^ 8 % 2 ^ 18 ≠ 0 ∧ (s.grid grid).free = false ∧
    s.member grid ((name / 2 ^ 8 % 2 ^ 18 - 1) / 16) ((name / 2 ^ 8 % 2 ^ 18 - 1) % 16) = some g ∧ (s.group g).nameIdx ≠ 0
  let reaches (name g : Nat) : Prop := name % 2 ^ 8 ≠ 0 ∧ name / 2 ^ 8 % 2 ^ 18 ≠ 0 ∧ s.names.holder.get 0 (name / 2 ^ 8 % 2 ^ 18) = g + 1 ∧
    s.names.gens.get 0 (name / 2 ^ 8 % 2 ^ 18) + 1 = name % 2 ^ 8
  let nobody (name : Nat) : Prop := name / 2 ^ 8 % 2 ^ 18 = 0 ∨ name % 2 ^ 8 ≠ 0 ∧
    (s.names.holder.get 0 (name / 2 ^ 8 % 2 ^ 18) = 0 ∨ s.names.gens.get 0 (name / 2 ^ 8 % 2 ^ 18) + 1 ≠ name % 2 ^ 8)
  let ready (d : Delivery) : Prop := (∀ o ∈ (s.grid d.grid).steer.ops, o.kind = 5 → o.obj ≠ k) ∧
    (∀ c ∈ s.mem.commits, c.id ∉ d.after) ∧
    (d.relay = 0 ∨ s.portWaits d.port = false) ∧
    (∀ e ∈ s.eng.deliveries, e.id < d.id → e.gid = d.gid → e.pkg = d.pkg →
      e.held = true ∧ ¬ (e.target = d.target ∧ e.reg = d.reg))
  let written (t : State) (g r : Nat) (v : Nat → Word) : Prop :=
    (∀ l < 128, ((t.group g).vreg r).get l = v l) ∧ (t.group g).holds.get 0 r = (s.group g).holds.get 0 r - 1 ∧
    (∀ j, j ≠ r → (t.group g).vreg j = (s.group g).vreg j ∧ (t.group g).holds.get 0 j = (s.group g).holds.get 0 j) ∧
    (∀ j, j ≠ g → t.group j = s.group j)
  (m.die < 8 → m.off + m.bytes.length ≤ 2 ^ 26 → noScratchWait s →
    (m.op = none → Gives (exec (.multicastStoreArrive m) s) (fun t =>
      ScratchWritten s t key m.bytes turned ∧ sansMemBar t = sansMemBar s)) ∧
    (∀ j x, m.op = some j →
      s.eng.mcasts.find? (fun y => y.op == j && y.die == m.die && y.off == m.off && y.bytes == m.bytes) = some x →
      s.eng.mcasts.find? (fun y => y.gid == x.gid && y.node == x.node) = some x → Gives (exec (.multicastStoreArrive m) s) (fun t =>
        ScratchWritten s t key m.bytes turned ∧ t.eng.mcasts.length + 1 = s.eng.mcasts.length ∧ t.groups = s.groups))) ∧
  (∀ d, s.eng.deliveries.find? (fun x => x.id == k) = some d → ready d → d.pkg ≠ s.pkgid →
    d.pkg ∉ s.host.pod ∨ d.target % 2 ^ 8 = 0 → Gives (exec (.deliveryArrive k none) s) (fun t =>
      (∀ x, x ∈ t.eng.deliveries ↔ x ∈ s.eng.deliveries ∧ x.id ≠ k) ∧ registersKept s t ∧
      ((s.group d.gid).status ≠ .gone →
        (t.group d.gid).undelivered.get 0 d.pkg = (s.group d.gid).undelivered.get 0 d.pkg + 1))) ∧
  (∀ d, s.eng.deliveries.find? (fun x => x.id == k) = some d → ready d → d.pkg = s.pkgid →
    (∀ g, reaches d.target g ∨ direct d.grid d.target g → (s.group g).status = .running → d.reg < 32 + 16 * (s.group g).budget →
      Gives (exec (.deliveryArrive k none) s) (fun t => written t g d.reg d.data.get ∧
        (∀ x, x ∈ t.eng.deliveries ↔ x ∈ s.eng.deliveries ∧ x.id ≠ k) ∧ t.mem = s.mem ∧ partsKept s t ∧
        { sansNear t with parts := {} } = { sansNear s with parts := {} })) ∧
    (nobody d.target → Gives (exec (.deliveryArrive k none) s) (fun t =>
      (∀ x, x ∈ t.eng.deliveries ↔ x ∈ s.eng.deliveries ∧ x.id ≠ k) ∧ registersKept s t ∧
      ((s.group d.gid).status ≠ .gone →
        (t.group d.gid).undelivered.get 0 d.pkg = (s.group d.gid).undelivered.get 0 d.pkg + 1) ∧
      t.mem = s.mem ∧ sansNear t = sansNear s))) ∧
  (∀ g, reaches p.target g → (s.group g).status = .running → p.reg < 32 + 16 * (s.group g).budget →
    Gives (exec (.deliveryArrive k (some p)) s) (fun t => written t g p.reg (fun l => p.data.getD l 0) ∧
      t.eng = s.eng ∧ t.mem = s.mem ∧ partsKept s t ∧
      { sansNear t with nextId := 0, parts := {} } = { sansNear s with nextId := 0, parts := {} }))

/-- What `FabricEventResult`, `ArrivalResult` state together, R31, R32, R33, R35, R39, R40, R142, R143, R144, R362. -/
def Obligations.FabricEvents : Prop := Sys2Proof.Claims.FabricEventResult ∧ Sys2Proof.Claims.ArrivalResult

/-! ## What the engines do (09 R184 to R189, 18 R346 to R372) -/

namespace Sys2Proof.Claims

/-- The command k is the one that its queue and its accumulator tile let act, and its engine is not frozen (04 R70). -/
structure Turn (s : State) (k : Nat) (o : EngOp) : Prop where
  op : s.eng.ops.find? (fun x => x.id == k) = some o
  ids : (s.eng.ops.map (·.id)).Nodup
  queue : ∀ x ∈ s.eng.ops, x.gid = o.gid → x.queue = o.queue → o.id ≤ x.id
  tile : ∀ x ∈ s.eng.ops, x.id < o.id → x.isAcc = true → x.quadKey = o.quadKey → ∀ n ∈ x.tiles, n ∉ o.tiles
  group : (s.group o.gid).status = .running
  free : s.isFrozen o.master = false

/-- A translation is in the agent's TLB and passes every check: it changes nothing. -/
def steadily (s : State) (agent root asid : Nat) (a : Acc) (va pa cm : Nat) : Prop :=
  s.translate agent root asid a va = (.ok pa cm, s)

/-- Command k is no more, and the others are as before. -/
def opGone (s t : State) (k : Nat) : Prop := ∀ x, x ∈ t.eng.ops ↔ x ∈ s.eng.ops ∧ x.id ≠ k
/-- Command k is as `o`, and the others are as before. -/
def opNow (s t : State) (k : Nat) (o : EngOp) : Prop := o ∈ t.eng.ops ∧ ∀ x, x.id ≠ k → (x ∈ t.eng.ops ↔ x ∈ s.eng.ops)

/-- A byte of the window of a view: team memory of the command's team, or scratch of a die (R349). -/
def viewPlace (o : EngOp) (t : Tlr) : Nat :=
  if t.kind = 1 then o.grid * 2 ^ 24 + o.team else if t.place = 8 then o.die else t.place

/-- The offset of row r of a view, dim 1 fastest (R350). -/
def rowAt (t : Tlr) (r : Nat) : Nat :=
  t.base + r % t.dim 1 * t.stride 1 + r / t.dim 1 % t.dim 2 * t.stride 2 + r / (t.dim 1 * t.dim 2) * t.stride 3

/-- Bytes of a row: dim 0 elements (R350). -/
def rowLen (t : Tlr) : Nat := t.dim 0 * Fp.widthOf t.etype / 8

/-- Where the next row of a COPY or GATHER comes from and goes to (R351, R352). -/
def rowOf (o : EngOp) (a b : Nat) : Prop :=
  (o.kind = .copy ∧ a = rowAt o.src o.next ∧ b = rowAt o.dst o.next) ∨
  (o.kind = .gather ∧ ∃ lane v, (ascending o.lanes)[o.next]? = some lane ∧ o.regs = [v] ∧ (v.get lane).toNat < o.src.dim 1 ∧
    lane < o.dst.dim 1 ∧ a = o.src.base + (v.get lane).toNat * o.src.stride 1 ∧ b = o.dst.base + lane * o.dst.stride 1)

/-- No lane waits for a granule. -/
def noWaits (s : State) : Prop := s.mem.feWaits = []

/-- Element n of row h of a tile: one word, or two for FP64 (R356). -/
def element (q : Quad) (ty tile h n : Nat) : Nat :=
  (q.acc.get 0 (tile * 4096 + h * 128 + n)).toNat +
    (if ty = 11 then 2 ^ 32 * (q.acc.get 0 ((tile + 1) * 4096 + h * 128 + n)).toNat else 0)

/-- What ACCST stores of an element: FP32 narrowed to nearest even for .f16 and .bf16 (R360). -/
def storedElement (q : Quad) (ty tile h n : Nat) : Nat :=
  if ty = 9 then (Fp.round Fp.f16 0 false (Fp.decode Fp.f32 (element q 3 tile h n))).1
  else if ty = 10 then (Fp.round Fp.bf16 0 false (Fp.decode Fp.f32 (element q 3 tile h n))).1
  else element q ty tile h n

/-- Operands of a member's k-block of MMA.R at k0: A from team memory, B from the members' registers (R357). -/
def blockAt (s : State) (o : EngOp) (ms : List EngOp) (k0 : Nat) : MmaBlock :=
  match (s.blockR o ms k0).1 with | .ok b => b | _ => {}

/-- An element after the k-blocks that are left (R260, R359). -/
def accumulated (s : State) (o : EngOp) (ms : List EngOp) (h n : Nat) : Nat :=
  (List.range ((o.ktotal - o.kdone) / kBlock o.smode)).foldl (fun acc i =>
    (mmaStep o.smode o.types.1 o.types.2 (blockAt s o ms (o.kdone + i * kBlock o.smode)) h n acc).1 %
      2 ^ (if o.ty = 11 then 64 else 32)) (element (s.quad o.quadKey) o.ty o.tile h n)

/-- The machine without memory, groups, grids, teams, engines, quadrants and BAR0. -/
def sansWork (s : State) : State :=
  { s with mem := {}, groups := {}, grids := {}, teams := {}, eng := {}, quads := {}, host := { s.host with bar0 := {} } }

end Sys2Proof.Claims

/-- R346, R351, R352, R154, R170: at its turn a COPY or GATHER between team memory and scratch moves its next row; the bytes
of the destination are the source's, its granules turn full, the row is counted, and the command ends with its last row.
A barrier object's COUNT falls by the row's bytes. -/
def Sys2Proof.Claims.CopyPerformed : Prop := ∀ (k a b : Nat) (s : State) (o : EngOp), Turn s k o → noWaits s →
  let sk := o.src.kind
  let dk := o.dst.kind
  let n := rowLen o.src
  let dp := viewPlace o o.dst
  o.started = true → o.next < o.total → rowOf o a b → (sk = 1 ∨ sk = 2) → (dk = 1 ∨ dk = 2) → 0 < n → b + n ≤ 2 ^ 26 →
  s.eng.mcasts = [] → (o.obj ≠ none → dk = 2) → s.winBad sk (viewPlace o o.src) a n = none →
  Gives (exec (.engineWritePerformed k) s) (fun t =>
    (∀ i < n, t.winByte dk dp (b + i) = s.winByte sk (viewPlace o o.src) (a + i)) ∧
    (∀ i < n, t.isFull dk dp (b + i) = true) ∧
    (o.obj = none → ∀ sp place off, (sp = 1 ∨ sp = 2) → off < 2 ^ 26 → (sp ≠ dk ∨ place ≠ dp ∨ off < b ∨ b + n ≤ off) →
      t.winByte sp place off = s.winByte sp place off) ∧
    (∀ j, o.obj = some j → (s.team (o.grid * 2 ^ 24 + o.team)).live = true →
      let count (u : State) : Int := (BitVec.ofNat 32 (little (fun i => u.winByte 1 (o.grid * 2 ^ 24 + o.team) (j + i)) 4)).toInt
      (-(2 ^ 31) : Int) ≤ count s - n → count t = count s - n) ∧
    (o.next + 1 = o.total → opGone s t k) ∧
    (o.next + 1 ≠ o.total → opNow s t k { o with next := o.next + 1, left := o.left - n }) ∧
    (∀ p, t.newest p = s.newest p) ∧ (∀ c p, t.nodeByte c p = s.nodeByte c p) ∧ registersKept s t ∧ t.quads = s.quads ∧
    sansWork t = sansWork s)

/-- R360, R256: at its turn ACCZ sets its tiles to 0; ACCLD reads the next row of its tile from team memory, and ACCST writes
it there, narrowed for .f16 and .bf16. -/
def Sys2Proof.Claims.AccumulatorPerformed : Prop := ∀ (k : Nat) (s : State) (o : EngOp), Turn s k o → noWaits s →
  let tk := o.grid * 2 ^ 24 + o.team
  let w := Fp.widthOf o.ty / 8
  let a := o.w.getD 0 0 + 2 ^ 32 * o.w.getD 1 0 + o.next * o.w.getD 2 0
  let q (u : State) : Quad := u.quad o.quadKey
  let rows (t : State) : Prop := if o.next + 1 = o.total then opGone s t k else ∃ p, opNow s t k p ∧ p.next = o.next + 1
  let fits := a + 128 * w ≤ (s.grid o.grid).launch.tmem
  FMap.wf 0 (q s).acc = true → s.eng.mcasts = [] →
  (o.kind = .accz → Gives (exec (.engineWritePerformed k) s) (fun t =>
    (∀ m ∈ tilesOf o.tile o.ty, ∀ j < 4096, (q t).acc.get 0 (m * 4096 + j) = 0) ∧
    (∀ c, (∀ m ∈ tilesOf o.tile o.ty, c / 4096 ≠ m) → (q t).acc.get 0 c = (q s).acc.get 0 c) ∧
    (∀ j, j ≠ o.quadKey → t.quad j = s.quad j) ∧ opGone s t k ∧
    { t with quads := {}, eng := {} } = { s with quads := {}, eng := {} })) ∧
  (o.kind = .accld → o.form = 1 → fits → o.obj = none → s.winBad 1 tk a (128 * w) = none → (o.ty = 3 ∨ o.ty = 0 ∨ o.ty = 11) → Gives (exec (.engineWritePerformed k) s) (fun t =>
    (∀ n < 128, element (q t) o.ty o.tile o.next n = little (fun i => s.winByte 1 tk (a + n * w + i)) w) ∧
    (∀ c, (∀ m ∈ tilesOf o.tile o.ty, ∀ n < 128, c ≠ m * 4096 + o.next * 128 + n) → (q t).acc.get 0 c = (q s).acc.get 0 c) ∧
    (∀ j, j ≠ o.quadKey → t.quad j = s.quad j) ∧ rows t ∧ registersKept s t ∧ othersKept s t)) ∧
  (o.kind = .accst → o.form = 1 → fits → o.obj = none → o.ty ≠ 14 → 0 < w → Gives (exec (.engineWritePerformed k) s) (fun t =>
    (∀ n < 128, ∀ i < w, t.winByte 1 tk (a + n * w + i) = byteAt (storedElement (q s) o.ty o.tile o.next n) i) ∧
    (∀ off, off < a ∨ a + 128 * w ≤ off → t.winByte 1 tk off = s.winByte 1 tk off) ∧
    (∀ off, a ≤ off → off < a + 128 * w → t.isFull 1 tk off = true) ∧ t.quads = s.quads ∧ rows t ∧ registersKept s t))

/-- What `CopyPerformed`, `AccumulatorPerformed` state together, R154, R170, R256, R346, R351, R352, R360. -/
def Obligations.CopyAndAccumulatorPerformed : Prop :=
  Sys2Proof.Claims.CopyPerformed ∧ Sys2Proof.Claims.AccumulatorPerformed

/-- R359, R260, R357, R203: an MMA.R whose gang has met runs over the k-blocks that are left, in ascending order: each
element of each member's tile takes a step for each of them. An operation split by an eviction goes on once all members
are resident. -/
def Obligations.MatrixPerformed : Prop := ∀ (k : Nat) (s : State) (o : EngOp) (ms : List EngOp),
  s.eng.ops.find? (fun x => x.id == k) = some o → o.members.map s.engOp = ms.map some → (s.eng.ops.map (·.id)).Nodup →
  o.members.Nodup →
  (o.started = true → o.split = false → o.members.head? = some k →
    (∀ m ∈ ms, Turn s m.id m ∧ m.form = 0 ∧ m.kdone = o.kdone ∧ m.ktotal = o.ktotal ∧ m.smode = o.smode ∧ m.smode < 3 ∧
      m.members = o.members) →
    (ms.map (·.quadKey)).Nodup → o.ktotal % kBlock o.smode = 0 → o.kdone % kBlock o.smode = 0 → o.kdone < o.ktotal → o.ktotal ≤ 8192 →
    s.mem.badWords = [] → Gives (exec (.mmaComplete k) s) (fun t =>
      (∀ m ∈ ms, ∀ h < 32, ∀ n < 128, element (t.quad m.quadKey) m.ty m.tile h n = accumulated s m ms h n) ∧
      (∀ m ∈ ms, ∀ c, c / 4096 ∉ m.tiles → (t.quad m.quadKey).acc.get 0 c = (s.quad m.quadKey).acc.get 0 c) ∧
      (∀ q, q ∉ ms.map (·.quadKey) → t.quad q = s.quad q) ∧
      (∀ x, x ∈ t.eng.ops ↔ x ∈ s.eng.ops ∧ x.id ∉ o.members) ∧
      packageKept s t ∧ registersKept s t ∧ sansWork t = sansWork s)) ∧
  (o.split = true → (∀ m ∈ ms, (s.group m.gid).status = .running) → Gives (exec (.matrixResume k) s) (fun t =>
    t.eng.ops = s.eng.ops.map (fun x => if x.id ∈ o.members then { x with split := false } else x) ∧
    { t with eng := {} } = { s with eng := {} }))

/-- R184, R185, R189, R372: a PGREQ of a page that is resident ends; a PGTIER sets RES = 2 when no commit is installing on
the page, waits until no superseded version of it is kept, and then each byte of the page is at the destination, the PTE names it with RES = 0, and
the command ends. An agent that acknowledges a SHOOT holds no covered translation. A DIGEST writes 32 bytes of the
group's. -/
def Obligations.ResidencyPerformed : Prop := ∀ (k agent : Nat) (s : State) (o : EngOp), Turn s k o →
  let l := (s.grid o.grid).launch
  let va := o.w.getD 0 0 + 2 ^ 32 * o.w.getD 1 0
  let dst := o.w.getD 2 0 + 2 ^ 32 * o.w.getD 3 0
  let range := o.w.getD 2 0 + 2 ^ 32 * o.w.getD 3 0
  let src := pteFrame o.ktotal
  let n := o.total
  let cm := pteCm o.ktotal
  let apart := (∀ i < n, ∀ j < n, s.at cm (src + i) ≠ s.at cm (dst + j)) ∧
    (∀ i < n, ∀ j < n, i ≠ j → s.at cm (src + i) ≠ s.at cm (src + j) ∧ s.at cm (dst + i) ≠ s.at cm (dst + j)) ∧
    ∀ i < n, ∀ j < 8, s.at cm (src + i) ≠ s.at 0 (o.next + j) ∧ s.at cm (dst + i) ≠ s.at 0 (o.next + j)
  (o.kind = .pgreq → o.started = false → o.obj = none → canonical va = true → va % 2 ^ 16 + range ≤ 2 ^ 16 → 0 < range →
    (∃ e, s.tlbFind o.agent l.asid va = some e ∧ pteRes e.pte = 0) →
    Gives (exec (.engineWritePerformed k) s) (fun t => opGone s t k ∧ { t with eng := {} } = { s with eng := {} })) ∧
  (o.kind = .pgtier → o.step = 0 → canonical va = true → (∀ p a sz, s.walk l.root va = .leaf p a sz → pteRes p = 0 → pteTier p < 2 →
    movable (pteFrame p) (2 ^ sz) = true → va % 2 ^ sz = 0 → dst % 2 ^ sz = 0 → movable dst (2 ^ sz) = true →
    s.pteRoom a = true → (∀ c ∈ s.mem.commits, c.installed = false) → Gives (exec (.pgtierCopy k) s) (fun t =>
      memNow s t (s.at 0 a) 8 (p ||| 2 ^ 4) ∧
      opNow s t k { o with step := 1, total := 2 ^ sz, left := 2 ^ sz, next := a, ktotal := p } ∧ registersKept s t))) ∧
  (o.kind = .pgtier → o.step = 1 → s.mem.commits = [] → s.mem.homeOps = [] → Gives (exec (.pgtierCopy k) s) (fun t =>
    (∀ j, ∀ e ∈ t.xlat.tlbs.get [] j, e.pteAddr ≠ o.next) ∧ opNow s t k { o with step := 2 } ∧ t.mem = s.mem)) ∧
  (o.kind = .pgtier → o.step = 2 → FMap.wf [] s.mem.vers = true → src % 64 = 0 → n % 64 = 0 →
    (∀ i < n, keptOf s.mem.horizon (s.versOf (s.at cm (src + i))) = []) →
    Gives (exec (.pgtierCopy k) s) (fun t => opNow s t k { o with step := 3 } ∧ { t with eng := {} } = { s with eng := {} })) ∧
  (o.kind = .pgtier → o.step = 3 → o.obj = none → FMap.wf 0 s.mem.base = true → FMap.wf [] s.mem.vers = true → FMap.wf {} s.groups = true →
    dst % n = 0 → src % n = 0 → n % 65536 = 0 → 0 < n → apart → o.next % 8 = 0 → s.pteRoom o.next = true → s.xlat.reqs = [] → (∀ x ∈ s.eng.ops, x.kind ≠ .pgreq) →
    Gives (exec (.pgtierCopy k) s) (fun t =>
      (∀ i < n, t.newest (s.at cm (dst + i)) = s.newest (s.at cm (src + i))) ∧
      (∃ p, p = little (fun i => t.newest (s.at 0 (o.next + i))) 8 ∧ pteRes p = 0 ∧ pteFrame p = dst % 2 ^ 52 ∧
        pteTier p = if tierOf dst = .hbmA then 0 else 1) ∧
      opGone s t k ∧ registersKept s t)) ∧
  (o.kind = .shoot → agent ∈ o.open_ → 2048 ≤ agent ∨ s.mem.homeOps = [] ∧ s.mem.fabric = [] ∧ s.mem.commits = [] →
    Gives (exec (.shootAck k agent) s) (fun t =>
      (∀ e ∈ t.xlat.tlbs.get [] agent, e ∈ s.xlat.tlbs.get [] agent ∧ o.covers e.asid e.va e.size = false) ∧
      (∀ e ∈ s.xlat.tlbs.get [] agent, o.covers e.asid e.va e.size = false → e ∈ t.xlat.tlbs.get [] agent) ∧
      (if ∀ x ∈ o.open_, x = agent then opGone s t k else opNow s t k { o with open_ := o.open_.filter (· != agent) }) ∧
      (∀ j, j ≠ agent → t.xlat.tlbs.get [] j = s.xlat.tlbs.get [] j) ∧ t.mem = s.mem ∧ t.groups = s.groups)) ∧
  (∀ pa cm dp dm, o.kind = .digest → o.dmode = 0 → o.obj = none → 0 < range → va % 2 ^ 16 + range ≤ 2 ^ 16 →
    let dest := o.w.getD 5 0 + 2 ^ 32 * o.w.getD 6 0
    dest % 32 = 0 → steadily s o.agent l.root l.asid .load va pa cm → goodLine s pa cm range → unwatched s → s.mem.commits = [] →
    (∀ u : State, u.xlat = s.xlat → u.host.secure = s.host.secure → (∀ i, i < 0x18000 ∨ 0x18000 + 0x20 * 544 ≤ i → u.reg i = s.reg i) →
      steadily u o.agent l.root l.asid .store dest dp dm) →
    let text := (List.range range).map (fun i => s.loadByte (s.group o.gid) o.cut (va + i) (s.at cm (pa + i)))
    Gives (exec (.engineWritePerformed k) s) (fun t =>
      (∀ i < 32, (t.group o.gid).unpub.get none (dest + i) = some ((Sha.sha256 text).getD i 0)) ∧
      (∀ p, (p < dest ∨ dest + 32 ≤ p) → (t.group o.gid).unpub.get none p = (s.group o.gid).unpub.get none p) ∧
      opGone s t k ∧ packageKept s t ∧ registersKept s t))

/-- R366, R369: at its turn a unit of a RESHARD, one run here, is committed at its destination under one stamp; when it is
the next unit, NEXT of the progress record moves past it. -/
def Obligations.ReshardPerformed : Prop := ∀ (k a va n pa cm dp dm : Nat) (s : State) (o : EngOp) (u : ReUnit), Turn s k o →
  let l := (s.grid o.grid).launch
  let d (i : Nat) : Nat := s.at dm (dp + i)
  let r (i : Nat) : Nat := s.at cm (pa + i)
  o.kind = .reshard → o.started = true → o.open_ = [] → o.next + 1 < o.total → o.plan.getD o.next {} = u → u.pull = false →
  (u.space = 1 ∨ u.space = 2) → u.runs = [(a, va, n)] → 0 < n → va % 2 ^ 16 + n ≤ 2 ^ 16 → o.ktotal % 64 = 0 →
  s.winBad u.space u.place a n = none →
  steadily s 4097 l.root l.asid .store va dp dm → steadily s 4097 l.root l.asid .atomic o.ktotal pa cm →
  s.retentionOk ((List.range n).map (fun i => (d i, 0)) ++ (List.range 64).map (fun i => (r i, 0))) = true →
  (∀ i < n, ∀ j < 64, d i ≠ r j) → (∀ i < n, ∀ j < n, i ≠ j → d i ≠ d j) →
  Gives (exec (.reshardUnitCommit k o.next [] 0) s) (fun t =>
    (∀ i < n, t.newest (d i) = s.winByte u.space u.place (a + i)) ∧
    (∃ stamp, ∀ i < n, ∃ v w, t.versOf (d i) = v :: w ∧ v.stamp = stamp) ∧
    little (fun i => t.newest (r i)) 8 = (o.w.getD 0 0 + 2 ^ 32 * o.w.getD 1 0) % 2 ^ 64 ∧
    little (fun i => t.newest (r (8 + i))) 8 = (o.next + 1) % 2 ^ 64 ∧
    little (fun i => t.newest (r (16 + i))) 8 = o.total % 2 ^ 64 ∧ t.newest (r 24) = 0 ∧
    (∀ p, (∀ i < n, p ≠ d i) → (∀ i < 64, p ≠ r i) → t.newest p = s.newest p) ∧
    opNow s t k { o with next := o.next + 1, open_ := [] } ∧ registersKept s t ∧ othersKept s t)

/-! ## Grids, teams and groups as they come and go (05, 06, 10) -/

namespace Sys2Proof.Claims

/-- A failed slot is in MBOXERR, and vector 1 is raised; or OVF says that an earlier failure is still there (R65). -/
def mboxFailed (s t : State) (slot status code : Nat) : Prop :=
  if regBit s 0x18 16 then bitsNow s t 0x18 [(17, true)] ∧ t.host.msix = s.host.msix
  else t.reg 0x18 = slot + status * 2 ^ 8 + 2 ^ 16 + (regBit s 0x18 17).toNat * 2 ^ 17 + code * 2 ^ 24 ∧
    Raised s t 1

/-- The record in a mailbox slot, and its granules (R65, R73). -/
def slotRecord (s : State) (slot : Nat) : Nat := little (fun k => s.mem.scratch.get 0 (window s + 128 * slot + k)) 128
def slotGranule (s : State) (slot k : Nat) : Nat := (window s + 128 * slot) / 16 + k

/-- Group j of team `idx` of grid k as it starts: every lane at its role's entry, s0 and s1 holding ARGS (R75). -/
def Started (g : Group) (l : Launch) (k idx j die core slot cut : Nat) : Prop :=
  g.status = .running ∧ g.grid = k ∧ g.team = idx ∧ g.num = j ∧ g.die = die ∧ g.core = core ∧ g.slot = slot ∧ g.cut = cut ∧
  (∃ x, g.subs = [x] ∧ x.lanes = Mask.full ∧ x.pc = (l.entry + 4 * roleOff (l.role j)) % 2 ^ 64) ∧
  (g.sreg 0).toNat + 2 ^ 32 * (g.sreg 1).toNat = l.args % 2 ^ 64 ∧ (∀ r, 2 ≤ r → g.sreg r = 0) ∧ g.v = {} ∧ g.p = {} ∧ g.q = {} ∧
  g.budget = roleBlocks (l.role j) ∧ g.sliced = roleSliced (l.role j)

/-- Nothing keeps a draining group: no freeze, no debugger hold, no posted store, no command that R90 names. -/
def leaves (s : State) (gid : Nat) : Prop :=
  (s.group gid).status = .draining ∧ (s.group gid).held = false ∧ (s.group gid).halted = false ∧ (s.group gid).posted = 0 ∧
  ∀ o ∈ s.eng.ops, o.gid = gid → o.kind = .mma ∨ o.kind = .mres ∨ o.kind = .accz

/-- Grid k completes with a status, and its vector is raised (R76). -/
def Completed (s t : State) (k code : Nat) : Prop :=
  (t.grid k).status = .done ∧ (t.grid k).code = code ∧
  ((s.grid k).launch.msiv = 0 → t.host.msix = s.host.msix) ∧
  (0 < (s.grid k).launch.msiv → (s.grid k).launch.msiv < 64 → Raised s t (s.grid k).launch.msiv)

/-- A subgroup in the middle of an instruction that a commit or an operation at a home still has to end. -/
def midway (x : Sub) : Prop :=
  x.stage ≠ 0 ∧ (x.wait = .none ∨ ∃ n, x.wait = .commit n ∨ x.wait = .writes n ∨ x.wait = .homeOp n)

/-- A grid that neither stops nor waits to write its record. -/
def Going (s : State) (k : Nat) : Prop :=
  (s.grid k).status = .running ∧ (s.grid k).stopping = false ∧ (s.grid k).ending = none ∧
  ∀ g, (s.group g).status ≠ .gone → (s.group g).grid = k → (s.team (k * 2 ^ 24 + (s.group g).team)).grid = k

/-- Every group of a grid stops at an instruction boundary: one in the middle of an instruction of an unsteered grid goes on
to its end, others drain, and groups without a slot are gone. The grid completes with the status once no group is left. Groups
of other grids are as before. -/
def gridStopped (s t : State) (k code : Nat) : Prop :=
  let mid (g : Nat) : Prop := (s.grid k).launch.mode ≠ 2 ∧ ∃ x ∈ (s.group g).subs, midway x
  (∀ g, (s.group g).grid = k →
    (((s.group g).status = .running ∧ ¬ mid g) ∨ (s.group g).status = .draining → (t.group g).status = .draining) ∧
    ((s.group g).status = .running → mid g → (t.group g).status = .running ∧ ∀ x ∈ (t.group g).subs, midway x) ∧
    ((s.group g).status = .gone ∨ (s.group g).status = .evicted ∨ (s.group g).status = .migrating → (t.group g).status = .gone)) ∧
  (∀ g, (s.group g).grid ≠ k → t.group g = s.group g) ∧
  ((∃ g, (t.group g).grid = k ∧ (t.group g).status ≠ .gone) →
    (t.grid k).status = .running ∧ (t.grid k).stopping = true ∧ (t.grid k).code = code) ∧
  ((∀ g, (t.group g).grid = k → (t.group g).status = .gone) → (s.grid k).launch.doneaddr = 0 →
    (t.grid k).status = .done ∧ (t.grid k).code = code)

end Sys2Proof.Claims

/-- R65, R77, R78, R75, R80: the lowest full slot is taken when the store has room: its granules and its MBOXFULL bit clear, and
its record enters the store, or MBOXERR says why not; a frozen launch unit takes none. The one launch that is ready, of an
unphased grid, has a team that is not yet placed, which one the spec leaves open (log 24), placed on a core that admits it: team
memory is empty, and every group starts in its slot. -/
def Sys2Proof.Claims.LaunchEventResult : Prop := ∀ (slot k die core : Nat) (slots : List Nat) (s : State),
  let v := slotRecord s slot
  let code := s.launchCode v
  let full := ∀ j < 8, s.mem.sfull.get false (slotGranule s slot j) = true
  let cleared (t : State) : Prop := (∀ j < 8, t.mem.sfull.get false (slotGranule s slot j) = false) ∧
    (∀ n < 256, t.mboxFull n = true ↔ s.mboxFull n = true ∧ n ≠ slot) ∧
    (∀ g, (∀ j < 8, g ≠ slotGranule s slot j) → t.mem.sfull.get false g = s.mem.sfull.get false g) ∧
    t.mem.scratch = s.mem.scratch ∧ t.groups = s.groups
  let gr := s.grid k
  let l := gr.launch
  let cut := if gr.started then gr.cut else s.clock
  let left (i : Nat) : Prop := i < l.teams ∧ (s.team (k * 2 ^ 24 + i)).live = false ∧ (s.team (k * 2 ^ 24 + i)).retired = false ∧
    (s.team (k * 2 ^ 24 + i)).stopped = false
  let unfrozen := s.isFrozen 8195 = false
  (unfrozen → slot < 256 → s.mboxFull slot = true → (∀ n < slot, s.mboxFull n = false) →
    (s.grids.cells.filter (fun c => c.2.inStore)).length < 4096 → Gives (exec (.slotTake slot) s) (fun t => cleared t ∧
      (¬ full → mboxFailed s t slot 1 0 ∧ t.grids = s.grids) ∧
      (full → code ≠ 0 → mboxFailed s t slot 2 code ∧ t.grids = s.grids) ∧
      (full → code = 0 → (t.grid s.nextId).status = .stored ∧ (t.grid s.nextId).inStore = true ∧
        (t.grid s.nextId).launch = parseLaunch v ∧ ∀ j, j ≠ s.nextId → t.grid j = s.grid j))) ∧
  (¬ unfrozen → exec (.slotTake slot) s = .next s) ∧
  (s.queueOrder = [k] → l.mode = 0 → (∃ i, left i) → (∀ c ∈ s.teams.cells, c.2.out = false) → die < 8 → core < 256 →
    s.admits l die core = some slots → Gives (exec (.teamDispatch k die core) s) (fun t => ∃ i, left i ∧
      (∀ j < l.groups, Started (t.group (s.nextId + j)) l k i j die core (slots.getD j 0) cut) ∧
      (∀ g, (g < s.nextId ∨ s.nextId + l.groups ≤ g) → t.group g = s.group g) ∧
      (t.team (k * 2 ^ 24 + i)).live = true ∧ (t.team (k * 2 ^ 24 + i)).tmem = {} ∧
      (t.team (k * 2 ^ 24 + i)).gids = (List.range l.groups).map (s.nextId + ·) ∧
      (t.grid k).status = .running ∧ (t.grid k).next = gr.next + 1 ∧ (t.grid k).cut = cut ∧
      (∀ j, j ≠ k → t.grid j = s.grid j) ∧ t.mem = s.mem))

/-- R90, R213, R76: a draining group that nothing keeps leaves its slot; the last of its team retires the team, unless the
team was stopped, and frees its memory; the last team completes the grid, with status 0 if nothing stopped it, and so does the
last group of a grid that stops. A group that something keeps stays; one of a grid that stops drains once it is at the end of
its instruction. An aborted grid stops with status 3. -/
def Sys2Proof.Claims.GroupLeavesResult : Prop := ∀ (gid k : Nat) (s : State),
  let g := s.group gid
  let tk := g.grid * 2 ^ 24 + g.team
  let tm := s.team tk
  let last := ∀ j ∈ tm.gids, j = gid ∨ (s.group j).status = .gone
  let gr := s.grid g.grid
  let ends := if gr.stopping then ∀ j, j ≠ gid → (s.group j).grid = g.grid → (s.group j).status = .gone
    else gr.retired + (if tm.stopped then 0 else 1) = gr.launch.teams
  FMap.wf {} s.groups = true →
  (leaves s gid → gid ∈ tm.gids → tm.grid = g.grid → Gives (exec (.groupDrainEnd gid) s) (fun t =>
    (t.group gid).status = .gone ∧ (∀ j, j ≠ gid → t.group j = s.group j) ∧
    (¬ last → t.teams = s.teams ∧ t.grids = s.grids) ∧
    (last → (t.team tk).retired = !tm.stopped ∧ (t.team tk).live = false ∧ (t.team tk).tmem = {} ∧
      (∀ j, j ≠ tk → t.team j = s.team j) ∧
      (gr.ending = none → ¬ ends → (t.grid g.grid).retired = gr.retired + (if tm.stopped then 0 else 1) ∧
        (t.grid g.grid).status = gr.status) ∧
      (gr.ending = none → ends → gr.launch.doneaddr = 0 → Completed s t g.grid gr.code)))) ∧
  (¬ leaves s gid → ¬ (gr.stopping = true ∧ g.status = .running) → exec (.groupDrainEnd gid) s = .next s) ∧
  (gr.stopping = true → g.status = .running → (∀ x ∈ g.subs, ¬ midway x) → Gives (exec (.groupDrainEnd gid) s) (fun t =>
    (t.group gid).status = .draining ∧ (t.group gid).stopped = true ∧ (∀ j, j ≠ gid → t.group j = s.group j) ∧
    t.grids = s.grids)) ∧
  (Going s k → s.net.bufs = [] → Gives (exec (.gridAbort k) s) (fun t => gridStopped s t k 3))

/-- What `LaunchEventResult`, `GroupLeavesResult` state together, R65, R75, R76, R77, R78, R80, R90, R213. -/
def Obligations.LaunchAndDrainEvents : Prop := Sys2Proof.Claims.LaunchEventResult ∧ Sys2Proof.Claims.GroupLeavesResult

/-- R88, R89, R129, R198, R200: a group at a blocking point, of a team with another group in its slot, is evicted: its image in region
B holds MAGIC, its scalar and its vector registers. It returns to a free slot of its quadrant that has the blocks, with what it
had, and with the blocks for which it waited. -/
def Obligations.EvictionResult : Prop := ∀ (gid slot : Nat) (s : State),
  let g := s.group gid
  let tk := g.grid * 2 ^ 24 + g.team
  let wanted := match g.wake with
    | some w => (match w.cond with | .blocks n => max n g.budget | _ => g.budget)
    | none => g.budget
  (s.canEvict gid = true → g.image = 0 → (∃ j ∈ (s.team tk).gids, j ≠ gid ∧ (s.group j).status ≠ .gone ∧ (s.group j).status ≠ .evicted) →
    (∀ o ∈ s.eng.ops, o.gid ≠ gid) → (∀ l < 128, (g.joins.get [] l).length ≤ 8) → Gives (exec (.mgmtEvict gid) s) (fun t =>
      let h := t.group gid
      h.status = .evicted ∧ h.image % 2 ^ 16 = 0 ∧ tierOf h.image = .hbmB ∧
      little (fun i => t.newest (h.image + i)) 4 = 0x47493950 ∧
      (∀ r < 64, little (fun i => t.newest (h.image + 0x600 + 4 * r + i)) 4 = (g.sreg r).toNat) ∧
      (∀ r < 64, ∀ l < 128, little (fun i => t.newest (h.image + 0x7000 + 512 * r + 4 * l + i)) 4 = ((g.vreg r).get l).toNat) ∧
      (∀ a, (a < h.image ∨ h.image + 0x20000 ≤ a) → FMap.wf 0 s.mem.base = true → FMap.wf [] s.mem.vers = true → t.newest a = s.newest a) ∧
      h.cut = g.cut ∧ h.holds = g.holds ∧ h.spec = g.spec ∧ h.nameIdx = g.nameIdx ∧ registersKept s t ∧ othersKept s t ∧
      (∀ j, j ≠ gid → t.group j = s.group j))) ∧
  (s.canEvict gid = false → exec (.mgmtEvict gid) s = .next s) ∧
  (g.status = .evicted → (s.team tk).out = false → slot < 64 → slot / 16 = g.num % 4 →
    (∀ j ∈ s.resident g.coreKey, (s.group j).slot ≠ slot) → wanted ≤ s.poolFree (partKey g.die g.core slot) →
    Gives (exec (.groupRestore gid g.die g.core slot) s) (fun t =>
      let h := t.group gid
      h.status = .running ∧ h.slot = slot ∧ h.image = 0 ∧ h.cut = g.cut ∧ h.holds = g.holds ∧ h.wake = g.wake ∧
      h.subs.map (fun x => (x.lanes, x.pc)) = g.subs.map (fun x => (x.lanes, x.pc)) ∧ h.unpub = g.unpub ∧
      h.budget = wanted ∧ h.placedAt = s.clock ∧ (wanted = g.budget → registersKept s t) ∧ (∀ r, h.sreg r = g.sreg r) ∧ (∀ j, j ≠ gid → t.group j = s.group j) ∧ t.mem = s.mem)) ∧
  (g.status = .migrating → s.eng.deliveries = [] → s.teamGids tk = [gid] → wanted = g.budget →
    Gives (exec (.groupRestore gid 0 0 slot) s) (fun t =>
      (t.group gid).status = .running ∧ (t.group gid).slot = g.slot ∧ registersKept s t ∧ t.mem = s.mem))

/-- R101, R103, R104, R110, R161, R216, R217: at the quiescence of a steered grid, a cut that waits alone at its site is
performed at the next logical clock and the next round starts; with nothing to perform, place or wake, the run is stuck:
status 1, and STUCK. A grid that is not quiescent goes on. The horizon becomes the least open cut. A build of the wait-for
graph that finds no cycle reports none; a cycle whose groups have retired nothing since the last build, and which no build
has reported, is counted and raises vector 0. -/
def Obligations.RoundResult : Prop := ∀ (k : Nat) (s : State) (o : SiteOp) (c : List (WNode × Nat)),
  let gr := s.grid k
  let calm := FMap.wf {} s.groups = true ∧ gr.launch.mode = 2 ∧ Going s k ∧ s.isFrozen 8195 = false ∧ gr.steer.resolving = false ∧ s.quiescent k = true ∧
    s.mem.feWaits = [] ∧ gr.launch.teams ≤ gr.next ∧ (∀ g, (s.group g).grid = k → (s.group g).status ≠ .draining ∧ (s.group g).wake = none)
  let still := ∀ x ∈ c, s.host.retiredThen.get 0 x.1.1 = (s.group x.1.1).retired + 1
  let count := obs 0 + 0x200
  (calm → gr.steer.ops = [o] → o.kind = 3 → o.cls = 2 → o.gid ≠ 0 → (s.group o.gid).status = .running → (s.group o.gid).grid = k →
    Gives (exec (.roundEnd k) s) (fun t =>
      (t.group o.gid).cut = s.clock + 1 ∧ (t.group o.gid).lcut = gr.steer.lclock + 1 ∧ (t.grid k).steer.lclock = gr.steer.lclock + 1 ∧
      (t.grid k).steer.round = gr.steer.round + 1 ∧ (t.grid k).steer.ops = [] ∧ (t.grid k).steer.choice = gr.steer.choice ∧
      (∀ j, j ≠ o.gid → t.group j = s.group j) ∧ (∀ j, j ≠ k → t.grid j = s.grid j) ∧ registersKept s t ∧ t.mem = s.mem)) ∧
  (calm → gr.steer.ops = [] → s.cycles = [] → Gives (exec (.roundEnd k) s) (fun t =>
    gridStopped s t k 1 ∧ (t.grid k).flags / 2 % 2 = 1)) ∧
  (gr.steer.resolving = false → s.quiescent k = false → exec (.roundEnd k) s = .next s) ∧
  ((∀ x ∈ s.grids.cells, x.2.ending = none) → Gives (exec .horizonRecompute s) (fun t =>
    (∀ x ∈ s.openCuts, t.mem.horizon ≤ x) ∧ (t.mem.horizon = s.clock ∨ t.mem.horizon ∈ s.openCuts) ∧
    (FMap.wf [] s.mem.vers = true → ∀ a, t.newest a = s.newest a) ∧
    { t with mem := {} } = { s with mem := {} } ∧ t.mem.base = s.mem.base)) ∧
  (s.cycles = [] → Gives (exec .waitforBuild s) (fun t =>
    t.host.msix = s.host.msix ∧ BarKept s t (fun _ => False) ∧ (∀ g ∈ s.gids, (g, (s.group g).retired + 1) ∈ t.host.retiredThen.cells) ∧
    { t with host := {} } = { s with host := {} })) ∧
  (s.cycles = [c] → still → c.map (·.1) ∉ s.host.deadlocks → Gives (exec .waitforBuild s) (fun t =>
    t.reg count = (s.reg count + 1) % 2 ^ 64 ∧ Raised s t 0 ∧ c.map (·.1) ∈ t.host.deadlocks ∧
    BarKept s t (fun a => a = count ∨ a = 0x1800 ∨ (obs 0 + 0x1000 ≤ a ∧ a < obs 0 + 0x1400)) ∧ { t with host := {} } = { s with host := {} })) ∧
  (s.cycles = [c] → ¬ still → Gives (exec .waitforBuild s) (fun t =>
    t.host.msix = s.host.msix ∧ BarKept s t (fun _ => False) ∧ { t with host := {} } = { s with host := {} }))

/-! ## Upkeep, paging and boot (01, 04, 09) -/

namespace Sys2Proof.Claims

/-- The duty value D of a quadrant (R21). -/
def D (s : State) (qk : Nat) : Nat := 16 - (s.quad qk).duty

/-- A memory controller's bad-line table (R25). -/
def badTable (s : State) (c : Nat) : List Nat := s.mem.badTable.get [] c

/-- The address of a line enters the table of its controller c, and the management complex is told; a full table takes the
package offline. -/
structure BadEntered (s t : State) (line c : Nat) : Prop where
  told : t.host.told = s.host.told ++ [line * 64]
  offline : t.offline = true ↔ s.offline = true ∨ (line ∉ badTable s c ∧ 64 ≤ (badTable s c).length)
  entered : badTable t c = if line ∉ badTable s c ∧ (badTable s c).length < 64 then badTable s c ++ [line] else badTable s c
  others : ∀ j, j ≠ c → badTable t j = badTable s j
  rest : t = { s with offline := t.offline, host := { s.host with told := t.host.told },
                      mem := { s.mem with badTable := t.mem.badTable } }

/-- A line without its dirty mark. -/
def cleaned (s : State) (line : Nat) : State := { s with mem := { s.mem with dirty := s.mem.dirty.filter (· != line) } }

/-- What the page-in queue of a die answers with: the request, or 0 (R182). -/
def pinqWord (r : PageReq) : Nat := 2 ^ 63 + r.kind * 2 ^ 62 + r.page * 2 ^ 16 + r.asid
def answered (v : Nat) : HostReply := .data ((List.range 8).map (byteAt v))

/-- Requests name distinct pages, and none of this die waits for room. -/
def pagesOk (s : State) (die : Nat) : Prop :=
  (s.xlat.reqs.map (fun r => (r.asid, r.page))).Nodup ∧ ∀ r ∈ s.xlat.reqs, r.die = die → r.stage ≠ 0

/-- A group's wait names a page. -/
def waitsPage (s : State) (gid asid page : Nat) : Prop :=
  ∃ w ps, (s.group gid).wake = some w ∧ w.cond = .page asid ps ∧ page ∈ ps

/-- The wait of a group's A-slice names a page. -/
def sliceWaitsPage (s : State) (gid asid page : Nat) : Prop := ∃ ps, (s.group gid).a.wait = .page asid ps ∧ page ∈ ps

/-- A page-in has ended: its request is no more, and each slice that waited walks again, or faults (R183). -/
structure PageEnded (s t : State) (asid page : Nat) (fail : Bool) : Prop where
  gone : ∀ r, r ∈ t.xlat.reqs ↔ r ∈ s.xlat.reqs ∧ ¬ (r.asid = asid ∧ r.page = page)
  failed : fail = true → ∀ gid, (s.group gid).status ≠ .gone → waitsPage s gid asid page → (gid, asid, page) ∈ t.xlat.failed
  sliceFailed : fail = true → ∀ gid, (s.group gid).status ≠ .gone → sliceWaitsPage s gid asid page →
    (gid + 2 ^ 61, asid, page) ∈ t.xlat.failed
  again : fail = false → t.xlat.failed = s.xlat.failed
  rest : t = { s with xlat := { s.xlat with reqs := t.xlat.reqs, failed := t.xlat.failed } }

/-- The code of the first check of a firmware image that fails: digest, signature, key, version (R67). An image that is no
image, or has a reserved byte that is not zero, counts as one whose digest is wrong (log 31). -/
def imageFault (b : Boot) (img : List Byte) : Nat :=
  let f (at_ : Nat) : Nat := little (fun k => img.getD (at_ + k) 0) 4
  let part (at_ n : Nat) : List Byte := (img.drop at_).take n
  if f 0 = 0x39504857 ∧ (List.range 84).all (fun k => img.getD (172 + k) 0 == 0) = true ∧ 256 + f 8 ≤ img.length ∧ Sha.sha256 (part 256 (f 8)) = part 12 32 then
    (if P256.verify (bigNat (part 108 64)) (bigNat (Sha.sha256 (part 0 44))) (bigNat (part 44 64)) = true then
      (if bigNat (Sha.sha256 (part 108 64)) = b.roothash then (if b.minver ≤ f 4 then 0 else 4) else 3) else 2) else 1

/-- Boot is at a stage, with an image and a status, and vector 0 was raised where `told`. -/
def atStage (s t : State) (stage image status : Nat) (told : Bool) : Prop :=
  t.reg 8 = stage + image * 2 ^ 4 + status * 2 ^ 8 ∧ (told = true → Raised s t 0) ∧ (told = false → t.host.msix = s.host.msix)

end Sys2Proof.Claims

/-- R20, R21, R23, R24, R25, R189: at the end of a power window each quadrant's duty value falls by 2 if its energy is over its
share, rises by 2 if it is below, and else stays, between 4 and 16. A die that is too hot has the package's power removed.
The scrubber corrects a line, and the address of a line with uncorrectable data enters its controller's table, as at a
write-back. A core that holds no group is gated and its TLBs are flushed. -/
def Obligations.UpkeepResult : Prop := ∀ (other die line core c : Nat) (energy : List (Nat × Nat)) (s : State),
  let prev := s.host.otherPrev
  let limit := s.host.plimit
  Gives (exec (.powerWindowEnd other energy) s) (fun t =>
    (∀ qk < 8192, ∀ e, (energy.find? (fun x => x.1 == qk) = some (qk, e) ∨ ((∀ x ∈ energy, x.1 ≠ qk) ∧ e = 0)) →
      (s.quad qk).duty ≤ 12 →
      D t qk = if limit < e * 8192 + prev then max (D s qk - 2) 4 else if e * 8192 + prev = limit then D s qk
        else min (D s qk + 2) 16) ∧
    (∀ qk, t.quad qk = { s.quad qk with duty := (t.quad qk).duty }) ∧ t.host.otherPrev = other ∧
    t = { s with quads := t.quads, host := { s.host with otherPrev := other } }) ∧
  exec (.overtemp die) s = .next { s with powered := false } ∧
  (channelOf (line * 64) = some c →
    (s.badByte (line * 64) = true → Gives (exec (.scrubLine line) s) (fun t => BadEntered s t line c)) ∧
    (s.badByte (line * 64) = false → line ∈ s.mem.weakLines → Gives (exec (.scrubLine line) s) (fun t =>
      line ∉ t.mem.weakLines ∧ (∀ l, l ≠ line → (l ∈ t.mem.weakLines ↔ l ∈ s.mem.weakLines)) ∧
      (∀ j, t.mem.corrected.get 0 j = s.mem.corrected.get 0 j + (if j = c then 1 else 0)) ∧
      t.mem.lastCorrected.get 0 c = line * 64 ∧
      t = { s with mem := { s.mem with weakLines := t.mem.weakLines, corrected := t.mem.corrected, lastCorrected := t.mem.lastCorrected } })) ∧
    (line ∈ s.mem.dirty → s.badByte (line * 64) = true → Gives (exec (.dirtyLineWriteBack line) s) (fun t =>
      BadEntered (cleaned s line) t line c))) ∧
  (s.badByte (line * 64) = false → line ∉ s.mem.weakLines → exec (.scrubLine line) s = .next s) ∧
  (line ∈ s.mem.dirty → s.badByte (line * 64) = false → exec (.dirtyLineWriteBack line) s = .next (cleaned s line)) ∧
  (line ∉ s.mem.dirty → exec (.dirtyLineWriteBack line) s = .next s) ∧
  (s.resident core = [] → Gives (exec (.corePowerGating core true) s) (fun t =>
    (∀ k, k ∈ t.xlat.gated ↔ k ∈ s.xlat.gated ∨ k = core) ∧
    (∀ k, t.xlat.tlbs.get [] k = if k = core ∨ k = 2048 + core then [] else s.xlat.tlbs.get [] k) ∧
    t = { s with xlat := { s.xlat with gated := t.xlat.gated, tlbs := t.xlat.tlbs } })) ∧
  (s.resident core ≠ [] → exec (.corePowerGating core true) s = .next s) ∧
  Gives (exec (.corePowerGating core false) s) (fun t =>
    (∀ k, k ∈ t.xlat.gated ↔ k ∈ s.xlat.gated ∧ k ≠ core) ∧ t = { s with xlat := { s.xlat with gated := t.xlat.gated } })

/-- R186, R187: while it is on and its queue is below the watermark, the sweeper visits the next entry of its die's frame table.
An entry that is unused or pinned, has a reserved bit set, or whose PTE is not a resident 64 KiB leaf of this frame, is skipped; an accessed
one has A cleared and its translation dropped; any other frame enters the cold queue, once. A read of COLDQ pops a frame.
Entry i of a die describes the frame at die × 2^36 + i × 65536 (log 28, the model's choice), and a PTE is that of a larger page
where its place in a table or a TLB says so (log 95, the model's choice). -/
def Sys2Proof.Claims.SweepResult : Prop := ∀ (die : Nat) (s : State),
  let c := s.reg (0x30018 + 0x1000 * die)
  let cold (u : State) : List Nat := u.xlat.coldq.get [] die
  let i := s.xlat.sweep.get 0 die
  let e := little (fun k => s.newest (s.at 0 (s.reg (0x30010 + 0x1000 * die) / 2 ^ 16 % 2 ^ 36 * 65536 + 8 * i) + k)) 8
  let a := e / 2 ^ 3 % 2 ^ 49 * 8
  let p := little (fun k => s.newest (s.at 0 a + k)) 8
  let on := c / 2 ^ 16 % 2 = 1 ∧ (cold s).length < min (c % 2 ^ 16) 8192
  let here := e % 2 = 1 ∧ e / 2 % 2 ^ 2 = 0 ∧ e / 2 ^ 52 = 0 ∧ a % 2 ^ 16 < 4096 ∧
    (∀ x ∈ s.xlat.tlbs.cells, ∀ y ∈ x.2, y.pteAddr = a → y.size = 16) ∧ pteV p = true ∧ pteLeaf p = true ∧ badLeaf 0 p = false ∧ pteRes p = 0 ∧
    pteFrame p = die * 2 ^ 36 + i * 65536
  let step (t : State) : Prop := t.xlat.sweep.get 0 die = (i + 1) % 2 ^ 20 ∧ ∀ d, d ≠ die → t.xlat.sweep.get 0 d = s.xlat.sweep.get 0 d
  (¬ on → exec (.sweepVisit die) s = .next s) ∧
  (on → Gives (exec (.sweepVisit die) s) (fun t => step t ∧
    (¬ here → t = { s with xlat := { s.xlat with sweep := t.xlat.sweep } }) ∧
    (here → p / 2 ^ 11 % 2 = 1 → memNow s t (s.at 0 a) 8 (p - 2 ^ 11) ∧
      (∀ j, ∀ x ∈ t.xlat.tlbs.get [] j, x.pteAddr ≠ a) ∧
      (FMap.wf [] s.xlat.tlbs = true → ∀ j x, x.pteAddr ≠ a → (x ∈ t.xlat.tlbs.get [] j ↔ x ∈ s.xlat.tlbs.get [] j)) ∧
      t.xlat = { s.xlat with sweep := t.xlat.sweep, tlbs := t.xlat.tlbs } ∧ sansXlat t = sansXlat s) ∧
    (here → p / 2 ^ 11 % 2 = 0 → cold t = (if i ∈ cold s then cold s else cold s ++ [i]) ∧
      (∀ d, d ≠ die → t.xlat.coldq.get [] d = s.xlat.coldq.get [] d) ∧
      t = { s with xlat := { s.xlat with sweep := t.xlat.sweep, coldq := t.xlat.coldq } }))) ∧
  (cold s = [] ∨ recovering s → exec (.coldqRead die) s = .next (replied s (answered 0))) ∧
  (∀ f r, ¬ recovering s → cold s = f :: r → Gives (exec (.coldqRead die) s) (fun t => cold t = r ∧
    (∀ d, d ≠ die → t.xlat.coldq.get [] d = s.xlat.coldq.get [] d) ∧
    t = { replied s (answered (2 ^ 63 + f)) with xlat := { s.xlat with coldq := t.xlat.coldq } }))

/-- R182, R183: a read of PINQ pops the oldest request of the die that was not delegated when it was entered, or answers 0. PINDONE ends
the page-in that it names: the groups that wait for the page walk again, or, with FAIL, fault; with no waiter it has no effect.
A delegated address space is serviced the same way, without PINQ. -/
def Sys2Proof.Claims.PagingResult : Prop := ∀ (die asid page : Nat) (fail on : Bool) (v : DWord) (s : State),
  let open_ (r : PageReq) : Bool := r.die == die && r.stage == 1 && !r.dele
  ((∀ r ∈ s.xlat.reqs, open_ r = false) ∨ recovering s → exec (.pinqRead die) s = .next (replied s (answered 0))) ∧
  (∀ r, ¬ recovering s → s.xlat.reqs.find? open_ = some r → pagesOk s die → Gives (exec (.pinqRead die) s) (fun t =>
    (∀ x, x ∈ t.xlat.reqs ↔ (x ∈ s.xlat.reqs ∧ x ≠ r) ∨ x = { r with stage := 2 }) ∧
    t = { replied s (answered (pinqWord r)) with xlat := { s.xlat with reqs := t.xlat.reqs } })) ∧
  (asid = v.toNat % 2 ^ 16 → page = v.toNat / 2 ^ 16 % 2 ^ 40 → fail = v.getLsbD 63 → (∀ o ∈ s.eng.ops, o.kind ≠ .pgreq) →
    FMap.wf {} s.groups = true →
    (∀ r ∈ s.xlat.reqs, r.asid = asid → r.page = page → pagesOk s r.die →
      (¬ recovering s → Gives (exec (.pindoneWrite die v) s) (fun t => PageEnded s t asid page fail)) ∧
      (asid ∈ s.xlat.delegated → Gives (exec (.delegatedPageInServiced asid page fail) s) (fun t => PageEnded s t asid page fail))) ∧
    ((∀ r ∈ s.xlat.reqs, ¬ (r.asid = asid ∧ r.page = page)) ∨ recovering s → exec (.pindoneWrite die v) s = .next s)) ∧
  (asid ∉ s.xlat.delegated → exec (.delegatedPageInServiced asid page fail) s = .next s) ∧
  Gives (exec (.pagingDelegation asid on) s) (fun t =>
    (∀ x, x ∈ t.xlat.delegated ↔ (x = asid ∧ on = true) ∨ (x ≠ asid ∧ x ∈ s.xlat.delegated)) ∧
    t = { s with xlat := { s.xlat with delegated := t.xlat.delegated } })

/-- What `SweepResult`, `PagingResult` state together, R182, R183, R186, R187. -/
def Obligations.SweepAndPagingEvents : Prop := Sys2Proof.Claims.SweepResult ∧ Sys2Proof.Claims.PagingResult

/-- R66, R67, R69, R56, R150, R16: boot goes from stage 1 to 2 with the primary image, or else the backup, that passes its checks, or
stays in recovery with the status of the backup's; then to stages 3 and 4, raising vector 0 at each. The end of die
initialisation leaves one region entry, over region B, no engine key, empty scratch, and the retention share of the firmware. A power-on reset leaves the machine as reset
says, at stage 1; host memory, the nodes, the flash, the fuses and the pod are outside it (log 32, log 33). -/
def Obligations.BootResult : Prop := ∀ (port kind : Nat) (l : List Byte) (s : State),
  let b := s.host.boot
  let image := s.reg 8 / 2 ^ 4 % 2 ^ 4
  let z : State := State.reset
  FMap.wf none s.host.bar0 = true →
  (stage s = 1 →
    (imageFault b b.primary = 0 → Gives (exec .bootStageChange s) (fun t => atStage s t 2 0 0 true ∧
      t.host.boot = { b with running := b.primary } ∧ BarKept s t (fun o => o = 8 ∨ o = 0x1800))) ∧
    (imageFault b b.primary ≠ 0 → imageFault b b.backup = 0 → Gives (exec .bootStageChange s) (fun t => atStage s t 2 1 0 true ∧
      t.host.boot = { b with running := b.backup } ∧ BarKept s t (fun o => o = 8 ∨ o = 0x1800))) ∧
    (imageFault b b.primary ≠ 0 → imageFault b b.backup ≠ 0 → Gives (exec .bootStageChange s) (fun t =>
      atStage s t 1 1 (imageFault b b.backup) false ∧ OnlyBar s t (· = 8)))) ∧
  (stage s = 2 → Gives (exec .bootStageChange s) (fun t => atStage s t 3 image 0 true ∧ BarKept s t (fun o => o = 8 ∨ o = 0x1800) ∧
    { t with host := { t.host with bar0 := {}, msix := [] } } = { s with host := { s.host with bar0 := {}, msix := [] } })) ∧
  (stage s = 3 → Gives (exec .bootStageChange s) (fun t => atStage s t 4 image 0 true ∧
    t.reg 0x4000 = 0x8000000007 ∧ t.reg 0x4008 = 0x8FFFFF0000 ∧ (∀ o, 0x4010 ≤ o → o < 0x4400 → t.reg o = z.reg o) ∧
    (∀ d, t.net.keys.get (0, 0, none) d = (0, 0, none)) ∧ (∀ o, 0xE0000 ≤ o → o < 0xE8000 → t.reg o = z.reg o) ∧
    t.mem.scratch = {} ∧ t.mem.sfull = {} ∧ t.mem.share = min b.share 12 ∧
    BarKept s t (fun o => o = 8 ∨ o = 0x1800 ∨ 0x4000 ≤ o ∧ o < 0x4400 ∨ 0xE0000 ≤ o ∧ o < 0xE8000))) ∧
  ((stage s = 0 ∨ 4 ≤ stage s) → exec .bootStageChange s = .next s) ∧
  (FMap.wf 0 s.mem.base = true → FMap.wf [] s.mem.vers = true → Gives (exec .powerOnReset s) (fun t =>
    t.reg 8 = 1 ∧ BarKept z t (· = 8) ∧
    (∀ a, t.newest a = if tierOf a = .host then s.newest a else 0) ∧ t.mem.vers = {} ∧
    t = { z with nextId := s.nextId, free := s.free, agenda := s.agenda,
                 mem := { z.mem with base := t.mem.base, nodes := s.mem.nodes },
                 host := { z.host with boot := { b with running := [] }, pod := s.host.pod, podNodes := s.host.podNodes,
                                       bar0 := t.host.bar0 } })) ∧
  exec (.mgmtPortReceive port 0 l) s = .next { s with host := { s.host with boot := { b with primary := l } } } ∧
  (kind ≠ 0 → exec (.mgmtPortReceive port kind l) s = .next { s with host := { s.host with mgmtIn := s.host.mgmtIn ++ [(port, kind, l)] } })

/-! ## The Assay engine and writes of registers (04 R61, R71, R72, 06 R112 to R117, 21 R378 to R380) -/

namespace Sys2Proof.Claims

/-- The Assay engine has stopped: ASSAYSTAT holds the status and what was found, and vector 2 was raised. -/
structure AssayStopped (s t : State) (status tms : Nat) : Prop where
  stat : t.reg 0x2010 = status + tms % 2 ^ 16 * 2 ^ 8 + t.assay.runs % 2 ^ 32 * 2 ^ 24
  regs : BarKept s t (fun o => o = 0x2010 ∨ o = 0x1800 ∨ isCounter o)
  told : Raised s t 2
  idle : t.assay.phase = .idle ∧ t.assay.snaps = {} ∧ t.assay.stack = [] ∧ t.assay.abort = false ∧ t.assay.tms.length = tms

/-- The engine runs: ASSAYSTAT says so (R72). -/
def assayRuns (t : State) (tms runs : Nat) : Prop :=
  t.reg 0x2010 = (tms * 2 ^ 8 + runs * 2 ^ 24 + 2 ^ 63) % 2 ^ 64 ∧ t.assay.runs = runs ∧ t.assay.phase = .running

/-- The control block at ASSAYCB's offset in the window (R71), and its fields. -/
def controlBlock (s : State) : Nat := little (fun k => s.mem.scratch.get 0 (window s + s.reg 0x2000 % 2 ^ 12 * 256 + k)) 192
def fieldAt (v at_ n : Nat) : Nat := v / 256 ^ at_ % 256 ^ n

/-- The block of an exploration with one range, each of its areas within a page. -/
structure SmallBlock (v : Nat) (lrec pre plen w0 wsize budget result rcap lo len : Nat) : Prop where
  lrec : fieldAt v 0 8 = lrec ∧ lrec % 128 = 0
  pre : fieldAt v 8 8 = pre ∧ pre % 2 ^ 16 + 2 * plen ≤ 2 ^ 16
  plen : fieldAt v 16 4 = plen ∧ plen ≤ 65535
  w0 : fieldAt v 20 4 = w0
  wsize : fieldAt v 24 1 = wsize ∧ 1 ≤ wsize ∧ wsize ≤ 8
  budget : fieldAt v 32 4 = budget ∧ 1 ≤ budget
  result : fieldAt v 40 8 = result ∧ result % 8 = 0 ∧ result % 2 ^ 16 + rcap ≤ 2 ^ 16
  rcap : fieldAt v 48 8 = rcap ∧ 48 ≤ rcap
  count : fieldAt v 36 4 = 1
  range : fieldAt v 64 8 = lo ∧ fieldAt v 72 8 = len ∧ lo % 4096 = 0 ∧ len % 4096 = 0 ∧ len ≠ 0 ∧ lo % 2 ^ 16 + len ≤ 2 ^ 16
  zero : fieldAt v 25 7 = 0 ∧ fieldAt v 56 8 = 0 ∧ fieldAt v 80 112 = 0

/-- A page is read or written by the Assay engine through an entry of its TLB. -/
def assayPage (s : State) (l : Launch) (a : Acc) (va pa cm : Nat) : Prop :=
  ∀ u : State, u.xlat = s.xlat → u.host.secure = s.host.secure → (∀ i, i ≠ 0x2010 → ¬ isCounter i → u.reg i = s.reg i) →
    steadily u 4098 l.root l.asid a va pa cm

/-- Memory as it was, but for lines whose correctable error a read has corrected (R23). -/
def memRead (s t : State) : Prop :=
  t.mem = { s.mem with weakLines := t.mem.weakLines, corrected := t.mem.corrected, lastCorrected := t.mem.lastCorrected }

/-- A register's bits as they are after a write: those that `l` lists take what is written (R3). -/
def bitsTaken (s t : State) (off : Nat) (v : DWord) (l : List (Nat × Nat)) : Prop :=
  ∀ n < 64, regBit t off n = if ∃ x ∈ l, x.2 ≤ n ∧ n ≤ x.1 then v.getLsbD n else regBit s off n
def bitsWritten (s t : State) (off : Nat) (v : DWord) (l : List (Nat × Nat)) : Prop :=
  bitsTaken s t off v l ∧ OnlyBar s t (· = off)

/-- The host or the secure world may write at this offset (R60, R61, R66). -/
def mayWrite (s : State) (secure : Bool) (off : Nat) : Prop := secure = true ∨ (¬ recovering s ∧ ¬ secureTarget off)

end Sys2Proof.Claims

/-- R71, R72, R112, R114 to R117, R378 to R380: GO reads and checks the control block and the launch record, and launches the
baseline run, whose stream is the prefix. A run that completes ends; a baseline that halts at its stream stops with 4. A new
touchmark is appended to the result area with its stream. The next alternative of the window goes on from its snapshot with
the stream up to it; with none left the engine stops with 0. An abort stops with 5 after the current run. A frozen engine, and one
in recovery mode, does nothing. -/
def Obligations.AssayResult : Prop := ∀ (s : State) (lrec pre plen w0 wsize budget result rcap lo len : Nat),
  let v := controlBlock s
  let rec_ := little (fun k => s.newest (s.at 0 (lrec + k))) 128
  let l := parseLaunch rec_
  let a := s.assay
  let gr := s.grid a.gid
  let k := s.nextId
  let now := parseLaunch (a.rec_.getD 0)
  let frozen := s.isFrozen 8194 = true
  (∀ pa rp pp cr cp c2, ¬ recovering s → a.phase = .idle → 0x8000 ≤ s.reg 0x2000 % 2 ^ 12 * 256 →
    SmallBlock v lrec pre plen w0 wsize budget result rcap lo len →
    (tierOf lrec = .hbmA ∨ tierOf lrec = .hbmB ∨ tierOf lrec = .lpddr ∨ tierOf lrec = .host) → s.secureAt lrec = false →
    (∀ i < 128, s.badByte (s.at 0 (lrec + i)) = false) → s.launchCode rec_ = 0 → l.mode = 2 →
    (s.grids.cells.filter (fun c => c.2.inStore)).length < 4096 →
    assayPage s l .load lo pa cp → assayPage s l .store result rp cr → (plen ≠ 0 → assayPage s l .load pre pp c2) →
    (∀ i < 2 * plen, s.badByte (s.at c2 (pp + i)) = false) →
    Gives (exec .assayGo s) (fun t => assayRuns t 0 1 ∧ t.assay.gid = k ∧ t.assay.w0 = w0 ∧ t.assay.wsize = wsize ∧ t.assay.budget = budget ∧
      (t.grid k).status = .stored ∧ (t.grid k).inStore = true ∧ (t.grid k).assay = true ∧ (t.grid k).launch = l ∧
      (t.grid k).steer.stream = some ((List.range plen).map (fun i => little (fun n => s.newest (s.at c2 (pp + 2 * i + n))) 2)) ∧
      (∀ j, j ≠ k → t.grid j = s.grid j) ∧ memRead s t ∧ t.groups = s.groups ∧ t.xlat = s.xlat ∧
      BarKept s t (fun o => o = 0x2010 ∨ isCounter o))) ∧
  (recovering s → a.phase = .idle → exec .assayGo s = .next s) ∧
  (a.phase = .checking → frozen → exec .assayGo s = .next s) ∧
  (frozen → exec .assayTouchmark s = .next s) ∧
  (¬ recovering s → a.phase = .idle → s.reg 0x2000 % 2 ^ 12 * 256 < 0x8000 → Gives (exec .assayGo s) (fun t => AssayStopped s t 2 0 ∧ t.assay.runs = 0)) ∧
  ((a.phase = .running ∨ a.phase = .ended) → exec .assayGo s = .next s) ∧
  (a.phase = .idle → exec .assayAbort s = .next s) ∧
  (a.phase = .checking → Gives (exec .assayAbort s) (fun t => AssayStopped s t 5 a.tms.length)) ∧
  ((a.phase = .running ∨ a.phase = .ended) → exec .assayAbort s = .next { s with assay := { a with abort := true } }) ∧
  (a.phase = .running → gr.status = .done → (a.runs ≠ 1 ∨ gr.code ≠ 1 ∨ gr.flags / 2 % 2 = 1) →
    exec .assayRunEnd s = .next { s with assay := { a with phase := .ended } }) ∧
  (a.phase = .running → gr.status = .done → a.runs = 1 → gr.code = 1 → gr.flags / 2 % 2 = 0 →
    Gives (exec .assayRunEnd s) (fun t => AssayStopped s t 4 a.tms.length)) ∧
  ((a.phase ≠ .running ∨ gr.status ≠ .done) → exec .assayRunEnd s = .next s) ∧
  (∀ pa cp, ¬ frozen → a.phase = .ended → a.ranges = [(lo, len)] → lo % 2 ^ 16 + len ≤ 2 ^ 16 → 0 < len → assayPage s now .load lo pa cp →
    (∀ i < len, s.badByte (s.at cp (pa + i)) = false) →
    let tm := Sha.chunked ((List.range len).map (fun i => s.newest (s.at cp (pa + i))))
    let entries := s.runRecord.entries
    let n := 2 * entries.length
    let size := (n + 7) / 8 * 8
    let at_ := a.soff - size
    (∀ rp cr, a.abort = true → gr.code ≠ 2 → tm ∉ a.tms → 48 * (a.tms.length + 1) + size ≤ a.soff → a.soff ≤ 2 ^ 16 → a.result % 2 ^ 16 = 0 →
      0 < size → tm.length = 32 →
      (∀ i < 2 ^ 16, ∀ j < 2 ^ 16, s.at cr (rp + i) = s.at cr (rp + j) → i = j) →
      (∀ o < 2 ^ 16, ∀ u : State, u.xlat = s.xlat → u.host.secure = s.host.secure → (∀ i, ¬ isCounter i → u.reg i = s.reg i) →
        steadily u 4098 now.root now.asid .store (a.result + o) (rp + o) cr) →
      let out (i : Nat) : Nat := s.at cr (rp + i)
      Gives (exec .assayTouchmark s) (fun t => AssayStopped s t 5 (a.tms.length + 1) ∧ t.assay.tms = a.tms ++ [tm] ∧
        (∀ i < 32, t.newest (out (48 * a.tms.length + i)) = tm.getD i 0) ∧
        little (fun i => t.newest (out (48 * a.tms.length + 32 + i))) 4 = a.runs % 2 ^ 32 ∧
        little (fun i => t.newest (out (48 * a.tms.length + 36 + i))) 4 = entries.length % 2 ^ 32 ∧
        little (fun i => t.newest (out (48 * a.tms.length + 40 + i))) 8 = at_ ∧
        (∀ j < entries.length, little (fun i => t.newest (out (at_ + 2 * j + i))) 2 = entries.getD j 0 % 2 ^ 16) ∧
        (∀ p, (∀ i < 48, p ≠ out (48 * a.tms.length + i)) → (∀ i < size, p ≠ out (at_ + i)) →
          t.newest p = s.newest p) ∧ othersKept s t ∧ registersKept s t)) ∧
    (a.abort = false → gr.code ≠ 2 → tm ∈ a.tms → a.stack = [] → a.w0 ≤ a.j → gr.steer.taken.length ≤ a.w0 → Gives (exec .assayTouchmark s) (fun t =>
      AssayStopped s t 0 a.tms.length ∧ memRead s t)) ∧
    (∀ x c f, a.abort = false → gr.code ≠ 2 → tm ∈ a.tms → a.stack = [] → 0 < a.wsize → a.j ≤ a.w0 → a.runs < a.budget →
      gr.steer.taken.length = a.w0 + 1 → gr.steer.taken[a.w0]? = some c → c.idx = 0 → c.cands.length = 2 →
      c.cands.map (gr.steer.feet.get none) = [f, none] → a.snaps.get none 0 = some x → Gives (exec .assayTouchmark s) (fun t =>
        assayRuns t a.tms.length (a.runs + 1) ∧ t.assay.j = a.w0 + 1 ∧
        (t.grid a.gid).steer.stream = some (entries.take a.w0 ++ [1]) ∧ (t.grid a.gid).launch = x.grid.launch ∧
        (∀ j, j ≠ a.gid → t.grid j = s.grid j) ∧
        (∀ p, ∀ y ∈ t.versOf p, ¬ (y.grid = a.gid ∧ x.at_ < y.time))))) ∧
  (a.phase ≠ .ended → exec .assayTouchmark s = .next s)

/-- R3, R60, R61, R66: a write of a register by who may write it sets the bits that the register holds and no others; a register with
a behaviour of its own has it; read-only registers ignore it. An MSI-X entry that is unmasked sends the message that it owes;
TRCCTL ends the trace of groups that it arms no longer; the last word of a remote key entry puts the entry in force (when it
does, log 87, the model's choice). A non-secure write of a secure target is not performed, and
the monitor is told. -/
def Obligations.RegisterWriteResult : Prop := ∀ (v : DWord) (s : State) (secure : Bool) (die i m k : Nat), die < 8 →
  let w (off : Nat) : Out := exec (.registerWrite secure off v) s
  let holds (off : Nat) (l : List (Nat × Nat)) : Prop := mayWrite s secure off → Gives (w off) (fun t => bitsWritten s t off v l)
  let acts (off : Nat) (e : Instr) : Prop := mayWrite s secure off → ∃ t, w off = .next t ∧ exec e s = .next t
  holds 0x2000 [(11, 0)] ∧ (i < 128 → regBit s 0x1800 (i / 2) = false → holds (0x1000 + 8 * i) [(63, 0)]) ∧
  (i < 64 → regBit s 0x1800 i = true → mayWrite s secure (0x1008 + 16 * i) → v.getLsbD 32 = false → Gives (w (0x1008 + 16 * i)) (fun t =>
    bitsTaken s t (0x1008 + 16 * i) v [(63, 0)] ∧ t.host.msix = s.host.msix ++ [i] ∧ bitsNow s t 0x1800 [(i, false)] ∧
    BarKept s t (fun o => o = 0x1008 + 16 * i ∨ o = 0x1800) ∧
    t = { s with host := { s.host with bar0 := t.host.bar0, msix := t.host.msix } })) ∧
  (i < 16 → holds (0x3000 + 32 * i) [(51, 0)] ∧ holds (0x3008 + 32 * i) [(51, 0)] ∧ holds (0x3010 + 32 * i) [(7, 2), (0, 0)]) ∧
  (i < 16 → holds (0x20480 + 8 * i) [(2, 0)] ∧ (k < 4 → holds (0x20010 + 0x40 * i + 8 * k) [(63, 0)])) ∧
  holds 0x20500 [(5, 0)] ∧
  holds (0x30010 + 0x1000 * die) [(51, 16)] ∧ holds (0x30018 + 0x1000 * die) [(16, 0)] ∧
  holds (obs die + 8) [(15, 0)] ∧ holds (obs die + 0x40) [(20, 16), (15, 8), (1, 0)] ∧
  (FMap.wf {} s.groups = true → mayWrite s secure (obs die + 0xC0) → Gives (w (obs die + 0xC0)) (fun t =>
    bitsTaken s t (obs die + 0xC0) v [(63, 32), (0, 0)] ∧ BarKept s t (· = obs die + 0xC0) ∧
    (∀ g, t.group g = if (s.group g).die = die ∧ t.armed (s.group g) = false then { s.group g with traced := false } else s.group g) ∧
    t = { s with groups := t.groups, host := { s.host with bar0 := t.host.bar0 } })) ∧
  (k < 4 → holds (ring die k + 24) [(31, 0)]) ∧
  holds 0x80000 [(39, 4), (0, 0)] ∧ holds 0x80008 [(63, 0)] ∧ holds 0x80020 [(63, 0)] ∧ holds 0x80010 [(47, 34), (32, 0)] ∧
  (i < 8 → holds (0x80040 + 8 * i) [(63, 0)]) ∧ (i < 0x8400 → ¬ (0x4000 ≤ i ∧ i < 0x8000 ∧ i % 4 = 3) → holds (0x90000 + 8 * i) [(63, 0)]) ∧
  (i < 0x1000 → mayWrite s secure (0xB0018 + 32 * i) → Gives (w (0xB0018 + 32 * i)) (fun t =>
    t.net.rkeys.get 0 i = s.reg (0xB0000 + 32 * i) + s.reg (0xB0008 + 32 * i) * 2 ^ 64 + s.reg (0xB0010 + 32 * i) * 2 ^ 128 +
      v.toNat * 2 ^ 192 ∧
    (∀ j, j ≠ i → t.net.rkeys.get 0 j = s.net.rkeys.get 0 j) ∧ bitsTaken s t (0xB0018 + 32 * i) v [(63, 0)] ∧
    BarKept s t (· = 0xB0018 + 32 * i) ∧
    t = { s with net := { s.net with rkeys := t.net.rkeys }, host := { s.host with bar0 := t.host.bar0 } })) ∧
  acts 0x10 (.mboxbaseWrite v) ∧ acts 0x18 (.mboxerrClear v) ∧ acts 0x40 (.attestGo v) ∧ acts 0x3200 (.dhaltWrite v) ∧
  acts 0x3208 (.dreleaseWrite v) ∧ (v = 1 → acts 0x2008 .assayGo) ∧ (v = 2 → acts 0x2008 .assayAbort) ∧
  (i < 64 → acts (0x4000 + 16 * i) (.regionEntryWrite i false v) ∧ acts (0x4008 + 16 * i) (.regionEntryWrite i true v)) ∧
  (m < 8 → k < 14 → acts (mapReg m + 8 * k) (.maskWrite m k v)) ∧ (v = 1 → acts 0x17FF8 (.counterFreezeWrite true)) ∧
  (i < 16 → v.toNat % 4 = 1 → acts (0x20400 + 8 * i) (.nstateReopen i)) ∧
  acts (0x30008 + 0x1000 * die) (.pindoneWrite die v) ∧ acts (obs die) (.sampleEnable die v) ∧ acts (obs die + 0x100) (.pselWrite die v) ∧
  (k < 4 → acts (ring die k) (.ringConfigWrite die k false v) ∧ acts (ring die k + 8) (.ringConfigWrite die k true v)) ∧
  (k < 64 → acts (gauge die k) (.gaugeConfigWrite die k v)) ∧
  (mayWrite s secure 0 → w 0 = .next s ∧ w 8 = .next s ∧ w 0x2010 = .next s ∧ w (obs die + 0x108) = .next s) ∧
  (secure = false → ¬ recovering s → secureTarget i → i % 8 = 0 → Gives (w i) (fun t =>
    (∃ x, t.host.monlog = s.host.monlog ++ [x] ∧ x.2.1 = i ∧ x.2.2 = s.clock) ∧
    t = { s with host := { s.host with monlog := t.host.monlog } })) ∧
  (secure = false → recovering s → w i = .next s)

/-! ## Links, ports and nodes (02 R36 to R41) -/

namespace Sys2Proof.Claims

/-- A port's PSTAT, PCTL, KEYNEXT, and the node that it connects to, in a pod of 1, 2, 4, 8 or 16 nodes (R27, R41). -/
def pstat (s : State) (p : Nat) : Nat := s.reg (0x20000 + 0x40 * p)
def linkState (s : State) (p : Nat) : Nat := pstat s p % 4
def retrains (s : State) (p : Nat) : Nat := pstat s p / 2 ^ 4 % 16
def replays (s : State) (p : Nat) : Nat := pstat s p / 2 ^ 8 % 2 ^ 32
def keydue (s : State) (p : Nat) : Bool := regBit s (0x20000 + 0x40 * p) 40
def keynext (s : State) (p : Nat) : Nat :=
  (List.range 4).foldl (fun v k => v + s.reg (0x20010 + 0x40 * p + 8 * k) * 2 ^ (64 * k)) 0
def inPod (s : State) : Prop := s.host.podNodes ∈ [1, 2, 4, 8, 16]
def nodeOf (s : State) (p : Nat) : Nat := p % s.host.podNodes

/-- Only port p, its PSTAT and the vectors raised changed. -/
structure OnlyPort (s t : State) (p : Nat) : Prop where
  regs : BarKept s t (fun o => o = 0x20000 + 0x40 * p ∨ o = 0x1800)
  ports : ∀ j, j ≠ p → t.port j = s.port j
  rest : { t with host := { t.host with bar0 := {}, ports := {}, msix := [] } } =
    { s with host := { s.host with bar0 := {}, ports := {}, msix := [] } }

/-- Flits sent one after another: XMIT rises from `xmit`, and each goes out under generation `gen` with its own SEQ. -/
def sentAs (wire : List Flit) (l : List TxFlit) (xmit gen : Nat) : Prop :=
  wire.map (fun f => (f.seq, f.ty, f.payload)) = l.map (fun f => (f.seq, f.ty, f.payload)) ∧
  wire.map (·.xmit) = (List.range l.length).map (xmit + ·) ∧ ∀ f ∈ wire, f.kg = gen % 4

/-- Flits of a port still to be acknowledged after ACKSEQ (R36, R37). -/
def stillKept (a : Nat) (l m : List TxFlit) : Prop := ∀ f, f ∈ m ↔ f ∈ l ∧ 512 ≤ (a + 2 ^ 32 - f.seq) % 2 ^ 16

/-- A link retrains (R37, R41). -/
def retrained (s t : State) (p : Nat) : Prop := linkState t p = 1 ∧ retrains t p = min (retrains s p + 1) 15

/-- An access to the node is in flight. -/
def inFlight (s : State) (n : Nat) (o : FabricOp) : Prop := o ∈ s.mem.fabric ∧ o.node = n ∧ o.replied = false

/-- What R39 does at a port-down or node-reset event. -/
structure NodeFailed (s t : State) (n st sub : Nat) : Prop where
  nstate : t.reg (0x20400 + 8 * n) = st
  tlbs : ∀ j, ∀ e ∈ t.xlat.tlbs.get [] j, ¬ (pteTier e.pte = 2 ∧ pteNode e.pte = n)
  loads : ∀ o, inFlight s n o → o.kind = 0 → ∃ q ∈ t.mem.fabric, q.id = o.id ∧ q.replied = true ∧ q.failed = sub
  stores : ∀ o, inFlight s n o → o.kind = 1 → (∀ q ∈ t.mem.fabric, q.id ≠ o.id) ∧ o.gid ∈ (t.node n).lost
  atomics : ∀ o, inFlight s n o → o.kind = 2 → ∃ q ∈ t.mem.fabric, q.id = o.id ∧ q.replied = true ∧ q.failed = 3
  deliveries : (∀ d ∈ t.eng.deliveries, d.relay ≠ n + 1) ∧ ∀ g pkg, (s.group g).status ≠ .gone →
    (t.group g).undelivered.get 0 pkg = (s.group g).undelivered.get 0 pkg +
      (s.eng.deliveries.filter (fun d => d.relay == n + 1 && d.gid == g && d.pkg == pkg)).length
  dcause : ∀ o, inFlight s n o → (s.grid (s.group o.gid).grid).started = true → (t.grid (s.group o.gid).grid).seen / 2 ^ 11 % 2 = 1
  others : ∀ o ∈ s.mem.fabric, o.node ≠ n → o ∈ t.mem.fabric
  relays : ∀ g pkg, (t.group g).relay.get 0 pkg ≠ n + 1
  memory : packageKept s t
  registers : registersKept s t

/-- A port whose flit has not been accepted: a NAK names it (R37). -/
def refused (x y : Port) (seq : Nat) : Prop :=
  y.naks = x.naks ++ [seq] ∧ y.rxSeq = x.rxSeq ∧ y.accepted = x.accepted ∧ y.replay = x.replay

/-- No FLUSH is in flight, no access waits at a site, and accesses and deliveries are distinct. -/
def plainFabric (s : State) : Prop :=
  FMap.wf {} s.groups = true ∧ (s.mem.fabric.map (·.id)).Nodup ∧ (s.eng.deliveries.map (·.id)).Nodup ∧ s.eng.mcasts = [] ∧
  ∀ o ∈ s.mem.fabric, o.kind < 3 ∧ ∀ x ∈ (s.grid (s.group o.gid).grid).steer.ops, x.kind ≠ 6

end Sys2Proof.Claims

/-- R36, R37, R38: a new flit takes the next SEQ and XMIT, is kept in the replay buffer of 512 and goes out under the active
generation; XMIT at its warning sets KEYDUE and raises vector 0; at its limit the port holds. A NAK has the flit and
every later one resent, and the eighth replay in a row of one of them retrains. A KEYSWAP makes KEYNEXT the transmit key, and a held resend goes out
under it. The receiver accepts flits in order under the next, current or previous generation, and answers any other with
a NAK; the first flit of the next generation that passes its tag makes it current, whatever its SEQ; a flit of the previous
generation after 4096 retrains the link. -/
def Sys2Proof.Claims.LinkResult : Prop := ∀ (p seq : Nat) (ty : Byte) (l : List Byte) (f : Flit) (s : State), p < 16 →
  let x := s.port p
  let up := linkState s p = 2
  let new : TxFlit := { seq := x.seq, ty, payload := (List.range 224).map (fun k => l.getD k 0) }
  let again := x.replay.dropWhile (fun f => f.seq != seq)
  let before := x.replay.takeWhile (fun f => f.seq != seq)
  let eighth := ∃ f ∈ again, 7 ≤ f.replays
  let distinct := (x.replay.map (·.seq)).Nodup
  let kg := f.kg % 4
  let late := 0 < x.rxGen ∧ kg = (x.rxGen + 3) % 4 ∧ 4096 ≤ x.rxSince
  let bad := f.tagOk = false ∨ kg = (x.rxGen + 2) % 4 ∨ (x.rxGen = 0 ∧ kg = 3)
  let accepts (t : State) : Prop := (t.port p).rxSeq = (f.seq + 1) % 2 ^ 32 ∧
    (t.port p).accepted = x.accepted ++ [{ seq := f.seq, ty := f.ty, payload := f.payload }] ∧
    stillKept f.ackseq x.replay (t.port p).replay ∧ (t.port p).naks = x.naks
  let answered (t : State) : Prop := (f.seq = x.rxSeq → accepts t) ∧ (f.seq ≠ x.rxSeq → refused x (t.port p) f.seq) ∧
    pstat t p = pstat s p ∧ OnlyPort s t p
  (up → x.xmit < 2 ^ 32 - 1 → x.replay.length < 512 → Gives (exec (.flitSend p ty l) s) (fun t =>
    (t.port p).seq = (x.seq + 1) % 2 ^ 32 ∧ (t.port p).replay = x.replay ++ [new] ∧ (t.port p).xmit = x.xmit + 1 ∧
    sentAs (t.port p).wire [new] x.xmit x.txGen ∧ (∀ y ∈ (t.port p).wire, y.ackseq = (x.rxSeq + 2 ^ 16 - 1) % 2 ^ 16) ∧
    (if x.xmit + 1 = 0xF0000000 then keydue t p = true ∧ Raised s t 0
      else pstat t p = pstat s p ∧ t.host.msix = s.host.msix) ∧ OnlyPort s t p)) ∧
  ((¬ up ∨ 2 ^ 32 - 1 ≤ x.xmit ∨ 512 ≤ x.replay.length) → exec (.flitSend p ty l) s = .next s) ∧
  (up → again ≠ [] → distinct → x.xmit + again.length < 2 ^ 32 → Gives (exec (.nakReceive p seq) s) (fun t =>
    sentAs (t.port p).wire again x.xmit x.txGen ∧ (t.port p).xmit = x.xmit + again.length ∧
    replays t p = (replays s p + again.length) % 2 ^ 32 ∧
    (¬ eighth → (t.port p).replay = before.map (fun f => { f with replays := 0 }) ++ again.map (fun f => { f with replays := f.replays + 1 }) ∧
      linkState t p = 2 ∧ retrains t p = retrains s p) ∧
    (eighth → (t.port p).replay = x.replay.map (fun f => { f with replays := 0 }) ∧ retrained s t p) ∧ OnlyPort s t p)) ∧
  ((¬ up ∨ again = []) → exec (.nakReceive p seq) s = .next s) ∧
  (x.held = none → Gives (exec (.keyswap p) s) (fun t =>
    t.port p = { x with txKey := keynext s p, txGen := x.txGen + 1, xmit := 0, wire := [] } ∧
    keydue t p = false ∧ pstat t p / 2 ^ 2 % 4 = (x.txGen + 1) % 4 ∧ linkState t p = linkState s p ∧ OnlyPort s t p)) ∧
  (x.held = some seq → x.replay.length ≤ 512 → Gives (exec (.keyswap p) s) (fun t =>
    (t.port p).txKey = keynext s p ∧ (t.port p).txGen = x.txGen + 1 ∧ (t.port p).held = none ∧
    sentAs (t.port p).wire again 0 (x.txGen + 1) ∧ (t.port p).xmit = again.length ∧
    replays t p = (replays s p + again.length) % 2 ^ 32 ∧ keydue t p = false ∧ OnlyPort s t p)) ∧
  (up → late → Gives (exec (.flitReceive p f) s) (fun t => retrained s t p ∧ t.port p = x ∧ OnlyPort s t p)) ∧
  (up → ¬ late → bad → Gives (exec (.flitReceive p f) s) (fun t =>
    t.port p = { x with naks := x.naks ++ [f.seq], rxSince := x.rxSince + 1 } ∧ pstat t p = pstat s p ∧ OnlyPort s t p)) ∧
  (up → ¬ late → ¬ bad → kg = (x.rxGen + 1) % 4 → Gives (exec (.flitReceive p f) s) (fun t => answered t ∧
    (t.port p).rxGen = x.rxGen + 1 ∧ (t.port p).rxKey = keynext s p ∧ (t.port p).rxPrev = x.rxKey ∧ (t.port p).rxSince = 0)) ∧
  (up → ¬ late → ¬ bad → kg ≠ (x.rxGen + 1) % 4 → Gives (exec (.flitReceive p f) s) (fun t => answered t ∧
    (t.port p).rxGen = x.rxGen ∧ (t.port p).rxKey = x.rxKey ∧ (t.port p).rxSince = x.rxSince + 1)) ∧
  (¬ up → exec (.flitReceive p f) s = .next s)

/-- R37, R39, R40, R41: enabling a port trains it and restarts RETRAINS; a link that retrains counts; training that ends
well brings the port up, and the third retrain in a row that fails takes it down. A port that goes down, and a node that reports a
reset over a link that is up, set NSTATE, flush the node's translations, fail the accesses in flight, and leave code 0x0B; after a reset the node's
memory is undefined. NSTATE reopens where 1 is written, unless every port to the node is down. A port of a package in no pod has no node. Disabling a port takes it down
(log 41, the model's choice). -/
def Sys2Proof.Claims.FabricFailureResult : Prop := ∀ (p n : Nat) (ok : Bool) (s : State), p < 16 → n < 16 →
  let x := s.port p
  let up := linkState s p = 1 ∨ linkState s p = 2
  let ctl := 0x20008 + 0x40 * p
  let was := s.reg ctl % 2 = 1
  let down (t : State) (st : Nat) : Prop := linkState t p = st ∧ (inPod s → NodeFailed s t (nodeOf s p) 2 1)
  let fails := if retrains s p = 0 then 0 else x.fails + 1
  let none_ (t : State) : Prop := ¬ inPod s → OnlyPort s t p ∧ t.port p = { x with fails := (t.port p).fails }
  let same (t : State) : Prop := { t with host := { t.host with bar0 := {}, ports := {} } } = { s with host := { s.host with bar0 := {}, ports := {} } }
  let reported := inPod s ∧ ∃ j < 16, nodeOf s j = n ∧ linkState s j = 2
  let again (e : Instr) : Prop := (linkState s p = 2 → Gives (exec e s) (fun t => retrained s t p ∧ t.port p = x ∧ OnlyPort s t p)) ∧
    (linkState s p ≠ 2 → exec e s = .next s)
  again (.linkRetrain p) ∧ again (.portRetrainCmd p) ∧
  (¬ was → Gives (exec (.portEnable p true) s) (fun t => t.reg ctl = 1 ∧ linkState t p = 1 ∧ retrains t p = 0 ∧
    t.port p = { x with fails := 0 } ∧ BarKept s t (fun o => o = ctl ∨ o = 0x20000 + 0x40 * p) ∧ same t)) ∧
  (was → Gives (exec (.portEnable p true) s) (fun t => t.reg ctl = 1 ∧ OnlyBar s t (· = ctl))) ∧
  (¬ was → Gives (exec (.portEnable p false) s) (fun t => t.reg ctl = 0 ∧ OnlyBar s t (· = ctl))) ∧
  (was → ¬ up → Gives (exec (.portEnable p false) s) (fun t => t.reg ctl = 0 ∧ linkState t p = 0 ∧
    BarKept s t (fun o => o = ctl ∨ o = 0x20000 + 0x40 * p) ∧ same t)) ∧
  (was → up → plainFabric s → Gives (exec (.portEnable p false) s) (fun t => t.reg ctl = 0 ∧ down t 0)) ∧
  (linkState s p = 1 → Gives (exec (.portTrainingComplete p true) s) (fun t => linkState t p = 2 ∧
    t.port p = { x with fails := 0 } ∧ OnlyPort s t p)) ∧
  (linkState s p = 1 → fails < 3 → Gives (exec (.portTrainingComplete p false) s) (fun t => retrained s t p ∧
    t.port p = { x with fails } ∧ OnlyPort s t p)) ∧
  (linkState s p = 1 → 3 ≤ fails → plainFabric s → Gives (exec (.portTrainingComplete p false) s) (fun t => down t 3 ∧ none_ t)) ∧
  (linkState s p ≠ 1 → exec (.portTrainingComplete p ok) s = .next s) ∧
  (up → plainFabric s → Gives (exec (.portDown p) s) (fun t => down t 0 ∧ none_ t)) ∧
  (¬ up → exec (.portDown p) s = .next s) ∧
  (plainFabric s → reported → Gives (exec (.nodeResetReport n) s) (fun t => NodeFailed s t n 3 2 ∧ (t.node n).mem = {} ∧ (t.node n).mcast = {} ∧
    (t.node n).epoch = (s.node n).epoch + 1)) ∧
  (¬ reported → exec (.nodeResetReport n) s = .next s) ∧
  (inPod s → (∃ j < 16, nodeOf s j = n ∧ (linkState s j = 1 ∨ linkState s j = 2)) → Gives (exec (.nstateReopen n) s) (fun t =>
    t.reg (0x20400 + 8 * n) = 1 ∧ OnlyBar s t (· = 0x20400 + 8 * n))) ∧
  (¬ inPod s ∨ (∀ j < 16, nodeOf s j = n → linkState s j = 0 ∨ linkState s j = 3) → exec (.nstateReopen n) s = .next s)

/-- What `LinkResult`, `FabricFailureResult` state together, R36, R37, R38, R39, R40, R41. -/
def Obligations.LinkAndNodeEvents : Prop := Sys2Proof.Claims.LinkResult ∧ Sys2Proof.Claims.FabricFailureResult

/-! ## Packets of the Ultra Ethernet engine (03) -/

namespace Sys2Proof.Claims

/-- A field of NETSTAT, 16 bits from `lo` (R57), and that field up by n while nothing else in BAR0 changed. -/
def netstat (s : State) (lo : Nat) : Nat := s.reg 0x80018 / 2 ^ lo % 2 ^ 16
def statUp (s t : State) (lo n : Nat) : Prop :=
  netstat t lo = (netstat s lo + n) % 2 ^ 16 ∧
  ∀ j, (j = 0 ∨ j = 16 ∨ j = 32 ∨ j = 48) → j ≠ lo → netstat t j = netstat s j

/-- A command's local counter, and what a completion with a status leaves in a counter (R46, R50). -/
def lctr (o : EngOp) : Nat := o.w.getD 0 0 / 2 ^ 16 % 2 ^ 10
def counted (v status : Nat) : Nat := if status = 0 then (v % 2 ^ 48 + 1) % 2 ^ 48 + v / 2 ^ 48 * 2 ^ 48 else errorCounted v status

/-- The package itself is the peer, or packets leave it (R381): what a packet sent to a peer does to those on their way. -/
def onWire (s t : State) (peer : Nat) (l : List Packet) : Prop :=
  t.net.wire = s.net.wire ++ (if s.selfPeer peer = true then l else [])

/-- The engine runs: ENABLE is 1, and no freeze holds it (R54, R70). -/
def running (s : State) : Prop := s.reg 0x80000 % 2 = 1 ∧ s.isFrozen 8192 = false

/-- How far PSN b lies past PSN a, of 32 bits (R52). -/
def past (a b : Nat) : Nat := (b + 2 ^ 32 - a % 2 ^ 32) % 2 ^ 32

/-- A peer's security domain, the word of its key table entry that holds EPOCH and FLAGS, and a packet under its current
epoch (R56). -/
def domainOf (s : State) (peer : Nat) : Nat := s.reg (0x90018 + 32 * peer) % 2 ^ 8
def epochWord (s : State) (peer : Nat) : Nat := s.reg (0xE0040 + 128 * domainOf s peer)
def keysFor (s : State) (peer : Nat) : Nat × Nat × Option Nat := s.net.keys.get (0, 0, none) (domainOf s peer)
def sealed (s : State) (p : Packet) : Packet := { p with epoch := epochWord s p.peer % 2 ^ 32, key := (keysFor s p.peer).1 }

/-- A packet authenticates under the key of the current epoch, or of the previous one (R53, R56). -/
def authentic (s : State) (p : Packet) : Prop :=
  p.authOk = true ∧ epochWord s p.peer / 2 ^ 32 % 2 = 1 ∧
  ((p.epoch = epochWord s p.peer % 2 ^ 32 ∧ p.key = (keysFor s p.peer).1) ∨
   ((p.epoch + 1) % 2 ^ 32 = epochWord s p.peer % 2 ^ 32 ∧ (keysFor s p.peer).2.2 = some p.key))

/-- A window that NSCC may give: within NSCCWIN (R53; its value, log 15). -/
def windowOk (s : State) (w : Nat) : Prop :=
  min (s.reg 0x80008 % 2 ^ 32) (s.reg 0x80008 / 2 ^ 32) ≤ w ∧ w ≤ s.reg 0x80008 / 2 ^ 32

/-- A message of this package, its command and its PDC. -/
structure NetTurn (s : State) (k : Nat) (o : EngOp) (m : NetMsg) (p : Pdc) : Prop where
  op : s.eng.ops.find? (fun x => x.id == k) = some o
  msg : s.net.msgs.find? (fun x => x.id == k) = some m
  pdc : s.net.pdcs.find? (fun x => x.id == m.pdc) = some p
  ids : (s.eng.ops.map (·.id)).Nodup ∧ (s.net.msgs.map (·.id)).Nodup ∧ (s.net.pdcs.map (·.id)).Nodup
  kind : o.kind = .net

/-- A message ended with a status: its local counter took it, and its command and its buffer are no more. -/
structure MsgEnded (s t : State) (k : Nat) (o : EngOp) (status : Nat) : Prop where
  counter : t.reg (counterAt (lctr o)) = counted (s.reg (counterAt (lctr o))) status
  op : opGone s t k
  msg : ∀ x, x ∈ t.net.msgs → x.id ≠ k
  bufs : ∀ b ∈ t.net.bufs, b.op ≠ k

/-- PDC p is as `q`, and the others are as before. -/
def pdcNow (s t : State) (q : Pdc) : Prop := q ∈ t.net.pdcs ∧ ∀ x, x.id ≠ q.id → (x ∈ t.net.pdcs ↔ x ∈ s.net.pdcs)
def msgNow (s t : State) (m : NetMsg) : Prop := m ∈ t.net.msgs ∧ ∀ x, x.id ≠ m.id → (x ∈ t.net.msgs ↔ x ∈ s.net.msgs)

/-- The state in which an answer to PDC p has been taken: from a self peer it was on its way (R381). -/
def answerTaken (s u : State) (p : Pdc) (r : NetReply) : Prop :=
  if s.selfPeer p.peer = true then r ∈ s.net.replies ∧ u = { s with net := { s.net with replies := s.net.replies.erase r } } else u = s

/-- The same for a packet that arrives. -/
def packetTaken (s u : State) (p : Packet) : Prop :=
  if s.selfPeer p.peer = true then p ∈ s.net.wire ∧ u = { s with net := { s.net with wire := s.net.wire.erase p } } else u = s

/-- Bytes entered memory from a physical address on, at their places, and nothing else in it changed. -/
def placedAt (s t : State) (cm pa : Nat) (l : List Byte) : Prop :=
  (∀ i < l.length, t.newest (s.at cm (pa + i)) = l.getD i 0) ∧
  ∀ a, (∀ i < l.length, a ≠ s.at cm (pa + i)) → t.newest a = s.newest a

/-- The bytes have a place each (R10), and their homes have room for what they supersede (R162). -/
def storable (s : State) (cm pa : Nat) (l : List Byte) : Prop :=
  (∀ i < l.length, ∀ j < l.length, s.at cm (pa + i) = s.at cm (pa + j) → i = j) ∧ s.retentionOk (s.stored cm pa l) = true

/-- The machine without the network, engines, memory, registers, the clock and the count of free values. -/
def sansPackets (s : State) : State :=
  { s with clock := 0, free := 0, mem := {}, eng := {}, net := {}, host := { s.host with bar0 := {} } }

/-- A page of the engine's, reached through an entry of its TLB whatever becomes of the rest of the machine. -/
def netPage (s : State) (root asid : Nat) (a : Acc) (va pa cm : Nat) : Prop :=
  ∀ u : State, u.xlat = s.xlat → u.host = s.host → u.mem.badLines = s.mem.badLines → u.mem.badTable = s.mem.badTable →
    steadily u 4096 root asid a va pa cm

/-- The words of an entry of the remote key table that is in force (R55). -/
def remoteKey (s : State) (rkey k : Nat) : Nat := s.net.rkeys.get 0 rkey / 2 ^ (64 * k) % 2 ^ 64

/-- An entry of the remote key table permits an access (R55). -/
def permits (s : State) (rkey off len : Nat) (write : Bool) : Prop :=
  let e (k : Nat) : Nat := remoteKey s rkey k
  let flags := e 3 / 2 ^ 16 % 2 ^ 8
  rkey < 4096 ∧ flags % 2 = 1 ∧ flags < 8 ∧ e 3 / 2 ^ 24 = 0 ∧ e 1 ≠ 0 ∧ off + len ≤ e 1 ∧
  (if write then flags / 4 % 2 = 1 else flags / 2 % 2 = 1)

/-- A sack's bits: bit i stands for the PSN `cum` + i. -/
def sackBits (got : List Nat) (cum v : Nat) : Prop := ∀ i < 64, v.testBit i = true ↔ ∃ x ∈ got, past cum x = i

end Sys2Proof.Claims

/-- R46, R47, R52, R57, R388: the next packet of a message takes its PDC's PSN and holds the newest committed bytes; NETDROP drops
the first transmission that it names; a page that fails ends the message with 0x4. An acknowledgement or SACK removes what it
covers; a message all of whose packets are acknowledged ends with 0, and a received PSN DUPTHRESH past a missing one has it
resent. "Not ready" is progress. An RTO resends every unacknowledged packet, and a message ends with 0x2 or 0x1 when
its retries are used up. Every packet goes out under its domain's current key and epoch. What NSCC makes of the window is free
(log 15). An engine that does not run does nothing (log 89, the model's choice). -/
def Obligations.NetSendResult : Prop := ∀ (k psn cum pdc : Nat) (bitmap : DWord) (s u : State) (o : EngOp) (m : NetMsg) (p : Pdc),
  NetTurn s k o m p → pdc = p.id →
  let len := o.w.getD 1 0
  let off := 4096 * m.formed
  let n := min 4096 (len - off)
  let va := o.w.getD 2 0 + 2 ^ 32 * o.w.getD 3 0 + off
  let l := (s.grid o.grid).launch
  let drop := s.reg 0x80010
  let armed := drop / 2 ^ 32 % 2 = 1 ∧ drop / 2 ^ 36 % 2 ^ 12 = p.peer ∧ drop / 2 ^ 34 % 4 = p.mode ∧ drop % 2 ^ 32 = p.psn
  let free := ∀ x ∈ s.eng.ops, x.gid = o.gid → x.queue = o.queue → o.id ≤ x.id
  let sends := (o.form = 0 ∨ o.form = 1) ∧ m.formed < m.total ∧ free ∧ (p.mode = 2 ∨ p.unacked = []) ∧ 0 < n ∧ va % 2 ^ 16 + n ≤ 2 ^ 16
  let keeps (t : State) : Prop := sansPackets t = sansPackets s ∧ memRead s t
  let has (x : Nat) : Bool := decide (2 ^ 31 ≤ past cum x) || (decide (past cum x < 64) && bitmap.getLsbD (past cum x))
  let d := s.reg 0x80000 / 2 ^ 4 % 16
  let last := ∀ w ∈ p.unacked, w.psn ≠ psn → w.msg ≠ k
  let mine := s.net.msgs.filter (fun x => x.pdc == p.id)
  let rnrMax := s.reg 0x80000 / 2 ^ 32 % 2 ^ 8
  let rtoMax := s.reg 0x80000 / 2 ^ 24 % 2 ^ 8
  (¬ running s → ∀ i ∈ [Instr.packetForm k, .ackReceive pdc psn, .sackReceive pdc cum bitmap, .notReadyReceive pdc k, .rtoExpiry pdc],
    exec i s = .next s) ∧
  (∀ pa cm, running s → sends → netPage s l.root l.asid .load va pa cm → (∀ i < n, s.badByte (s.at cm (pa + i)) = false) → Gives (exec (.packetForm k) s) (fun t =>
    ∃ pkt : Packet, pkt.peer = p.peer ∧ pkt.mode = p.mode ∧ pkt.psn = p.psn ∧ pkt.msg = k ∧ pkt.kind = o.form ∧ pkt.off = off ∧
      pkt.len = len ∧ pkt.pdc = p.id ∧ pkt.bytes = (List.range n).map (fun i => s.newest (s.at cm (pa + i))) ∧
      (armed → t.net.wire = s.net.wire ∧ statUp s t 0 1 ∧ regBit t 0x80010 32 = false) ∧
      (¬ armed → onWire s t p.peer [sealed s pkt] ∧ BarKept s t (fun a => a = counterAt (lctr o) ∨ isCounter a)) ∧
      (p.mode = 2 → m.formed + 1 = m.total → MsgEnded s t k o 0) ∧
      (p.mode ≠ 2 ∨ m.formed + 1 ≠ m.total → msgNow s t { m with formed := m.formed + 1 } ∧
        pdcNow s t { p with psn := (p.psn + 1) % 2 ^ 32, last := s.clock,
                            unacked := if p.mode = 2 then p.unacked else p.unacked ++ [{ psn := p.psn, msg := k, pkt }] }) ∧ keeps t)) ∧
  (∀ x, running s → sends → s.translate 4096 l.root l.asid .load va = (x, s) → (∃ sub, x = .fault sub) ∨ x = .absent →
    Gives (exec (.packetForm k) s) (fun t => MsgEnded s t k o 4 ∧
      (∃ q, onWire s t p.peer [q] ∧ q.msg = k ∧ q.kind = 5 + o.form ∧ q.status = 4 ∧ q.off = off ∧ q.bytes = []) ∧ keeps t)) ∧
  (running s → answerTaken s u p (.ack p.id psn) → o.form ≠ 2 → m.formed = m.total → (∃ w ∈ p.unacked, w.psn = psn) →
    (∀ w ∈ p.unacked, w.psn = psn → w.msg = k) →
    (last → Gives (exec (.ackReceive pdc psn) s) (fun t => MsgEnded u t k o 0 ∧ BarKept s t (· = counterAt (lctr o)) ∧ keeps t)) ∧
    (¬ last → Gives (exec (.ackReceive pdc psn) s) (fun t =>
      (∃ window, windowOk s window ∧
        pdcNow u t { p with unacked := p.unacked.filter (fun w => !(w.psn == psn)), fails := 0, window }) ∧
      t.net.msgs = s.net.msgs ∧ t.eng = s.eng ∧ BarKept s t (fun _ => False) ∧ keeps t))) ∧
  (running s → answerTaken s u p (.ack p.id psn) → (∀ w ∈ p.unacked, w.psn ≠ psn) → exec (.ackReceive pdc psn) s = .next u) ∧
  (running s → answerTaken s u p (.sack p.id cum bitmap.toNat) →
    (∀ w ∈ p.unacked, has w.psn = true → ∀ y, s.netMsg w.msg = some y → y.formed ≠ y.total ∨ ∃ z ∈ p.unacked, z.msg = w.msg ∧ has z.psn = false) →
    (∀ w ∈ p.unacked, w.pkt.peer = p.peer) → Gives (exec (.sackReceive pdc cum bitmap) s) (fun t =>
      let late := p.unacked.filter (fun w => !has w.psn && d != 0 &&
        (List.range 64).any (fun i => bitmap.getLsbD i && decide (past cum w.psn + d ≤ i)))
      let any := p.unacked.any (fun w => has w.psn)
      (∃ window, (if any = true then windowOk s window else window = p.window) ∧
        pdcNow u t { p with unacked := p.unacked.filter (fun w => !has w.psn), fails := if any then 0 else p.fails, window }) ∧
      statUp s t 16 late.length ∧ onWire u t p.peer (late.map (fun w => sealed s w.pkt)) ∧
      t.net.msgs = s.net.msgs ∧ t.eng = s.eng ∧ keeps t)) ∧
  (running s → answerTaken s u p (.notReady p.id k) → Gives (exec (.notReadyReceive pdc k) s) (fun t =>
    pdcNow u t { p with fails := 0 } ∧ msgNow u t { m with notReady := true } ∧ t.eng = s.eng ∧ BarKept s t (fun _ => False) ∧ keeps t)) ∧
  (p.unacked = [] → exec (.rtoExpiry pdc) s = .next s) ∧
  (running s → p.unacked ≠ [] → mine = [m] → (∀ w ∈ p.unacked, w.msg = k ∧ w.pkt.peer = p.peer) →
    (m.notReady = false → p.fails + 1 < rtoMax → Gives (exec (.rtoExpiry pdc) s) (fun t =>
      pdcNow s t { p with fails := p.fails + 1, last := s.clock } ∧ onWire s t p.peer (p.unacked.map (fun w => sealed s w.pkt)) ∧
      statUp s t 16 p.unacked.length ∧ t.net.msgs = s.net.msgs ∧ t.eng = s.eng ∧ keeps t)) ∧
    (m.notReady = false → rtoMax ≤ p.fails + 1 → Gives (exec (.rtoExpiry pdc) s) (fun t => MsgEnded s t k o 1 ∧ (∀ q ∈ t.net.pdcs, q.id ≠ p.id) ∧ keeps t)) ∧
    (m.notReady = true → m.rnr < rnrMax → Gives (exec (.rtoExpiry pdc) s) (fun t =>
      pdcNow s t { p with fails := 0, last := s.clock } ∧ msgNow s t { m with notReady := false, rnr := m.rnr + 1 } ∧
      onWire s t p.peer (p.unacked.map (fun w => sealed s w.pkt)) ∧ statUp s t 16 p.unacked.length ∧ t.eng = s.eng ∧ keeps t)) ∧
    (m.notReady = true → rnrMax ≤ m.rnr → Gives (exec (.rtoExpiry pdc) s) (fun t => MsgEnded s t k o 2 ∧ keeps t)))

/-- R46, R48, R49, R52, R53, R55, R388: a packet of an unsupported feature or that fails authentication is counted and dropped; a
duplicate is not placed. A send's packet is placed under one stamp in the oldest buffer posted for its peer and tag; the last of a
message ends its NPOST and counts at the remote counter. A message longer than its buffer is refused with 0x5, one with no buffer
is answered "not ready", or dropped in UUD (log 90, the model's choice), and an RMA that the remote key table does not permit is refused with 0x3. An RMA read is acknowledged, and answered with the
newest committed bytes. A packet that uses an unsupported feature counts as such, authentic or not (log 91, the model's choice), and
an engine that does not run takes none (log 89, the model's choice). -/
def Sys2Proof.Claims.NetReceiveResult : Prop := ∀ (p : Packet) (s u : State) (r : RxPdc),
  let fresh := p.mode ≠ 0 ∨ (past r.cum p.psn < 2 ^ 31 ∧ p.psn ∉ r.got)
  let context := s.net.rx.find? (fun x => x.peer == p.peer && x.mode == p.mode) = some r ∧ r.spdc = p.pdc
  let known (x : RxMsg) : Bool := x.peer == p.peer && x.mode == p.mode && x.msg == p.msg
  let bufs := s.net.bufs.filter (fun b => b.peer == p.peer && b.tag == p.tag && b.taken.isNone)
  let entry (k : Nat) : Nat := remoteKey s p.rkey k
  let keeps (t : State) : Prop := sansPackets t = sansPackets s
  let self := s.selfPeer p.peer = true
  let rctr (t : State) (status : Nat) : Prop := ∀ c, p.rctr = some c → t.reg (counterAt c) = counted (s.reg (counterAt c)) status
  (¬ running s → exec (.packetReceive p) s = .next s ∧ exec (.rmaReadRequest p) s = .next s) ∧
  (running s → packetTaken s u p → p.kind ≠ 2 →
    (p.supported = false → Gives (exec (.packetReceive p) s) (fun t => statUp s t 32 1 ∧ t.net = u.net ∧ t.mem = s.mem ∧ t.eng = s.eng ∧ keeps t)) ∧
    (p.supported = true → ¬ authentic s p → Gives (exec (.packetReceive p) s) (fun t =>
      statUp s t 48 1 ∧ t.net = u.net ∧ t.mem = s.mem ∧ t.eng = s.eng ∧ keeps t)) ∧
    (p.supported = true → authentic s p → p.kind < 2 → context →
      (¬ fresh → Gives (exec (.packetReceive p) s) (fun t => t.mem = s.mem ∧ t.eng = s.eng ∧ BarKept s t (fun _ => False) ∧ keeps t)) ∧
      (fresh → p.kind = 0 → s.net.rxMsgs.find? known = none → p.ord = 0 →
        (∀ b rest o pa cm, bufs = b :: rest → p.len ≤ b.len → s.eng.ops.find? (fun x => x.id == b.op) = some o →
          p.off = 0 → 0 < p.len → p.len ≤ 4096 → p.bytes.length = p.len → (s.net.bufs.map (·.op)).Nodup → s.net.msgs.all (fun x => x.id != b.op) →
          (∀ c, p.rctr = some c → c ≠ lctr o) →
          let va := o.w.getD 2 0 + 2 ^ 32 * o.w.getD 3 0
          let l := (s.grid o.grid).launch
          va % 2 ^ 16 + p.len ≤ 2 ^ 16 → netPage s l.root l.asid .store va pa cm → storable s cm pa p.bytes →
          Gives (exec (.packetReceive p) s) (fun t => placedAt s t cm pa p.bytes ∧
            (∃ stamp, ∀ i < p.len, ∃ v w, t.versOf (s.at cm (pa + i)) = v :: w ∧ v.stamp = stamp) ∧
            t.reg (counterAt (lctr o)) = counted (s.reg (counterAt (lctr o))) 0 ∧ rctr t 0 ∧
            opGone s t b.op ∧ (∀ x, x ∈ t.net.bufs ↔ x ∈ s.net.bufs ∧ x.op ≠ b.op) ∧ keeps t)) ∧
        (∀ b rest, bufs = b :: rest → b.len < p.len → (s.net.bufs.map (·.op)).Nodup →
          Gives (exec (.packetReceive p) s) (fun t => rctr t 5 ∧ t.net.bufs = s.net.bufs ∧ t.mem = s.mem ∧ t.eng = s.eng ∧
            (self → ∃ q, t.net.wire = u.net.wire ++ [q] ∧ q.msg = p.msg ∧ q.peer = p.peer ∧ q.status = 5 ∧ q.bytes = []) ∧ keeps t)) ∧
        (bufs = [] → Gives (exec (.packetReceive p) s) (fun t =>
          t.net.replies = u.net.replies ++ (if s.selfPeer p.peer = true ∧ p.mode ≠ 2 then [.notReady p.pdc p.msg] else []) ∧
            t.net.bufs = s.net.bufs ∧ t.mem = s.mem ∧ t.eng = s.eng ∧ BarKept s t (fun _ => False) ∧ keeps t))) ∧
      (fresh → p.kind = 1 → s.net.rxMsgs.find? known = none →
        (¬ permits s p.rkey p.roff p.len true → Gives (exec (.packetReceive p) s) (fun t => rctr t 3 ∧ t.mem = s.mem ∧ t.eng = s.eng ∧
          (self → ∃ q, t.net.wire = u.net.wire ++ [q] ∧ q.msg = p.msg ∧ q.peer = p.peer ∧ q.status = 3 ∧ q.bytes = []) ∧ keeps t)) ∧
        (∀ pa cm, permits s p.rkey p.roff p.len true → p.off = 0 → 0 < p.len → p.len ≤ 4096 → p.bytes.length = p.len →
          let va := entry 0 + p.roff
          va % 2 ^ 16 + p.len ≤ 2 ^ 16 → netPage s (entry 2) (entry 3 % 2 ^ 16) .store va pa cm → storable s cm pa p.bytes →
          Gives (exec (.packetReceive p) s) (fun t => placedAt s t cm pa p.bytes ∧ rctr t 0 ∧ t.eng = s.eng ∧ keeps t))))) ∧
  (∀ pa cm, running s → packetTaken s u p → p.kind = 2 → p.supported = true → authentic s p → context →
    let acked (t : State) : Prop := self → NetReply.ack p.pdc p.psn ∈ t.net.replies
    (¬ fresh → Gives (exec (.rmaReadRequest p) s) (fun t => acked t ∧ t.net.wire = u.net.wire ∧ t.mem = s.mem ∧ t.eng = s.eng ∧
      BarKept s t (fun _ => False) ∧ keeps t)) ∧
    (fresh → ¬ permits s p.rkey p.roff p.len false → Gives (exec (.rmaReadRequest p) s) (fun t => acked t ∧ rctr t 3 ∧ t.mem = s.mem ∧ t.eng = s.eng ∧
      (self → ∃ q, t.net.wire = u.net.wire ++ [q] ∧ q.msg = p.msg ∧ q.peer = p.peer ∧ q.status = 3) ∧ keeps t)) ∧
    (fresh → permits s p.rkey p.roff p.len false → 0 < p.len → p.len ≤ 4096 →
      let va := entry 0 + p.roff
      va % 2 ^ 16 + p.len ≤ 2 ^ 16 → netPage s (entry 2) (entry 3 % 2 ^ 16) .load va pa cm → (∀ i < p.len, s.badByte (s.at cm (pa + i)) = false) →
      Gives (exec (.rmaReadRequest p) s) (fun t => acked t ∧ memRead s t ∧ t.eng = s.eng ∧ BarKept s t isCounter ∧
        (self → ∃ q, t.net.wire = u.net.wire ++ [q] ∧ q.msg = p.msg ∧ q.peer = p.peer ∧ q.kind = 3 ∧ q.off = 0 ∧
          q.bytes = (List.range p.len).map (fun i => s.newest (s.at cm (pa + i)))) ∧ (¬ self → t.net.wire = s.net.wire) ∧ keeps t)))

/-- R52, R56: a SACK goes out 2 µs after a packet, or after eight: it holds what has been received with no gap and the bitmap above it. KEY
and KEYNEXT are loaded and set their flags; ROLL makes KEYNEXT the key, raises EPOCH and clears NEXTVALID, and is ignored while it is 0. -/
def Sys2Proof.Claims.SackAndKeyResult : Prop := ∀ (k d : Nat) (key : BitVec 256) (s : State) (r : RxPdc),
  let sacked (t : State) : Prop := { r with since := 0 } ∈ t.net.rx ∧ (∀ x, x.id ≠ r.id → (x ∈ t.net.rx ↔ x ∈ s.net.rx)) ∧
    (s.selfPeer r.peer = true → ∃ map, t.net.replies = s.net.replies ++ [.sack r.spdc r.cum map] ∧ sackBits r.got r.cum map) ∧
    (s.selfPeer r.peer = false → t.net.replies = s.net.replies) ∧
    t = { s with net := { s.net with rx := t.net.rx, replies := t.net.replies } }
  let w := 0xE0040 + 128 * d
  let old := s.net.keys.get (0, 0, none) d
  let keysNow (t : State) (x : Nat × Nat × Option Nat) : Prop := t.net.keys.get (0, 0, none) d = x ∧
    (∀ j, j ≠ d → t.net.keys.get (0, 0, none) j = s.net.keys.get (0, 0, none) j) ∧ BarKept s t (· = w) ∧
    t = { s with net := { s.net with keys := t.net.keys }, host := { s.host with bar0 := t.host.bar0 } }
  (s.net.rx.find? (fun x => x.id == k) = some r →
    (running s → r.mode ≠ 2 → r.since ≠ 0 → Gives (exec (.sackTimer k) s) sacked) ∧
    (running s → r.mode ≠ 2 → 8 ≤ r.since → Gives (exec (.sackPacketCount k) s) sacked) ∧
    (¬ running s ∨ r.mode = 2 ∨ r.since = 0 → exec (.sackTimer k) s = .next s) ∧
    (¬ running s ∨ r.mode = 2 ∨ r.since < 8 → exec (.sackPacketCount k) s = .next s)) ∧
  Gives (exec (.engineKeyLoad d key) s) (fun t => keysNow t (key.toNat, old.2.1, old.2.2) ∧ bitsNow s t w [(32, true)]) ∧
  Gives (exec (.engineKeynextLoad d key) s) (fun t => keysNow t (old.1, key.toNat, old.2.2) ∧ bitsNow s t w [(33, true)]) ∧
  (regBit s w 33 = true → Gives (exec (.keyRoll d) s) (fun t => keysNow t (old.2.1, 0, if regBit s w 32 then some old.1 else none) ∧
    t.reg w % 2 ^ 32 = (s.reg w + 1) % 2 ^ 32 ∧ regBit t w 32 = true ∧ regBit t w 33 = false ∧
    ∀ n, 33 < n → n < 64 → regBit t w n = regBit s w n)) ∧
  (regBit s w 33 = false → exec (.keyRoll d) s = .next s)

/-- What `NetReceiveResult`, `SackAndKeyResult` state together, R46, R48, R49, R52, R53, R55, R56, R388. -/
def Obligations.NetReceiveEvents : Prop := Sys2Proof.Claims.NetReceiveResult ∧ Sys2Proof.Claims.SackAndKeyResult

namespace Sys2Proof.Claims

/-! ## The step -/

/-- A fetch of the word at `va`, for the instruction at hand, gives `w`; `t` is the machine after it, whose walk may have
filled a TLB. -/
def Fetches (s : State) (va w : Nat) (t : State) : Prop := s.fetchWord va = (.ok w, t)

/-- The clock has advanced, the subgroups that have become candidates age from it (05 R84), and the agenda's head has been
taken. -/
def begun (s : State) (rest : List Machine.Turn) : State :=
  { ({ s with clock := s.clock + 1 } : State).refresh with agenda := rest }

/-- Subgroup `x` of the group is about to issue: what it waited for is over, a fabric load that it issues again has no result
pending, and its place is the current one. A group that waits at a steering site goes on waiting (06 R111). -/
def chosen (s : State) (gid : Nat) (x : Sub) : State :=
  let g := s.group gid
  ({ s with
    cur := { gid, lanes := x.lanes, pc := x.pc, handler := x.handler, micro := x.micro, maux := x.maux, stage := x.stage,
             aux := x.aux },
    host := { s.host with lastIssue := (s.clock, gid, x.pc) } }).setGroup gid
    { g with wake := g.wake.filter (fun w => w.cond == Cond.site && s.siteParked gid), marker := false,
             longs := g.longs.filter (fun y => !(y.fabric && y.pc == x.pc)),
             subs := g.subs.map (fun (y : Sub) => if y.lanes == x.lanes || y.wait.parks then { y with wait := .none } else y) }

/-- The A-slice of the group is about to issue. -/
def chosenA (s : State) (gid : Nat) : State :=
  let g := s.group gid
  ({ s with cur := { gid, lanes := Mask.full, pc := g.a.pc, aslice := true } }).setGroup gid
    { g with a := { g.a with wait := .none, since := s.clock } }

/-- The instruction's words are known. -/
def withWords (s : State) (w e n : Nat) : State := { s with cur := { s.cur with w0 := w, w1 := e, len := n } }

/-- The step from `s` fetches in `u` and runs what it fetched: a word without extension, or a word and its extension; a
word with an extension at which no lane is active is passed over, and a word that decodes to nothing is ILLEGAL at the
lanes whose guard holds (13 R240, R241). -/
def RunsFrom (s u : State) : Prop :=
  (∀ w i n v, Fetches u u.cur.pc w v → hasExt w = false → decodeBytes (bytesOfWord w) = .ok (i, n) → w < 2 ^ 32 →
    v.cur.micro = none → step s = exec i (withWords v w 0 4)) ∧
  (∀ w r v, Fetches u u.cur.pc w v → hasExt w = false → decodeWords w 0 = .error r → v.cur.micro = none →
    step s = .next ((withWords v w 0 4).reject r w 0)) ∧
  (∀ w e i n v z, Fetches u u.cur.pc w v → hasExt w = true →
    (v.cur.stage ≠ 0 ∨ (withWords v w v.cur.w1 8).wordLanes w ≠ 0) →
    Fetches (withWords v w v.cur.w1 8) ((v.cur.pc + 4) % 2 ^ 64) e z →
    decodeBytes (bytesOfWord w ++ bytesOfWord e) = .ok (i, n) → w < 2 ^ 32 → e < 2 ^ 32 →
    step s = exec i (withWords z w e 8)) ∧
  (∀ w v, Fetches u u.cur.pc w v → hasExt w = true → v.cur.stage = 0 → (withWords v w v.cur.w1 8).wordLanes w = 0 →
    step s = .next ((withWords v w v.cur.w1 8).finish (bit w 30) {}))

/-- A stop is due: no power, or the package offline, unless a power-on reset comes next. -/
def halts (s : State) : Prop := ∀ t, s.agenda ≠ .event .powerOnReset :: t

end Sys2Proof.Claims

/-- A step runs the decoded instruction (13 R240, R241; 07 R118, R132; 17 R340): when the agenda's head names a candidate
subgroup, or a ready A-slice, and the bytes at its PC decode to `i`, the step is `exec i`, with the clock advanced, the
turn taken, the group's wait ended, and the instruction's place and words current. Inside a microprogram the words come
from the control store with their parameters put in. An event of the agenda is executed as it stands. Without power, or
offline, a step is a fault (01 R20, R25). -/
def Obligations.StepRunsInstruction : Prop := ∀ s : State,
  (s.powered = true → s.offline = false → ∀ gid pc rest, s.agenda = .issue gid pc false :: rest → ∀ x,
    ((begun s rest).group gid).offers.find? (fun y => y.pc == pc && (begun s rest).subReady gid y) = some x →
    (x.micro = none → RunsFrom s (chosen (begun s rest) gid x)) ∧
    (∀ slot k w e ext i, x.micro = some (slot, k) → ((chosen (begun s rest) gid x).microOps slot)[k]? = some (w, e, ext) →
      let p := substWords (parOf (x.maux % 2 ^ 32)) w e ext
      decodeWords p.1 p.2 = .ok i → step s = exec i (withWords (chosen (begun s rest) gid x) p.1 p.2 8))) ∧
  (s.powered = true → s.offline = false → ∀ gid pc rest, s.agenda = .issue gid pc true :: rest →
    (begun s rest).aReady gid = true → RunsFrom s (chosenA (begun s rest) gid)) ∧
  (s.powered = true → s.offline = false → ∀ i rest, s.agenda = .event i :: rest → i.isInstruction = false →
    step s = exec i (begun s rest)) ∧
  (∀ rest, s.agenda = .event .powerOnReset :: rest → step s = exec .powerOnReset (begun s rest)) ∧
  (halts s → s.powered = false → step s = .fault .powerOff) ∧
  (halts s → s.powered = true → s.offline = true → step s = .fault .offline)

/-- 13 R227 to R234, R238 to R241: every well-formed instruction's bytes decode to it, whatever follows them, and their
number is 4 or 8 as the opcode has it; and the words that any instruction decodes from are the words that the encoder
writes for it, so no bit of a word is lost. -/
def Obligations.DecodeEncode : Prop :=
  (∀ (i : Instr) (rest : List Byte), i.isInstruction = true → i.WellFormed = true →
    decodeBytes (encodeBytes i ++ rest) = .ok (i, 4 * (encode i).length)) ∧
  (∀ (w e : Nat) (i : Instr) (n : Nat), w < 2 ^ 32 → e < 2 ^ 32 →
    decodeBytes (bytesOfWord w ++ bytesOfWord e) = .ok (i, n) → encode i = if n = 8 then [w, e] else [w])

/-- 13 R238, R239, R242: words written out from the encodings decode to the instructions they stand for. -/
def Obligations.WordsDecode : Prop :=
  decodeTableWord 64 0x001000005E10A28C =
    some (.iadd { s := true, hold := 1, guard := 7, d := 10, a := 10, b := 12 } { ty := 1 }) ∧
  decodeTableWord 64 0xFFFFFFFB89200000 = some (.sbra { guard := 1 } 0xFFFFFFFB) ∧
  decodeTableWord 32 0xBB300081 = some (.rftNext { i := true, x := 1 }) ∧
  decodeTableWord 32 0x0E055500 = some (.mov { d := 21, a := 20 }) ∧
  decodeTableWord 64 0x02330000BC001000 = some (.mmaR { a := 16 } { typea := 12, typeb := 12, gform := 1 }) ∧
  decodeTableWord 64 0x0000000D_B9408000 = some (.sread { d := 2 } { imm := 0x0D }) ∧
  decodeTableWord 32 (0x7F * 2 ^ 18) = none

namespace Sys2Proof.Claims

/-- Every map of the state that holds memory, registers, groups, teams, grids, quadrants and cached translations lists
its keys in rising order and no default value, and so does every accumulator file, in a quadrant, in the image of an
evicted team or in a snapshot. -/
structure Canonical (s : State) : Prop where
  base : Memory.wf s.mem.base = true
  scratch : Memory.wf s.mem.scratch = true
  vers : FMap.wf [] s.mem.vers = true
  bar0 : FMap.wf none s.host.bar0 = true
  groups : FMap.wf {} s.groups = true
  teams : FMap.wf {} s.teams = true
  grids : FMap.wf {} s.grids = true
  quads : FMap.wf {} s.quads = true
  tlbs : FMap.wf [] s.xlat.tlbs = true
  files : ∀ c ∈ s.quads.cells, FMap.wf 0 c.2.acc = true
  carried : ∀ c ∈ s.teams.cells, ∀ a ∈ c.2.accs, FMap.wf 0 a.2.acc = true
  snaps : ∀ c ∈ s.assay.snaps.cells, ∀ x, c.2 = some x →
    (∀ a ∈ x.accs, FMap.wf 0 a.2.2.acc = true) ∧ ∀ d ∈ x.teams.cells, ∀ a ∈ d.2.accs, FMap.wf 0 a.2.acc = true

end Sys2Proof.Claims

/-- Every step keeps the canonical form, so that equal memories, registers and groups are equal data. The form is the
model's own; that memory holds one byte at each address is the spec's (01 R7, R8). -/
def Obligations.CanonicalKept : Prop := ∀ s t : State, Canonical s → step s = .next t → Canonical t

/-- After reset: the canonical form holds; the values that the spec gives hold (PLIMIT, D, MBOXBASE, CBUDGET, ENGCTL,
NSCCWIN, SWEEPCTL, MIN of the gauges), nothing is delegated, and no group, team or grid exists. The zeros of the other
registers are the model's choice (log 3). -/
def Obligations.ResetState : Prop :=
  let s := State.reset
  Canonical s ∧ s.host.plimit = 4400 ∧ (∀ q, s.dutyOf q = 16) ∧ s.reg 0x10 = 63 ∧ (∀ c, s.host.cbudget.get 96 c = 96) ∧
  s.reg 0x80000 / 2 ^ 8 % 2 ^ 16 = 100 ∧ s.reg 0x80000 / 2 ^ 4 % 16 = 2 ∧ s.reg 0x80000 % 2 = 0 ∧
  s.reg 0x80008 = 0x400000 * 2 ^ 32 + 0x1000 ∧ (∀ d < 8, s.reg (residBase d + 0x18) = 2 ^ 16 + 4096) ∧
  (∀ d < 8, ∀ n < 64, s.reg (obsBase d + 0x2000 + 0x80 * n + 8) = 2 ^ 32 - 1) ∧
  s.xlat.delegated = [] ∧ s.groups = {} ∧ s.teams = {} ∧ s.grids = {} ∧ s.clock = 0 ∧ s.powered = true ∧
  s.offline = false ∧ (∀ pa, s.newest pa = 0)

/-- R12: at reset every map holds the default hash, whose mask k sets PA bits 6 + k and 24 + k, and is valid and unlocked. -/
def Obligations.DefaultHash : Prop := ∀ m < 8,
  (∀ k < 14, ∀ b, (State.reset.mask m k).testBit b = (b == 6 + k || b == 24 + k)) ∧
  State.reset.mapValid m = true ∧ State.reset.reg (chmapBase + 0x80 * m + 0x70) / 2 % 2 = 0
end

