-- ==== Sys2Proof/Laws/Map.lean ====
section
/-! SUPPORT. The laws of sparse maps: a read after a write, and that every operation keeps the canonical form. -/

namespace Sys2Proof.FMap
variable {V : Type}

@[simp] theorem get_empty (d : V) (k : Nat) : (({} : FMap V)).get d k = d := rfl

/-- A read gives the default, or the value of a listed cell with that key. -/
theorem get_cases (d : V) (m : FMap V) (k : Nat) : m.get d k = d ∨ ∃ c ∈ m.cells, c.1 = k ∧ m.get d k = c.2 := by
  obtain ⟨l⟩ := m
  simp only [get]
  induction l with
  | nil => exact .inl rfl
  | cons c t ih =>
    obtain ⟨a, v⟩ := c
    by_cases h : k < a
    · exact .inl (by simp [find, h])
    · by_cases h' : k = a
      · exact .inr ⟨(a, v), by simp, h'.symm, by simp [find, h']⟩
      · have e : find d ((a, v) :: t) k = find d t k := by simp [find, h, h']
        rw [e]
        exact ih.imp_right (fun ⟨c, hc, hk⟩ => ⟨c, List.mem_cons_of_mem _ hc, hk⟩)

/-- What holds of the default and of every listed value holds of every read. -/
theorem get_all {d : V} {m : FMap V} {P : V → Prop} (hd : P d) (h : ∀ c ∈ m.cells, P c.2) (k : Nat) : P (m.get d k) := by
  rcases get_cases d m k with e | ⟨c, hc, -, e⟩
  · rw [e]; exact hd
  · rw [e]; exact h c hc

theorem find_filter_gt (d : V) (k j : Nat) (h : k < j) (l : List (Nat × V)) :
    find d (l.filter (fun c => k < c.1)) j = find d l j := by
  induction l with
  | nil => rfl
  | cons c t ih =>
    obtain ⟨a, v⟩ := c
    by_cases hk : k < a
    · simp [hk, find, ih]
    · have h1 : ¬ j < a := by omega
      have h2 : ¬ j = a := by omega
      simp [hk, find, h1, h2, ih]

theorem find_filter_le (d : V) (k j : Nat) (h : j ≤ k) (l : List (Nat × V)) :
    find d (l.filter (fun c => k < c.1)) j = d := by
  induction l with
  | nil => rfl
  | cons c t ih =>
    obtain ⟨a, v⟩ := c
    by_cases hk : k < a
    · have h1 : j < a := by omega
      simp [hk, find, h1]
    · simpa [hk] using ih

variable [DecidableEq V]

theorem find_insert (d : V) (l : List (Nat × V)) (k : Nat) (v : V) (j : Nat) :
    find d (insert d l k v) j = if j = k then v else find d l j := by
  induction l with
  | nil =>
    by_cases hv : v = d <;> by_cases hj : j = k <;> simp [insert, find, hv, hj]
  | cons c t ih =>
    obtain ⟨a, w⟩ := c
    by_cases h1 : k < a
    · by_cases hv : v = d
      · by_cases hj : j = k <;> simp [insert, h1, hv, find, hj]
      · by_cases hj : j = k
        · simp [insert, h1, hv, find, hj]
        · by_cases hlt : j < k
          · have : j < a := by omega
            simp [insert, h1, hv, find, hj, hlt, this]
          · simp [insert, h1, hv, find, hj, hlt]
    · by_cases h2 : k = a
      · subst h2
        by_cases hv : v = d
        · by_cases hj : j = k
          · subst hj
            simp [insert, hv, find_filter_le]
          · by_cases hlt : j < k
            · have hle : j ≤ k := by omega
              simp [insert, hv, hj, find, hlt, find_filter_le d k j hle]
            · have hgt : k < j := by omega
              simp [insert, hv, hj, find, hlt, find_filter_gt d k j hgt]
        · by_cases hj : j = k
          · simp [insert, hv, find, hj]
          · by_cases hlt : j < k <;> simp [insert, hv, find, hj, hlt]
      · by_cases hj : j = k
        · subst hj
          simp [insert, h1, h2, find, ih]
        · simp [insert, h1, h2, find, ih, hj]

/-- A read after a write: the written key holds the value, every other key what it held. -/
theorem get_set (d : V) (m : FMap V) (k : Nat) (v : V) (j : Nat) :
    (m.set d k v).get d j = if j = k then v else m.get d j := find_insert d m.cells k v j

@[simp] theorem get_set_same (d : V) (m : FMap V) (k : Nat) (v : V) : (m.set d k v).get d k = v := by
  simp [get_set]

theorem get_set_other (d : V) (m : FMap V) (k : Nat) (v : V) (j : Nat) (h : j ≠ k) :
    (m.set d k v).get d j = m.get d j := by
  simp [get_set, h]

/-! ## The canonical form -/

theorem sorted_mono (d : V) (l : List (Nat × V)) (lo lo' : Nat) (h : sorted d l lo = true) (hle : lo' ≤ lo) :
    sorted d l lo' = true := by
  cases l with
  | nil => rfl
  | cons c t =>
    obtain ⟨a, v⟩ := c
    simp only [sorted, Bool.and_eq_true, decide_eq_true_eq] at h ⊢
    exact ⟨⟨by omega, h.1.2⟩, h.2⟩

theorem sorted_filter (d : V) (f : Nat × V → Bool) (l : List (Nat × V)) (lo : Nat) (h : sorted d l lo = true) :
    sorted d (l.filter f) lo = true := by
  induction l generalizing lo with
  | nil => rfl
  | cons c t ih =>
    obtain ⟨a, v⟩ := c
    simp only [sorted, Bool.and_eq_true, decide_eq_true_eq] at h
    by_cases hf : f (a, v)
    · simp [hf, sorted, h.1.1, ih (a + 1) h.2]
      simpa using h.1.2
    · simpa [hf] using sorted_mono d _ _ lo (ih (a + 1) h.2) (by omega)

theorem sorted_insert (d : V) (l : List (Nat × V)) (k : Nat) (v : V) (lo : Nat) (h : sorted d l lo = true)
    (hk : lo ≤ k) : sorted d (insert d l k v) lo = true := by
  induction l generalizing lo with
  | nil => by_cases hv : v = d <;> simp [insert, hv, sorted, hk]
  | cons c t ih =>
    obtain ⟨a, w⟩ := c
    have h' := h
    simp only [sorted, Bool.and_eq_true, decide_eq_true_eq] at h
    by_cases h1 : k < a
    · by_cases hv : v = d
      · simpa [insert, h1, hv] using h'
      · simp only [insert, h1, hv, if_true, if_false, sorted, Bool.and_eq_true, decide_eq_true_eq]
        exact ⟨⟨hk, by simpa using hv⟩, ⟨⟨by omega, h.1.2⟩, h.2⟩⟩
    · by_cases h2 : k = a
      · subst h2
        by_cases hv : v = d
        · simpa [insert, hv] using sorted_mono d _ _ lo (sorted_filter d _ t (k + 1) h.2) (by omega)
        · simp only [insert, hv, Nat.lt_irrefl, if_true, if_false, sorted, Bool.and_eq_true, decide_eq_true_eq]
          exact ⟨⟨hk, by simpa using hv⟩, h.2⟩
      · simp only [insert, h1, h2, if_false, sorted, Bool.and_eq_true, decide_eq_true_eq]
        exact ⟨h.1, ih (a + 1) h.2 (by omega)⟩

/-- The empty map is canonical. -/
theorem wf_empty (d : V) : wf d ({} : FMap V) = true := rfl

/-- A write keeps the canonical form. -/
theorem wf_set (d : V) (m : FMap V) (k : Nat) (v : V) (h : wf d m = true) : wf d (m.set d k v) = true :=
  sorted_insert d m.cells k v 0 h (Nat.zero_le k)

/-- Dropping entries keeps the canonical form. -/
theorem wf_filter (d : V) (m : FMap V) (f : Nat × V → Bool) (h : wf d m = true) : wf d ⟨m.cells.filter f⟩ = true :=
  sorted_filter d f m.cells 0 h

theorem wf_clear (d : V) (m : FMap V) (lo n : Nat) (h : wf d m = true) : wf d (m.clear lo n) = true :=
  wf_filter d m _ h

theorem wf_only (d : V) (m : FMap V) (f : Nat → Bool) (h : wf d m = true) : wf d (m.only f) = true :=
  wf_filter d m _ h

/-- A run of writes keeps the canonical form. -/
theorem wf_setMany (d : V) (l : List V) : ∀ (m : FMap V) (k : Nat), wf d m = true → wf d (m.setMany d k l) = true := by
  induction l with
  | nil => intro m k h; exact h
  | cons v t ih => intro m k h; exact ih _ _ (wf_set d m k v h)

/-- Any fold of writes keeps the canonical form. -/
theorem wf_foldl_set {α : Type} (d : V) (key : α → Nat) (val : α → V) (l : List α) :
    ∀ (m : FMap V), wf d m = true → wf d (l.foldl (fun b x => b.set d (key x) (val x)) m) = true := by
  induction l with
  | nil => intro m h; exact h
  | cons x t ih => intro m h; exact ih _ (wf_set d m _ _ h)

/-- A map whose values change keeps the canonical form. -/
theorem wf_mapV (d : V) (f : V → V) (m : FMap V) (h : wf d m = true) : wf d (m.mapV d f) = true := by
  obtain ⟨l⟩ := m
  unfold wf mapV at *
  generalize 0 = lo at h ⊢
  induction l generalizing lo with
  | nil => rfl
  | cons c t ih =>
    obtain ⟨a, v⟩ := c
    simp only [sorted, Bool.and_eq_true, decide_eq_true_eq] at h
    by_cases hf : f v = d
    · simpa [hf] using sorted_mono d _ _ lo (ih (a + 1) h.2) (by omega)
    · simpa [hf, sorted, h.1.1] using ih (a + 1) h.2

/-- A read of a changed map, when the default does not change. -/
theorem get_mapV (d : V) (f : V → V) (hd : f d = d) (m : FMap V) (h : wf d m = true) (k : Nat) :
    (m.mapV d f).get d k = f (m.get d k) := by
  obtain ⟨l⟩ := m
  unfold wf mapV get at *
  generalize 0 = lo at h
  have low : ∀ (l : List (Nat × V)) (lo : Nat), sorted d l lo = true → ∀ j < lo, find d l j = d := by
    intro l lo h j hj
    cases l with
    | nil => rfl
    | cons c t =>
      obtain ⟨a, v⟩ := c
      simp only [sorted, Bool.and_eq_true, decide_eq_true_eq] at h
      simp [find, show j < a by omega]
  induction l generalizing lo with
  | nil => simp [find, hd]
  | cons c t ih =>
    obtain ⟨a, v⟩ := c
    simp only [sorted, Bool.and_eq_true, decide_eq_true_eq] at h
    have ih := ih (a + 1) h.2
    by_cases hf : f v = d
    · simp only [List.map_cons, ne_eq, hf, List.filter_cons, not_true_eq_false, decide_false, Bool.false_eq_true, if_false] at ih ⊢
      rw [ih]
      by_cases h1 : k < a
      · simp [find, h1, low t (a + 1) h.2 k (by omega)]
      · by_cases h2 : k = a
        · subst h2; simp [find, hf, hd, low t (k + 1) h.2 k (by omega)]
        · simp [find, h1, h2]
    · simp only [List.map_cons, ne_eq, hf, List.filter_cons, not_false_eq_true, decide_true, if_true, find] at ih ⊢
      by_cases h1 : k < a
      · simp [h1, hd]
      · by_cases h2 : k = a
        · simp [h2]
        · simpa [h1, h2] using ih

/-- Cells that give way to those of another map keep the canonical form, whatever that map. -/
theorem wf_replace (d : V) (m : FMap V) (f : Nat → Bool) (n : FMap V) (h : wf d m = true) :
    wf d (m.replace d f n) = true :=
  wf_foldl_set d (fun c : Nat × V => c.1) (fun c => c.2) n.cells _ (wf_only d m _ h)

end Sys2Proof.FMap
end

