-- ==== Sys2Proof/Laws/State.lean ====
section
/-! SUPPORT. What each update of State and of a group does to each part: one lemma per part, true by unfolding once. -/

namespace Sys2Proof.Machine
open Sys2Proof

/-! ## The parts of State -/

section Parts
variable (s : State) (k j : Nat)

theorem State.group_setGroup (g : Group) : (s.setGroup k g).group j = if j = k then g else s.group j := FMap.get_set ..
@[simp] theorem State.group_setGroup_same (g : Group) : (s.setGroup k g).group k = g := by simp [group_setGroup]
@[simp] theorem State.setGroup_cur (g : Group) : (s.setGroup k g).cur = s.cur := rfl
@[simp] theorem State.setGroup_mem (g : Group) : (s.setGroup k g).mem = s.mem := rfl
@[simp] theorem State.setGroup_clock (g : Group) : (s.setGroup k g).clock = s.clock := rfl
@[simp] theorem State.setGroup_others_parts (g : Group) : (s.setGroup k g).parts = s.parts := rfl
@[simp] theorem State.setGroup_grid (g : Group) : (s.setGroup k g).grid j = s.grid j := rfl
@[simp] theorem State.setGroup_team (g : Group) : (s.setGroup k g).team j = s.team j := rfl
@[simp] theorem State.setGroup_core (g : Group) : (s.setGroup k g).core j = s.core j := rfl
@[simp] theorem State.setGroup_part (g : Group) : (s.setGroup k g).part j = s.part j := rfl
@[simp] theorem State.setGroup_quad (g : Group) : (s.setGroup k g).quad j = s.quad j := rfl
@[simp] theorem State.setGroup_host (g : Group) : (s.setGroup k g).host = s.host := rfl
@[simp] theorem State.setGroup_eng (g : Group) : (s.setGroup k g).eng = s.eng := rfl

@[simp] theorem State.g_setG (g : Group) : (s.setG g).g = g := by simp [State.setG, State.g]
theorem State.group_setG (g : Group) : (s.setG g).group j = if j = s.cur.gid then g else s.group j := FMap.get_set ..
@[simp] theorem State.setG_cur (g : Group) : (s.setG g).cur = s.cur := rfl
@[simp] theorem State.setG_mem (g : Group) : (s.setG g).mem = s.mem := rfl
@[simp] theorem State.setG_clock (g : Group) : (s.setG g).clock = s.clock := rfl
@[simp] theorem State.setG_grid (g : Group) : (s.setG g).grid j = s.grid j := rfl
@[simp] theorem State.setG_team (g : Group) : (s.setG g).team j = s.team j := rfl
@[simp] theorem State.setG_core (g : Group) : (s.setG g).core j = s.core j := rfl
@[simp] theorem State.setG_part (g : Group) : (s.setG g).part j = s.part j := rfl
@[simp] theorem State.setG_quad (g : Group) : (s.setG g).quad j = s.quad j := rfl
@[simp] theorem State.setG_host (g : Group) : (s.setG g).host = s.host := rfl
@[simp] theorem State.setG_eng (g : Group) : (s.setG g).eng = s.eng := rfl
@[simp] theorem State.setG_setG (g h : Group) : ((s.setG g).setG h).g = h := by simp

theorem State.part_setPart (p : Part) : (s.setPart k p).part j = if j = k then p else s.part j := FMap.get_set ..
@[simp] theorem State.setPart_cur (p : Part) : (s.setPart k p).cur = s.cur := rfl
@[simp] theorem State.setPart_g (p : Part) : (s.setPart k p).g = s.g := rfl
@[simp] theorem State.setPart_group (p : Part) : (s.setPart k p).group j = s.group j := rfl
@[simp] theorem State.setPart_mem (p : Part) : (s.setPart k p).mem = s.mem := rfl
@[simp] theorem State.setPart_clock (p : Part) : (s.setPart k p).clock = s.clock := rfl
@[simp] theorem State.setPart_grid (p : Part) : (s.setPart k p).grid j = s.grid j := rfl
@[simp] theorem State.setPart_team (p : Part) : (s.setPart k p).team j = s.team j := rfl
@[simp] theorem State.setPart_core (p : Part) : (s.setPart k p).core j = s.core j := rfl

theorem State.team_setTeam (t : Team) : (s.setTeam k t).team j = if j = k then t else s.team j := FMap.get_set ..
theorem State.grid_setGrid (g : Grid) : (s.setGrid k g).grid j = if j = k then g else s.grid j := FMap.get_set ..
theorem State.core_setCore (c : Core) : (s.setCore k c).core j = if j = k then c else s.core j := FMap.get_set ..
theorem State.quad_setQuad (q : Quad) : (s.setQuad k q).quad j = if j = k then q else s.quad j := FMap.get_set ..
@[simp] theorem State.setTeam_g (t : Team) : (s.setTeam k t).g = s.g := rfl
@[simp] theorem State.setGrid_g (g : Grid) : (s.setGrid k g).g = s.g := rfl
@[simp] theorem State.setQuad_g (q : Quad) : (s.setQuad k q).g = s.g := rfl
@[simp] theorem State.setTeam_mem (t : Team) : (s.setTeam k t).mem = s.mem := rfl
@[simp] theorem State.setGrid_mem (g : Grid) : (s.setGrid k g).mem = s.mem := rfl
@[simp] theorem State.setQuad_mem (q : Quad) : (s.setQuad k q).mem = s.mem := rfl
@[simp] theorem State.setTeam_cur (t : Team) : (s.setTeam k t).cur = s.cur := rfl
@[simp] theorem State.setGrid_cur (g : Grid) : (s.setGrid k g).cur = s.cur := rfl
@[simp] theorem State.setQuad_cur (q : Quad) : (s.setQuad k q).cur = s.cur := rfl

end Parts

/-! ## Masks and lanes -/

@[simp] theorem Lanes.get_make (f : Nat → Word) (l : Nat) (h : l < 128) : (Lanes.make f).get l = f l := by
  simp [Lanes.make, Lanes.get, List.getD, h]

@[simp] theorem Lanes.get_merge (v : Lanes) (m : Mask) (f : Nat → Word) (l : Nat) (h : l < 128) :
    (v.merge m f).get l = if m.has l then f l else v.get l := by
  simp [Lanes.merge, h]

theorem Mask.has_one (n l : Nat) (h : n < 128) : (Mask.one n).has l = decide (l = n) := by
  simp only [Mask.has, Mask.one, BitVec.getLsbD_ofNat, Nat.testBit_two_pow]
  by_cases e : n = l
  · subst e; simp [h]
  · simp [e, Ne.symm e]

theorem Mask.has_upTo (f : Nat → Bool) (n l : Nat) (h : n ≤ 128) : (Mask.upTo f n).has l = (decide (l < n) && f l) := by
  induction n with
  | zero => simp [Mask.upTo, Mask.has]
  | succ n ih =>
    have ih := ih (by omega)
    have h1 := Mask.has_one n l (by omega)
    by_cases e : l = n
    · subst e
      by_cases hf : f l
      · simp only [Mask.upTo, hf, if_true, Mask.has, BitVec.getLsbD_or] at *
        simp [h1]
      · simp only [Mask.upTo, hf, Bool.false_eq_true, if_false]
        simpa using ih
    · have hd : decide (l < n + 1) = decide (l < n) := by
        by_cases hl : l < n
        · have : l < n + 1 := by omega
          simp [hl, this]
        · have : ¬ l < n + 1 := by omega
          simp [hl, this]
      by_cases hf : f n
      · simp only [Mask.upTo, hf, if_true, Mask.has, BitVec.getLsbD_or] at *
        rw [hd]; simp [h1, e, ih]
      · simp only [Mask.upTo, hf, Bool.false_eq_true, if_false, hd]
        exact ih

/-- The lanes of `Mask.of f` are those that satisfy f. -/
@[simp] theorem Mask.has_of (f : Nat → Bool) (l : Nat) (h : l < 128) : (Mask.of f).has l = f l := by
  simp [Mask.of, Mask.has_upTo, h]

@[simp] theorem Mask.has_and (a b : Mask) (l : Nat) : Mask.has (a &&& b) l = (a.has l && b.has l) := by
  simp [Mask.has]
@[simp] theorem Mask.has_or (a b : Mask) (l : Nat) : Mask.has (a ||| b) l = (a.has l || b.has l) := by
  simp [Mask.has]
@[simp] theorem Mask.has_diff (a b : Mask) (l : Nat) : (a.diff b).has l = (a.has l && !b.has l) := by
  by_cases h : l < 128
  · simp [Mask.has, Mask.diff, h]
  · simp [Mask.has, Mask.diff, BitVec.getLsbD_of_ge, Nat.le_of_not_lt h]
@[simp] theorem Mask.has_full (l : Nat) (h : l < 128) : Mask.full.has l = true := by
  show (BitVec.allOnes 128).getLsbD l = true
  rw [BitVec.getLsbD_allOnes]
  simp [h]

end Sys2Proof.Machine
end

