-- ==== Sys2Proof/Laws/Issue.lean ====
section
/-! SUPPORT. The shared operations of an issue, each said once: the checks before an instruction acts, moving on, and
writing registers. -/

namespace Sys2Proof.Machine
open Sys2Proof

/-! ## The frame -/

theorem MemKept.of_eq {s t : State} (hm : t.mem = s.mem) (ht : t.teams = s.teams) : MemKept s t := by
  refine ⟨?_, ?_, ?_⟩
  · intro pa; simp [State.newest, State.versOf, hm]
  · intro space place off; simp [State.winByte, State.team, hm, ht]
  · intro n a; simp [State.nodeByte, State.node, hm]

theorem State.others_mem {s t : State} (h : t.others = s.others) : t.mem = s.mem :=
  (State.mk.inj h).2.2.2.2.2.2.2.2.2.2.2.2.2.1

theorem State.others_cur {s t : State} (h : t.others = s.others) : t.cur = s.cur := (State.mk.inj h).2.2.2.2.1

theorem State.others_teams {s t : State} (h : t.others = s.others) : t.teams = s.teams :=
  (State.mk.inj h).2.2.2.2.2.2.2.2.1

/-- A change of the issuing group alone that keeps `Group.others`. -/
theorem Kept.setG (s : State) (g : Group) (h : g.others = s.g.others) : Kept s (s.setG g) where
  machine := rfl
  group := by simpa using h
  groups := fun k hk => by simp [State.group_setG, hk]
  parts := fun _ => rfl
  memory := .of_eq rfl rfl

theorem Kept.refl (s : State) : Kept s s := ⟨rfl, rfl, fun _ _ => rfl, fun _ => rfl, .of_eq rfl rfl⟩

theorem MemKept.trans {s t u : State} (h : MemKept s t) (k : MemKept t u) : MemKept s u :=
  ⟨fun a => (k.phys a).trans (h.phys a), fun a b c => (k.win a b c).trans (h.win a b c),
   fun a b => (k.node a b).trans (h.node a b)⟩

theorem Kept.trans {s t u : State} (h : Kept s t) (k : Kept t u) : Kept s u := by
  have hc := State.others_cur h.machine
  exact ⟨k.machine.trans h.machine, k.group.trans h.group,
    fun j hj => (k.groups j (by rwa [hc])).trans (h.groups j hj), fun j => (k.parts j).trans (h.parts j),
    h.memory.trans k.memory⟩

/-- The latch alone changes. -/
theorem Kept.noteLatch (s : State) (f : Foot) : Kept s (s.noteLatch f) := by
  unfold State.noteLatch
  extract_lets
  split
  · exact .refl s
  · refine ⟨rfl, rfl, fun _ _ => rfl, fun k => ?_, .of_eq rfl rfl⟩
    rw [State.part_setPart]
    split
    · rename_i h; subst h; rfl
    · rfl

@[simp] theorem State.noteLatch_g (s : State) (f : Foot) : (s.noteLatch f).g = s.g := by
  unfold State.noteLatch
  extract_lets
  split <;> rfl

/-! ## The checks -/

/-- The state that an instruction acts on once its checks have passed. -/
def State.prepared (s : State) (f : Foot) (m : Mask) : State := (s.setG ((s.g.noteReads f).mend f m)).noteLatch f

section Prepared
variable (s : State) (f : Foot) (m : Mask)

theorem Group.noteReads_eq (g : Group) : ∃ x, g.noteReads f = { g with lastDelivery := x } := by
  unfold Group.noteReads
  split
  · exact ⟨g.lastDelivery, rfl⟩
  · exact ⟨_, rfl⟩

theorem Group.mend_eq (g : Group) : ∃ x, g.mend f m = { g with bad := x } := by
  unfold Group.mend
  split
  · exact ⟨g.bad, rfl⟩
  · exact ⟨_, rfl⟩

/-- Only the soft-error marks and the reads that follow deliveries differ in the issuing group. -/
theorem State.prepared_g : ∃ x y, (s.prepared f m).g = { s.g with lastDelivery := x, bad := y } := by
  obtain ⟨x, hx⟩ := Group.noteReads_eq f s.g
  obtain ⟨y, hy⟩ := Group.mend_eq f m (s.g.noteReads f)
  have e : (s.prepared f m).g = (s.g.noteReads f).mend f m := by simp [State.prepared]
  exact ⟨x, y, by rw [e, hy, hx]⟩

theorem Kept.prepared : Kept s (s.prepared f m) := by
  refine Kept.trans (Kept.setG s _ ?_) (Kept.noteLatch _ f)
  obtain ⟨x, hx⟩ := Group.noteReads_eq f s.g
  obtain ⟨y, hy⟩ := Group.mend_eq f m (s.g.noteReads f)
  rw [hy, hx]
  rfl

@[simp] theorem State.prepared_cur : (s.prepared f m).cur = s.cur := State.others_cur (Kept.prepared s f m).machine
@[simp] theorem State.prepared_v : (s.prepared f m).g.v = s.g.v := by
  obtain ⟨x, y, h⟩ := State.prepared_g s f m; rw [h]
@[simp] theorem State.prepared_p : (s.prepared f m).g.p = s.g.p := by
  obtain ⟨x, y, h⟩ := State.prepared_g s f m; rw [h]
@[simp] theorem State.prepared_s : (s.prepared f m).g.s = s.g.s := by
  obtain ⟨x, y, h⟩ := State.prepared_g s f m; rw [h]
@[simp] theorem State.prepared_q : (s.prepared f m).g.q = s.g.q := by
  obtain ⟨x, y, h⟩ := State.prepared_g s f m; rw [h]
@[simp] theorem State.prepared_longs : (s.prepared f m).g.longs = s.g.longs := by
  obtain ⟨x, y, h⟩ := State.prepared_g s f m; rw [h]
@[simp] theorem State.prepared_spec : (s.prepared f m).g.spec = s.g.spec := by
  obtain ⟨x, y, h⟩ := State.prepared_g s f m; rw [h]
@[simp] theorem State.prepared_subs : (s.prepared f m).g.subs = s.g.subs := by
  obtain ⟨x, y, h⟩ := State.prepared_g s f m; rw [h]
@[simp] theorem State.prepared_vreg (r : Nat) : (s.prepared f m).g.vreg r = s.g.vreg r := by
  simp [Group.vreg]
@[simp] theorem State.prepared_pred (r : Nat) : (s.prepared f m).g.pred r = s.g.pred r := by
  simp [Group.pred]
@[simp] theorem State.prepared_sreg (r : Nat) : (s.prepared f m).g.sreg r = s.g.sreg r := by
  simp [Group.sreg]
@[simp] theorem State.prepared_qpred (r : Nat) : (s.prepared f m).g.qpred r = s.g.qpred r := by
  simp [Group.qpred]
@[simp] theorem State.prepared_src (r : BitVec 6) (l : Nat) : (s.prepared f m).g.src r l = s.g.src r l := by
  simp [Group.src]
@[simp] theorem State.prepared_v64 (r l : Nat) : (s.prepared f m).g.v64 r l = s.g.v64 r l := by
  simp [Group.v64]
@[simp] theorem State.prepared_src64 (r : BitVec 6) (l : Nat) : (s.prepared f m).g.src64 r l = s.g.src64 r l := by
  simp [Group.src64]
@[simp] theorem State.prepared_intB (w : LA) (x : LXA) (l : Nat) : (s.prepared f m).g.intB w x l = s.g.intB w x l := by
  simp [Group.intB]
@[simp] theorem State.prepared_codeF (t : Fp.Fmt) (r : BitVec 6) (l : Nat) :
    (s.prepared f m).g.codeF t r l = s.g.codeF t r l := by
  simp [Group.codeF]

end Prepared

theorem List.find?_none_of {α : Type} {p : α → Bool} {l : List α} (h : ∀ x ∈ l, p x = false) : l.find? p = none := by
  induction l with
  | nil => rfl
  | cons a t ih =>
    simp [h a (by simp), ih (fun x hx => h x (by simp [hx]))]

/-- Registers that pass the checks: the instruction acts. -/
theorem State.checked_clear {s : State} {f : Foot} {m : Mask} (h : s.Clear f m) (sbit : Bool)
    (k : Mask → State → Out) : s.checked sbit f m k = k m (s.prepared f m) := by
  have hb : s.g.overBudget f = none := by
    apply List.find?_none_of
    intro r hr
    have := h.budget r hr
    simp; omega
  have hf : ∀ (sub cls : Nat) (l p : List Nat), (∀ r ∈ l, r ∉ p) →
      (l.find? (fun r => p.contains r)).map (fun r => (sub, cls, r)) = none := by
    intro sub cls l p hl
    rw [List.find?_none_of]
    · rfl
    · intro x hx; simpa using hl x hx
  have hp : s.g.pendingHit f = none := by
    unfold Group.pendingHit
    simp only
    rw [hf 1 0 _ _ (fun r hr => h.pendV r (by simp [hr])), hf 1 1 _ _ (fun r hr => h.pendS r (by simp [hr])),
      hf 1 2 _ _ (fun r hr => h.pendP r (by simp [hr])), hf 1 3 _ _ (fun r hr => h.pendQ r (by simp [hr])),
      hf 2 0 _ _ (fun r hr => h.pendV r (by simp [hr])), hf 2 1 _ _ (fun r hr => h.pendS r (by simp [hr])),
      hf 2 2 _ _ (fun r hr => h.pendP r (by simp [hr])), hf 2 3 _ _ (fun r hr => h.pendQ r (by simp [hr]))]
    rfl
  have hh : s.g.heldHit f = none := by
    apply List.find?_none_of
    intro r hr
    simp [h.held r hr]
  unfold State.checked
  rw [hb, hp, hh, h.soft]
  rfl

/-- An L-set instruction that runs acts on its active lanes. -/
theorem laneIssue_runs {i : Instr} {guard : BitVec 3} {f : Foot} {s : State} (h : LaneRuns i guard f s) (sbit : Bool)
    (needHandler : Bool) (hh : needHandler = true → s.cur.handler = true) (k : Mask → State → Out) :
    laneIssue i sbit guard f needHandler s k =
      k (s.active guard) (s.prepared { f with pr := preds guard ++ f.pr } (s.active guard)) := by
  have hd : s.decodeCode i false false needHandler = 0 := by
    unfold State.decodeCode
    cases needHandler <;> simp_all [h.lane, h.fields]
  unfold laneIssue
  simp only [h.first, h.lane, h.active, hd, ne_eq, not_true_eq_false, if_false, Bool.false_eq_true]
  exact State.checked_clear h.clear sbit _

/-- A G-set instruction that runs acts. -/
theorem groupIssue_runs {i : Instr} {guard : BitVec 3} {f : Foot} {s : State} (h : GroupRuns i guard f s) (sbit : Bool)
    (aOk sup needHandler : Bool) (hs : sup = true → s.supervisor = true)
    (hh : needHandler = true → s.cur.handler = true) (k : State → Out) :
    groupIssue i sbit guard f aOk sup needHandler s k =
      k (s.prepared { f with qr := preds guard ++ f.qr } s.cur.lanes) := by
  have hd : s.decodeCode i (aOk && guard == 7) sup needHandler = 0 := by
    unfold State.decodeCode
    cases sup <;> cases needHandler <;> simp_all [h.lane, h.fields]
  unfold groupIssue
  simp only [h.first, h.lane, h.holds, hd, aRegsOk, ne_eq, not_true_eq_false, if_false, Bool.false_eq_true,
    Bool.not_true, Bool.not_false, Bool.and_false, Bool.true_or]
  exact State.checked_clear h.clear sbit _

/-- A G-set instruction that the A-slice may hold acts. -/
theorem groupIssue_slice {i : Instr} {guard : BitVec 3} {f : Foot} {s : State} (h : SliceRuns i guard f s) (sbit : Bool)
    (k : State → Out) : groupIssue i sbit guard f true false false s k = k s := by
  have hd : s.decodeCode i (true && guard == 7) false false = 0 := by
    simp [State.decodeCode, h.slice, h.always, h.fields]
  have hr : aRegsOk s f = true := by
    simp only [aRegsOk, h.slice, Bool.not_true, Bool.false_or, List.all_eq_true, decide_eq_true_eq]
    exact h.regs
  unfold groupIssue
  simp only [h.first, h.slice, hd, hr, ne_eq, not_true_eq_false, if_false, Bool.false_eq_true, Bool.not_true,
    Bool.false_and, if_true]

/-! ## Moving on -/

theorem addSub_stands (l : List Sub) (n : Sub) (h : n.lanes ≠ 0) :
    ∃ x ∈ addSub l n, x.lanes &&& n.lanes = n.lanes ∧ x.pc = n.pc ∧ (x.micro = n.micro) := by
  induction l with
  | nil => exact ⟨n, by simp only [addSub, if_neg h, List.mem_singleton], by simp, rfl, rfl⟩
  | cons a t ih =>
    by_cases hj : a.joins n
    · refine ⟨{ a with lanes := a.lanes ||| n.lanes }, by simp [addSub, hj], ?_, ?_, ?_⟩
      · ext i hi
        simp only [BitVec.getElem_and, BitVec.getElem_or]
        cases a.lanes[i] <;> cases n.lanes[i] <;> rfl
      · simp only [Sub.joins, Bool.and_eq_true, beq_iff_eq] at hj
        exact hj.1.1.1.1.1.1.1.1.1
      · simp only [Sub.joins, Bool.and_eq_true, beq_iff_eq] at hj
        have h1 := hj.1.1.1.1.1.1.1.2
        have h2 := hj.1.1.1.1.1.1.2
        simp only [Option.isNone_iff_eq_none] at h1 h2
        rw [h2]
        exact h1
    · obtain ⟨x, hx, h1⟩ := ih
      exact ⟨x, by simp [addSub, hj, hx], h1⟩

theorem Group.arriveAt_stands (g : Group) (m : Mask) (pc : Nat) (hd : Bool) (now : Nat) (h : m ≠ 0) :
    (g.arriveAt m pc hd now).standAt m pc none := by
  obtain ⟨x, hx, h1, h2, h3⟩ := addSub_stands g.subs { lanes := m, pc := pc, handler := hd, since := now } h
  exact ⟨x, hx, h1, h2, h3⟩

@[simp] theorem Group.arriveAt_others (g : Group) (m : Mask) (pc : Nat) (hd : Bool) (now : Nat) :
    (g.arriveAt m pc hd now).others = g.others := rfl

/-- Two states of a group that differ only in where its lanes stand and in the counts of `Group.others`. -/
structure Group.Same (g h : Group) : Prop where
  others : h.others = g.others
  v : h.v = g.v
  p : h.p = g.p
  s : h.s = g.s
  q : h.q = g.q
  longs : h.longs = g.longs
  spec : h.spec = g.spec

theorem Group.Same.refl (g : Group) : g.Same g := ⟨rfl, rfl, rfl, rfl, rfl, rfl, rfl⟩

theorem Group.Same.trans {g h k : Group} (a : g.Same h) (b : h.Same k) : g.Same k :=
  ⟨b.others.trans a.others, b.v.trans a.v, b.p.trans a.p, b.s.trans a.s, b.q.trans a.q, b.longs.trans a.longs,
   b.spec.trans a.spec⟩

theorem Group.Same.arrive {g h : Group} (a : g.Same h) (m : Mask) (pc : Nat) (hd : Bool) (now : Nat) :
    g.Same (h.arriveAt m pc hd now) := a.trans ⟨rfl, rfl, rfl, rfl, rfl, rfl, rfl⟩

theorem Group.Same.arrives {g : Group} (hd : Bool) (now : Nat) : ∀ (l : List (Mask × Nat)) (h : Group), g.Same h →
    g.Same (l.foldl (fun g j => g.arriveAt j.1 j.2 hd now) h) := by
  intro l
  induction l with
  | nil => intro h a; exact a
  | cons j t ih => intro h a; exact ih _ (a.arrive ..)

theorem Group.Same.subs {g h : Group} (a : g.Same h) (l : List Sub) : g.Same { h with subs := l } :=
  a.trans ⟨rfl, rfl, rfl, rfl, rfl, rfl, rfl⟩

theorem Group.Same.marker {g h : Group} (a : g.Same h) (b : Bool) : g.Same { h with marker := b } :=
  a.trans ⟨rfl, rfl, rfl, rfl, rfl, rfl, rfl⟩

/-- `leave` moves lanes and may set the marker. -/
theorem State.leave_same (s : State) (mv : Moves) :
    s.g.Same (s.leave mv).g ∧ s.leave mv = s.setG (s.leave mv).g := by
  have h0 : s.g.Same { s.g with subs := s.g.dropSub s.cur } := (Group.Same.refl _).subs _
  have h1 := Group.Same.arrives s.cur.handler s.clock mv.jumps _ h0
  refine ⟨?_, by simp only [State.leave, State.g_setG]⟩
  simp only [State.leave, State.g_setG]
  refine Group.Same.marker ?_ _
  repeat' split
  all_goals first | exact h1 | exact h1.subs _

@[simp] theorem Mask.diff_zero (m : Mask) : m.diff 0 = m := by
  show m &&& BitVec.allOnes 128 = m
  rw [BitVec.and_allOnes]

/-- With no branch the lanes stand at the next place. -/
theorem State.leave_stands (s : State) (h : s.cur.lanes ≠ 0) :
    (s.leave {}).g.standAt s.cur.lanes s.nextPlace.1 s.nextPlace.2 := by
  unfold State.leave State.nextPlace
  simp only [List.foldl_nil, Mask.diff_zero, if_true, if_neg h, State.g_setG]
  cases hm : s.cur.micro with
  | none =>
    simp only
    exact Group.arriveAt_stands _ _ _ _ _ h
  | some x =>
    obtain ⟨slot, k⟩ := x
    by_cases hk : k + 1 < (s.microOps slot).length
    · simp only [hk, if_true]
      exact ⟨_, List.mem_append_right _ (List.mem_singleton.mpr rfl), by simp, rfl, rfl⟩
    · simp only [hk, if_false]
      exact Group.arriveAt_stands _ _ _ _ _ h

/-- What `finish` does when a subgroup was issued: the lanes leave, and nothing else of the group changes. -/
theorem State.finish_same (s : State) (sbit : Bool) (mv : Moves) (h : s.cur.aslice = false) :
    s.g.Same (s.finish sbit mv).g ∧ (s.finish sbit mv).g.subs = (s.leave mv).g.subs ∧
      (s.finish sbit mv).g.wake = none := by
  have e := (s.leave_same mv).2
  have hg : ∀ x, ((s.leave mv).setG x).g = x := fun x => by simp
  have hc : (s.leave mv).cur = s.cur := by rw [e]; rfl
  refine ⟨?_, ?_, ?_⟩
  · simp only [State.finish, h, Bool.false_eq_true, if_false, hc, hg]
    exact (s.leave_same mv).1.trans ⟨rfl, rfl, rfl, rfl, rfl, rfl, rfl⟩
  · simp only [State.finish, h, Bool.false_eq_true, if_false, hc, hg]
  · simp only [State.finish, h, Bool.false_eq_true, if_false, hc, hg]

theorem Kept.finish (s : State) (sbit : Bool) (mv : Moves) (h : s.cur.aslice = false) : Kept s (s.finish sbit mv) := by
  have e := (s.leave_same mv).2
  have hc : (s.leave mv).cur = s.cur := by rw [e]; rfl
  have hk : Kept s (s.leave mv) := by rw [e]; exact .setG s _ (s.leave_same mv).1.others
  refine hk.trans ?_
  simp only [State.finish, h, Bool.false_eq_true, if_false, hc]
  exact .setG _ _ rfl

theorem Kept.cores {s t : State} (h : Kept s t) : t.cores = s.cores := (State.mk.inj h.machine).2.2.2.2.2.2.2.2.2.2.1
theorem Kept.cur {s t : State} (h : Kept s t) : t.cur = s.cur := State.others_cur h.machine
theorem Kept.mem {s t : State} (h : Kept s t) : t.mem = s.mem := State.others_mem h.machine
theorem Kept.clock {s t : State} (h : Kept s t) : t.clock = s.clock := (State.mk.inj h.machine).1
theorem Kept.grids {s t : State} (h : Kept s t) : t.grids = s.grids := (State.mk.inj h.machine).2.2.2.2.2.2.2.2.2.1
theorem Kept.coreKey {s t : State} (h : Kept s t) : t.g.coreKey = s.g.coreKey := by
  have e : t.g.others.coreKey = s.g.others.coreKey := by rw [h.group]
  exact e

/-- The next place of the issue depends on nothing that a kept state changes. -/
theorem Kept.nextPlace {s t : State} (h : Kept s t) : t.nextPlace = s.nextPlace := by
  have e : ∀ k, t.microOps k = s.microOps k := by
    intro k
    unfold State.microOps State.core
    rw [h.cores, h.coreKey]
  unfold State.nextPlace
  rw [h.cur]
  simp only [e]

theorem Advanced.of_kept {s t u : State} (h : Kept s t) (a : Advanced t u) : Advanced s u := by
  simpa only [Advanced, h.cur, h.nextPlace] using a

theorem Advanced.finish (s : State) (sbit : Bool) (h : s.cur.aslice = false) (hl : s.cur.lanes ≠ 0) :
    Advanced s (s.finish sbit {}) := by
  have hs := s.leave_stands hl
  simp only [Advanced, h, Bool.false_eq_true, if_false]
  unfold Group.standAt at *
  rw [(s.finish_same sbit {} h).2.1]
  exact hs

end Sys2Proof.Machine
end

