-- ==== Sys2Proof/Laws/Lane.lean ====
section
/-! SUPPORT. The shared issues of the lane arithmetic: what they write, and that they change nothing else. -/

namespace Sys2Proof.Machine
open Sys2Proof

/-! ## Writing registers -/

theorem Group.vreg_setV (g : Group) (r j : Nat) (v : Lanes) : (g.setV r v).vreg j = if j = r then v else g.vreg j :=
  FMap.get_set ..
@[simp] theorem Group.setV_others (g : Group) (r : Nat) (v : Lanes) : (g.setV r v).others = g.others := rfl
theorem Group.vreg_writeV (g : Group) (r j : Nat) (m : Mask) (f : Nat → Word) :
    (g.writeV r m f).vreg j = if j = r then (g.vreg r).merge m f else g.vreg j := Group.vreg_setV ..
theorem Group.pred_writeP (g : Group) (r j : Nat) (m x : Mask) :
    (g.writeP r m x).pred j = if j = r then (g.pred r).diff m ||| (x &&& m) else g.pred j := FMap.get_set ..
theorem Group.sreg_setS (g : Group) (r j : Nat) (v : Word) : (g.setS r v).sreg j = if j = r then v else g.sreg j :=
  FMap.get_set ..
theorem Group.qpred_setQ (g : Group) (r j : Nat) (v : Bool) : (g.setQ r v).qpred j = if j = r then v else g.qpred j :=
  FMap.get_set ..

/-- A write of n vector registers changes only those registers. -/
theorem Group.writeVN_eq (g : Group) (d : Nat) (m : Mask) (f : Nat → Nat) : ∀ n, ∃ v,
    g.writeVN d m f n = { g with v := v } ∧ (∀ r, (∀ j < n, r ≠ d + j) → v.get {} r = g.vreg r) ∧
      ∀ j < n, v.get {} (d + j) = (g.vreg (d + j)).merge m (fun l => BitVec.ofNat 32 (f l / 2 ^ (32 * j))) := by
  intro n
  induction n with
  | zero => exact ⟨g.v, rfl, fun _ _ => rfl, fun j hj => absurd hj (Nat.not_lt_zero j)⟩
  | succ n ih =>
    obtain ⟨v, e, h1, h2⟩ := ih
    have hn : v.get {} (d + n) = g.vreg (d + n) := h1 _ (fun j hj => by omega)
    refine ⟨v.set {} (d + n) ((g.vreg (d + n)).merge m (fun l => BitVec.ofNat 32 (f l / 2 ^ (32 * n)))), ?_, ?_, ?_⟩
    · simp only [Group.writeVN, e, Group.writeV, Group.setV, Group.vreg, hn]
    · intro r hr
      rw [FMap.get_set, if_neg (hr n (by omega))]
      exact h1 r (fun j hj => hr j (by omega))
    · intro j hj
      rw [FMap.get_set]
      by_cases e : j = n
      · simp [e]
      · rw [if_neg (by omega)]
        exact h2 j (by omega)

theorem Group.writeVN_wrote (g : Group) (d : Nat) (m : Mask) (f : Nat → Nat) (n : Nat) :
    g.wroteV (g.writeVN d m f n) d n m f := by
  obtain ⟨v, e, -, h2⟩ := g.writeVN_eq d m f n
  intro j hj l hl
  rw [e]
  show (v.get {} (d + j)).get l = _
  rw [h2 j hj, Lanes.get_merge _ _ _ _ hl]

theorem Group.writeP_wrote (g : Group) (r : Nat) (m x : Mask) : g.wroteP (g.writeP r m x) r m x.has := by
  intro l _
  rw [Group.pred_writeP, if_pos rfl]
  cases h : m.has l <;> simp [h]

/-! ## The two shared issues -/

theorem State.active_lanes {s : State} {guard : BitVec 3} (h : s.active guard ≠ 0) : s.cur.lanes ≠ 0 := by
  intro e
  apply h
  simp [State.active, e]

/-- A subgroup's instruction ends, from a state that keeps all but its registers, with its group changed to `g`. -/
theorem wrote_runs {s u : State} (hu : Kept s u) {sbit : Bool} {g : Group} {v p sr q : List Nat} {fl : Nat}
    {ls : List Long} (h : s.cur.aslice = false) (hl : s.cur.lanes ≠ 0) (ho : g.others = s.g.others)
    (hv : ∀ r, r ∉ v → g.vreg r = s.g.vreg r) (hp : ∀ r, r ∉ p → g.pred r = s.g.pred r)
    (hs : ∀ r, r ∉ sr → g.sreg r = s.g.sreg r) (hq : ∀ r, r ∉ q → g.qpred r = s.g.qpred r)
    (hf : g.spec.fpflags = s.g.spec.fpflags ||| fl) (hx : g.longs = s.g.longs ++ ls) :
    let t := (u.setG g).finish sbit {}
    Wrote s t v p sr q fl ls ∧ t.g.v = g.v ∧ t.g.p = g.p ∧ t.g.s = g.s ∧ t.g.q = g.q ∧ t.g.longs = g.longs := by
  have hc : (u.setG g).cur = s.cur := by rw [State.setG_cur, hu.cur]
  have ha : (u.setG g).cur.aslice = false := by rw [hc]; exact h
  obtain ⟨e, -, -⟩ := State.finish_same (u.setG g) sbit {} ha
  rw [State.g_setG] at e
  have k2 : Kept s (u.setG g) := hu.trans (.setG _ _ (by rw [ho]; exact hu.group.symm))
  have a := Advanced.finish (u.setG g) sbit ha (by rw [hc]; exact hl)
  refine ⟨⟨⟨fun r hr => ?_, fun r hr => ?_, fun r hr => ?_, fun r hr => ?_⟩, ?_, by rw [e.longs, hx],
    k2.trans (.finish _ sbit {} ha), .of_kept k2 a⟩, e.v, e.p, e.s, e.q, e.longs⟩
  · simpa only [Group.vreg, e.v] using hv r hr
  · simpa only [Group.pred, e.p] using hp r hr
  · simpa only [Group.sreg, e.s] using hs r hr
  · simpa only [Group.qpred, e.q] using hq r hr
  · rw [e.spec, hf]

/-- A lane instruction that writes vector registers at once. -/
theorem aluIssue_runs {i : Instr} {w : LA} {f : Foot} {n : Nat} {val : Group → Mask → Nat → Nat × Nat} {s : State}
    (h : LaneRuns i w.guard { f with vw := regs w.d n ++ f.vw } s)
    (hv : ∀ x y, val { s.g with lastDelivery := x, bad := y } = val s.g) :
    Gives (aluIssue i w f n false val s) (fun t => WroteLanes s t w.d.toNat n (s.active w.guard)
      (fun l => (val s.g (s.active w.guard) l).1) (orLanes (s.active w.guard) (fun l => (val s.g (s.active w.guard) l).2))) := by
  unfold aluIssue
  rw [laneIssue_runs h w.s false (by simp)]
  generalize ({ f with vw := regs w.d n ++ f.vw, pr := preds w.guard ++ f.pr } : Foot) = f'
  generalize hm : s.active w.guard = m
  obtain ⟨x, y, e⟩ := State.prepared_g s f' m
  have hval : val (s.prepared f' m).g m = val s.g m := by rw [e, hv]
  obtain ⟨v, e1, h1, -⟩ := Group.writeVN_eq (s.prepared f' m).g w.d.toNat m (fun l => (val s.g m l).1) n
  have hw := Group.writeVN_wrote (s.prepared f' m).g w.d.toNat m (fun l => (val s.g m l).1) n
  simp only [writeLanes, Bool.false_eq_true, if_false, hval]
  generalize hg : ((s.prepared f' m).g.writeVN w.d.toNat m (fun l => (val s.g m l).1) n).orFlags
    (orLanes m (fun l => (val s.g m l).2)) = g
  have gv : g.v = v := by rw [← hg, e1]; rfl
  have hw' : s.g.wroteV g w.d.toNat n m (fun l => (val s.g m l).1) := by
    intro j hj l hl
    have := hw j hj l hl
    rw [State.prepared_vreg, e1] at this
    simpa only [Group.vreg, gv] using this
  obtain ⟨k, c1, -⟩ := wrote_runs (Kept.prepared s f' m) (sbit := w.s) (g := g) (v := destV w.d.toNat n)
    (p := []) (sr := []) (q := []) (fl := orLanes m (fun l => (val s.g m l).2)) (ls := []) h.lane
    (State.active_lanes h.active)
    (by rw [← hg, e1, ← (Kept.prepared s f' m).group]; rfl)
    (fun r hr => by
      have := h1 r (fun j hj e => hr (by simp only [destV, List.mem_map, List.mem_range]; exact ⟨j, hj, e.symm⟩))
      simpa only [Group.vreg, gv, State.prepared_v] using this)
    (fun r _ => by rw [← State.prepared_pred s f' m, ← hg, e1]; rfl)
    (fun r _ => by rw [← State.prepared_sreg s f' m, ← hg, e1]; rfl)
    (fun r _ => by rw [← State.prepared_qpred s f' m, ← hg, e1]; rfl)
    (by rw [← State.prepared_spec s f' m, ← hg, e1]; rfl)
    (by rw [List.append_nil, ← State.prepared_longs s f' m, ← hg, e1]; rfl)
  refine ⟨_, rfl, fun j hj l hl => ?_, k⟩
  simpa only [Group.vreg, c1] using hw' j hj l hl

/-- A lane instruction that writes a lane predicate at once. -/
theorem predIssue_runs {i : Instr} {w : LA} {x : LXA} {f : Foot} {val : Group → Mask → Nat → Bool × Nat} {s : State}
    (h : LaneRuns i w.guard { f with pw := preds x.pd ++ f.pw } s)
    (hv : ∀ a b, val { s.g with lastDelivery := a, bad := b } = val s.g) :
    Gives (predIssue i w x f false val s) (fun t => WrotePred s t x.pd.toNat (s.active w.guard)
      (fun l => (val s.g (s.active w.guard) l).1) (orLanes (s.active w.guard) (fun l => (val s.g (s.active w.guard) l).2))) := by
  unfold predIssue
  rw [laneIssue_runs h w.s false (by simp)]
  generalize ({ f with pw := preds x.pd ++ f.pw, pr := preds w.guard ++ f.pr } : Foot) = f'
  generalize hm : s.active w.guard = m
  obtain ⟨a, b, e⟩ := State.prepared_g s f' m
  have hval : val (s.prepared f' m).g m = val s.g m := by rw [e, hv]
  simp only [writePred, Bool.false_eq_true, if_false, hval]
  generalize hg : ((s.prepared f' m).g.writeP x.pd.toNat m (Mask.of fun l => (val s.g m l).1)).orFlags
    (orLanes m (fun l => (val s.g m l).2)) = g
  have gp : ∀ r, g.pred r = ((s.prepared f' m).g.writeP x.pd.toNat m (Mask.of fun l => (val s.g m l).1)).pred r := by
    intro r; rw [← hg]; rfl
  obtain ⟨k, -, c2, -⟩ := wrote_runs (Kept.prepared s f' m) (sbit := w.s) (g := g) (v := [])
    (p := [x.pd.toNat]) (sr := []) (q := []) (fl := orLanes m (fun l => (val s.g m l).2)) (ls := []) h.lane
    (State.active_lanes h.active)
    (by rw [← hg, ← (Kept.prepared s f' m).group]; rfl)
    (fun r _ => by rw [← State.prepared_vreg s f' m, ← hg]; rfl)
    (fun r hr => by
      rw [gp, Group.pred_writeP, if_neg (by simpa using hr), State.prepared_pred])
    (fun r _ => by rw [← State.prepared_sreg s f' m, ← hg]; rfl)
    (fun r _ => by rw [← State.prepared_qpred s f' m, ← hg]; rfl)
    (by rw [← State.prepared_spec s f' m, ← hg]; rfl)
    (by rw [List.append_nil, ← State.prepared_longs s f' m, ← hg]; rfl)
  refine ⟨_, rfl, fun l hl => ?_, k⟩
  have hc : ∀ r, Group.pred (((s.prepared f' m).setG g).finish w.s {}).g r = g.pred r := by
    intro r; simp only [Group.pred, c2]
  rw [hc, gp, Group.writeP_wrote _ _ _ _ l hl, State.prepared_pred]
  simp [hl]

/-! ## Long results -/

/-- A long result is added to the group of the instruction, with its registers unchanged. -/
theorem State.addLong_eq (s : State) (x : Long) :
    s.addLong x = ({ s with nextId := s.nextId + 1 } : State).setG
      { s.g with longs := s.g.longs ++ [{ x with id := s.nextId, at_ := s.clock, pc := s.cur.pc }] } := rfl

/-- A subgroup's instruction ends with a long result on its way. -/
theorem pends_runs {s : State} {f : Foot} {m : Mask} {sbit : Bool} (h : s.cur.aslice = false) (hl : s.cur.lanes ≠ 0)
    (x : Long) :
    ∃ y : Long, y.vs = x.vs ∧ y.ps = x.ps ∧ y.ss = x.ss ∧ y.qs = x.qs ∧ y.flags = x.flags ∧ y.ready = x.ready ∧
      y.pc = s.cur.pc ∧ Wrote s (((s.prepared f m).addLong x).finish sbit {}) [] [] [] [] 0 [y] := by
  refine ⟨{ x with id := (s.prepared f m).nextId, at_ := (s.prepared f m).clock, pc := (s.prepared f m).cur.pc },
    rfl, rfl, rfl, rfl, rfl, rfl, by simp, ?_⟩
  rw [State.addLong_eq]
  have hk := Kept.prepared s f m
  have hu : Kept s { s.prepared f m with nextId := (s.prepared f m).nextId + 1 } :=
    ⟨hk.machine, hk.group, hk.groups, hk.parts,
      ⟨hk.memory.phys, hk.memory.win, hk.memory.node⟩⟩
  generalize hg : ({ (s.prepared f m).g with longs := (s.prepared f m).g.longs ++
    [{ x with id := (s.prepared f m).nextId, at_ := (s.prepared f m).clock, pc := (s.prepared f m).cur.pc }] } : Group) = g
  refine (wrote_runs hu (sbit := sbit) (g := g) h hl ?_ ?_ ?_ ?_ ?_ ?_ ?_).1
  · rw [← hg, ← hk.group]; rfl
  · intro r _; rw [← State.prepared_vreg s f m, ← hg]; rfl
  · intro r _; rw [← State.prepared_pred s f m, ← hg]; rfl
  · intro r _; rw [← State.prepared_sreg s f m, ← hg]; rfl
  · intro r _; rw [← State.prepared_qpred s f m, ← hg]; rfl
  · rw [Nat.or_zero, ← State.prepared_spec s f m, ← hg]
  · rw [← State.prepared_longs s f m, ← hg]

/-- A lane instruction whose vector registers are a long result. -/
theorem aluIssue_pends {i : Instr} {w : LA} {f : Foot} {n : Nat} {val : Group → Mask → Nat → Nat × Nat} {s : State}
    (h : LaneRuns i w.guard { f with vw := regs w.d n ++ f.vw } s)
    (hv : ∀ x y, val { s.g with lastDelivery := x, bad := y } = val s.g) :
    Gives (aluIssue i w f n true val s) (fun t => PendsLanes s t w.d.toNat n (s.active w.guard)
      (fun l => (val s.g (s.active w.guard) l).1) (orLanes (s.active w.guard) (fun l => (val s.g (s.active w.guard) l).2))) := by
  unfold aluIssue
  rw [laneIssue_runs h w.s false (by simp)]
  generalize ({ f with vw := regs w.d n ++ f.vw, pr := preds w.guard ++ f.pr } : Foot) = f'
  obtain ⟨a, b, e⟩ := State.prepared_g s f' (s.active w.guard)
  have hval : val (s.prepared f' (s.active w.guard)).g (s.active w.guard) = val s.g (s.active w.guard) := by rw [e, hv]
  simp only [writeLanes, if_true, hval]
  obtain ⟨y, h1, h2, h3, h4, h5, h6, h7, k⟩ := pends_runs (f := f') (m := s.active w.guard) (sbit := w.s) h.lane
    (State.active_lanes h.active) {
      vs := (List.range n).map (fun j => (w.d.toNat + j, s.active w.guard,
        Lanes.make (fun l => BitVec.ofNat 32 ((val s.g (s.active w.guard) l).1 / 2 ^ (32 * j)))))
      flags := orLanes (s.active w.guard) (fun l => (val s.g (s.active w.guard) l).2) }
  exact ⟨_, rfl, y, h1, h2, h3, h4, h5, h6, h7, k⟩

/-- A lane instruction whose lane predicate is a long result. -/
theorem predIssue_pends {i : Instr} {w : LA} {x : LXA} {f : Foot} {val : Group → Mask → Nat → Bool × Nat} {s : State}
    (h : LaneRuns i w.guard { f with pw := preds x.pd ++ f.pw } s)
    (hv : ∀ a b, val { s.g with lastDelivery := a, bad := b } = val s.g) :
    Gives (predIssue i w x f true val s) (fun t => PendsPred s t x.pd.toNat (s.active w.guard)
      (fun l => (val s.g (s.active w.guard) l).1) (orLanes (s.active w.guard) (fun l => (val s.g (s.active w.guard) l).2))) := by
  unfold predIssue
  rw [laneIssue_runs h w.s false (by simp)]
  generalize ({ f with pw := preds x.pd ++ f.pw, pr := preds w.guard ++ f.pr } : Foot) = f'
  obtain ⟨a, b, e⟩ := State.prepared_g s f' (s.active w.guard)
  have hval : val (s.prepared f' (s.active w.guard)).g (s.active w.guard) = val s.g (s.active w.guard) := by rw [e, hv]
  simp only [writePred, if_true, hval]
  obtain ⟨y, h1, h2, h3, h4, h5, h6, h7, k⟩ := pends_runs (f := f') (m := s.active w.guard) (sbit := w.s) h.lane
    (State.active_lanes h.active) {
      ps := [(x.pd.toNat, s.active w.guard, Mask.of (fun l => (val s.g (s.active w.guard) l).1))]
      flags := orLanes (s.active w.guard) (fun l => (val s.g (s.active w.guard) l).2) }
  exact ⟨_, rfl, y, h2, h1, h3, h4, h5, h6, h7, k⟩

end Sys2Proof.Machine
end

