-- ==== Sys2Proof/Laws/Memory.lean ====
section
/-! SUPPORT. The operations over memory keep its canonical form, and those that only count leave every byte alone. -/

namespace Sys2Proof.Machine
open Sys2Proof

/-- The bytes of the physical space, of scratch and of the committed versions are in canonical form. -/
structure MemSys.Canon (m : MemSys) : Prop where
  base : Memory.wf m.base = true
  scratch : Memory.wf m.scratch = true
  vers : FMap.wf [] m.vers = true

/-- The bytes of the physical space, of scratch and the versions are the same. -/
structure MemSys.Same (m n : MemSys) : Prop where
  base : n.base = m.base
  scratch : n.scratch = m.scratch
  vers : n.vers = m.vers

theorem MemSys.Same.refl (m : MemSys) : m.Same m := ⟨rfl, rfl, rfl⟩
theorem MemSys.Same.trans {m n k : MemSys} (h : m.Same n) (j : n.Same k) : m.Same k :=
  ⟨j.base.trans h.base, j.scratch.trans h.scratch, j.vers.trans h.vers⟩
theorem MemSys.Same.canon {m n : MemSys} (h : m.Same n) (c : m.Canon) : n.Canon :=
  ⟨h.base ▸ c.base, h.scratch ▸ c.scratch, h.vers ▸ c.vers⟩

/-- A fold of operations that keep a property of memory keeps it. -/
theorem foldl_keeps {α : Type} {P : State → Prop} {f : State → α → State} (hf : ∀ s a, P s → P (f s a)) (l : List α) :
    ∀ s, P s → P (l.foldl f s) := by
  induction l with
  | nil => exact fun _ h => h
  | cons a t ih => exact fun s h => ih _ (hf s a h)

theorem foldl_same {α : Type} {f : State → α → State} (hf : ∀ (s : State) (a : α), s.mem.Same (f s a).mem) (l : List α) (s : State) :
    s.mem.Same (l.foldl f s).mem :=
  foldl_keeps (P := fun t => s.mem.Same t.mem) (fun t a h => h.trans (hf t a)) l s (.refl _)

/-! ## Counting -/

@[simp] theorem State.setReg_mem (s : State) (off v : Nat) : (s.setReg off v).mem = s.mem := rfl

theorem State.countOnly_mem (s : State) (pa k : Nat) : (s.countOnly pa k).mem = s.mem := by
  unfold State.countOnly
  split
  · rfl
  · split <;> rfl

theorem State.correct_same (s : State) (n : Nat) : s.mem.Same (s.correct n).mem := by
  unfold State.correct
  split
  · exact .refl _
  · split <;> exact ⟨rfl, rfl, rfl⟩

theorem State.count_same (s : State) (pa k : Nat) : s.mem.Same (s.count pa k).mem := by
  have h := State.correct_same (s.countOnly pa k) (pa / 64)
  rwa [State.countOnly_mem] at h

theorem State.countAll_same (s : State) (l : List Nat) (k : Nat) : s.mem.Same (s.countAll l k).mem :=
  foldl_same (fun s n => s.count_same (n * 64) k) _ s

theorem State.countLines_same (s : State) (cm pa n k : Nat) : s.mem.Same (s.countLines cm pa n k).mem :=
  foldl_same (fun s a => s.count_same (s.at cm a) k) _ s

theorem State.wholeLines_same (s : State) (l : List (Nat × Byte)) : s.mem.Same (s.wholeLines l).mem := by
  unfold State.wholeLines
  simp only
  split <;> exact ⟨rfl, rfl, rfl⟩

theorem State.noticed_same (s : State) (l : List Nat) : s.mem.Same (s.noticed l).mem := ⟨rfl, rfl, rfl⟩

theorem State.stamp_same (s : State) (die : Nat) : s.mem.Same (s.stamp die).2.mem := by
  unfold State.stamp
  simp only
  split <;> exact ⟨rfl, rfl, rfl⟩

/-! ## Writing -/

theorem MemSys.addVer_canon {m : MemSys} (h : m.Canon) (o : Owner) (stamp pa : Nat) (v : Byte) :
    (m.addVer o stamp pa v).Canon := ⟨h.base, h.scratch, FMap.wf_set _ _ _ _ h.vers⟩

theorem MemSys.addVers_canon (o : Owner) (stamp : Nat) : ∀ (l : List (Nat × Byte)) (m : MemSys), m.Canon →
    (m.addVers o stamp l).Canon := by
  intro l
  induction l with
  | nil => exact fun _ h => h
  | cons c t ih => exact fun m h => ih _ (MemSys.addVer_canon h o stamp c.1 c.2)

/-- A commit of an agent (R163). -/
theorem State.commitNow_canon {s : State} (h : s.mem.Canon) (o : Owner) (l : List (Nat × Byte)) :
    (s.commitNow o l).mem.Canon := by
  unfold State.commitNow
  split
  · exact h
  · refine (State.countAll_same ..).canon ((State.noticed_same ..).canon ((State.wholeLines_same ..).canon ?_))
    exact MemSys.addVers_canon _ _ _ _ ((State.stamp_same ..).canon h)

/-- The newest version overwritten in place. -/
theorem State.patch_canon {s : State} (h : s.mem.Canon) (pa : Nat) (v : Byte) : (s.patch pa v).mem.Canon := by
  unfold State.patch
  split
  · exact ⟨h.base, h.scratch, FMap.wf_set _ _ _ _ h.vers⟩
  · exact ⟨FMap.wf_set _ _ _ _ h.base, h.scratch, h.vers⟩

theorem State.patchN_canon {s : State} (h : s.mem.Canon) (pa n v : Nat) : (s.patchN pa n v).mem.Canon :=
  foldl_keeps (P := fun t => t.mem.Canon) (fun _ x h => State.patch_canon h x.1 x.2) _ s h

/-- An observer's record (R210). -/
theorem State.record_canon {s : State} (h : s.mem.Canon) (pa : Nat) (l : List Byte) : (s.record pa l).mem.Canon := by
  have hs := (s.stamp_same (homeOf (s.at 0 pa)).1).canon h
  refine (State.countAll_same ..).canon ((State.noticed_same ..).canon ((State.wholeLines_same ..).canon ?_))
  exact MemSys.addVers_canon _ _ _ _ ⟨FMap.wf_foldl_set 0 _ _ _ _ hs.base, hs.scratch, FMap.wf_foldl_set [] _ (fun _ => []) _ _ hs.vers⟩

theorem State.ringPut_canon {s : State} (h : s.mem.Canon) (die ring : Nat) (l : List Byte) :
    (s.ringPut die ring l).mem.Canon := by
  unfold State.ringPut
  simp only
  repeat' split
  all_goals first | exact h | exact State.record_canon h _ _

/-- An image written, or a place cleared (R198). -/
theorem State.placeImage_canon {s : State} (h : s.mem.Canon) (pa n : Nat) (m : FMap Byte) :
    (s.placeImage pa n m).mem.Canon :=
  (State.countLines_same ..).canon
    ⟨FMap.wf_foldl_set 0 _ _ _ _ (FMap.wf_clear 0 _ _ _ h.base), h.scratch, FMap.wf_clear [] _ _ _ h.vers⟩

/-! ## Team memory and scratch -/

theorem State.setWinByte_canon {s : State} (h : s.mem.Canon) (space place off : Nat) (b : Byte) :
    (s.setWinByte space place off b).mem.Canon := by
  unfold State.setWinByte
  split
  · exact h
  · exact ⟨h.base, FMap.wf_set _ _ _ _ h.scratch, h.vers⟩

/-- Every team's memory is in canonical form. -/
def State.TeamsCanon (s : State) : Prop := ∀ k, Memory.wf (s.team k).tmem = true

theorem State.setWinByte_teams {s : State} (h : s.TeamsCanon) (space place off : Nat) (b : Byte) :
    (s.setWinByte space place off b).TeamsCanon := by
  unfold State.setWinByte
  split
  · intro k
    unfold State.setTeam State.team
    rw [FMap.get_set]
    split
    · exact FMap.wf_set _ _ _ _ (h place)
    · exact h k
  · exact h

theorem State.putWin_keeps {P : State → Prop} (space place : Nat)
    (hf : ∀ s off b, P s → P (State.setWinByte s space place off b)) :
    ∀ (l : List Byte) (s : State) (off : Nat), P s → P (s.putWin space place off l) := by
  intro l
  induction l with
  | nil => exact fun _ _ h => h
  | cons b t ih => exact fun s off h => ih _ _ (hf s off b h)

theorem State.freshWords_same (s : State) (space place off n : Nat) : s.mem.Same (s.freshWords space place off n).mem := by
  unfold State.freshWords
  split <;> exact ⟨rfl, rfl, rfl⟩

theorem State.setWinN_canon {s : State} (h : s.mem.Canon) (space place off : Nat) (l : List Byte) :
    (s.setWinN space place off l).mem.Canon :=
  State.putWin_keeps (P := fun t => t.mem.Canon) _ _ (fun _ _ _ h => State.setWinByte_canon h _ _ _ _) l _ _
    ((State.freshWords_same ..).canon h)

theorem State.setWinN_teams {s : State} (h : s.TeamsCanon) (space place off : Nat) (l : List Byte) :
    (s.setWinN space place off l).TeamsCanon := by
  refine State.putWin_keeps (P := State.TeamsCanon) _ _ (fun _ _ _ h => State.setWinByte_teams h _ _ _ _) l _ _ ?_
  unfold State.freshWords
  split <;> exact h

/-! ## Moving and trimming -/

theorem wf_moveKeys {V : Type} [DecidableEq V] (d : V) (m : FMap V) (src dst n u : Nat) (h : FMap.wf d m = true) :
    FMap.wf d (moveKeys d m src dst n u) = true :=
  FMap.wf_foldl_set d (fun c : Nat × V => c.1 - src / u + dst / u) (fun c => c.2) _ _
    (FMap.wf_clear d _ _ _ (FMap.wf_clear d _ _ _ h))

theorem MemSys.moveRun_canon {m : MemSys} (h : m.Canon) (r : Nat × Nat × Nat) : (m.moveRun r).Canon :=
  ⟨wf_moveKeys 0 _ _ _ _ _ h.base, h.scratch, wf_moveKeys [] _ _ _ _ _ h.vers⟩

/-- A page that changes its frame (R185). -/
theorem State.movePage_canon {s : State} (h : s.mem.Canon) (cm src dst n : Nat) : (s.movePage cm src dst n).mem.Canon := by
  show MemSys.Canon ((s.runsOf cm src dst n).foldl MemSys.moveRun s.mem)
  generalize s.runsOf cm src dst n = l
  revert h
  generalize s.mem = m
  induction l generalizing m with
  | nil => exact id
  | cons r t ih => exact fun h => ih _ (MemSys.moveRun_canon h r)

/-- A group's image written at the place chosen for it (R198). -/
theorem State.writeImage_canon {s : State} (h : s.mem.Canon) (gid : Nat) : (s.writeImage gid).mem.Canon := by
  unfold State.writeImage
  extract_lets g r t
  refine State.placeImage_canon ?_ _ _ _
  show r.2.mem.Canon
  show (ite _ _ _ : Nat × State).2.mem.Canon
  split <;> exact h

theorem State.revive_canon {s : State} (h : s.mem.Canon) (k : Nat) (g : Group) : (s.revive k g).mem.Canon := by
  unfold State.revive
  extract_lets n t
  have ht : t.mem.Canon := by
    show (ite _ _ _ : State).mem.Canon
    split
    · exact h
    · exact ⟨h.base, h.scratch, h.vers⟩
  split
  · exact ht
  · exact State.writeImage_canon (s := t.setGroup k _) ht _

/-- A snapshot restored (R115). -/
theorem State.restore_canon {s : State} (h : s.mem.Canon) (x : Snap) (l : List Nat) : (s.restore x l).mem.Canon := by
  refine foldl_keeps (P := fun t => t.mem.Canon) (fun _ (c : Nat × Group) h => State.revive_canon h c.1 c.2) _ _ ?_
  show (List.foldl _ _ _ : State).mem.Canon
  apply foldl_keeps (P := fun t : State => t.mem.Canon)
  · exact fun _ _ h => h
  · exact ⟨h.base, FMap.wf_replace 0 _ _ _ h.scratch, FMap.wf_mapV [] _ _ h.vers⟩

end Sys2Proof.Machine
end

