-- ==== Sys2Proof/Laws/PerInstr.lean ====
section
/-! SUPPORT. A law of every instruction as syntax: its words are words, and its first word tells how many there are. -/

open Sys2Proof

namespace Sys2Proof.Laws

/-- The opcode of a first word is one of those that no extension word follows (13 R238, R239). -/
def isShort (w : Nat) : Bool := if isG w then shortG.contains (opG w) else shortL.contains (opL w)

/-- The words that the encoder writes for an instruction are 32-bit words, one or two, and the first says by its opcode
whether an extension follows (13 R227, R241). An event has no words. -/
def WordFits.Statement (i : Instr) : Prop :=
  (∀ w ∈ encode i, w < 2 ^ 32) ∧
  (encode i = [] ∨ (∃ w, encode i = [w] ∧ isShort w = true) ∨ ∃ w e, encode i = [w, e] ∧ isShort w = false)

/-! ## The bounds and the opcode of each form -/

theorem laWord_lt (op : Nat) (w : LA) (h : op < 128) : laWord op w < 2 ^ 31 := by
  simp only [laWord]; have := w.b.isLt; have := w.a.isLt; have := w.d.isLt; have := w.guard.isLt; have := w.hold.isLt
  have := Bool.toNat_le w.s; omega
theorem lbWord_lt (op : Nat) (w : LB) (h : op < 128) : lbWord op w < 2 ^ 31 := by
  simp only [lbWord]; have := w.off.isLt; have := w.guard.isLt; have := Bool.toNat_le w.z; have := Bool.toNat_le w.u
  have := Bool.toNat_le w.s; omega
theorem gaWord_lt (op : Nat) (w : GA) (h : op < 128) : 2 ^ 31 ≤ gaWord op w ∧ gaWord op w < 2 ^ 32 := by
  simp only [gaWord]; have := w.x.isLt; have := w.a.isLt; have := w.d.isLt; have := w.guard.isLt
  have := Bool.toNat_le w.i; have := Bool.toNat_le w.s; omega
theorem lxaWord_lt (x : LXA) : lxaWord x < 2 ^ 32 := by
  simp only [lxaWord]; have := x.imm.isLt; have := x.pd.isLt; have := x.ty.isLt; have := x.rnd.isLt; have := x.c.isLt
  have := Bool.toNat_le x.sat; have := Bool.toNat_le x.abs; have := Bool.toNat_le x.na; have := Bool.toNat_le x.nb
  have := Bool.toNat_le x.nc; omega
theorem lxmWord_lt (x : LXM) : lxmWord x < 2 ^ 32 := by
  simp only [lxmWord]; have := x.off.isLt; have := x.rp.isLt; have := x.aop.isLt; have := x.fe.isLt; have := x.width.isLt
  have := x.space.isLt; have := Bool.toNat_le x.sgn; omega
theorem lxbWord_lt (x : LXB) : lxbWord x < 2 ^ 32 := by
  simp only [lxbWord]; have := x.n.isLt; have := x.rsv.isLt; have := x.a.isLt; omega
theorem gxcWord_lt (x : GXC) : gxcWord x < 2 ^ 32 := by
  simp only [gxcWord]; have := x.imm.isLt; have := x.ty.isLt; have := x.queue.isLt; have := x.pred.isLt
  have := x.sub.isLt; omega
theorem gxcallWord_lt (x : GXCall) : gxcallWord x < 2 ^ 32 := by
  simp only [gxcallWord]; have := x.slot.isLt; have := x.npar.isLt; have := x.pard.isLt; have := x.parc.isLt
  have := x.parb.isLt; have := x.para.isLt; omega
theorem gxeWord_lt (x : GXE) : gxeWord x < 2 ^ 32 := by
  simp only [gxeWord]; have := x.rsv.isLt; have := x.form.isLt; have := x.acc.isLt; have := x.typeb.isLt
  have := x.typea.isLt; have := x.smode.isLt; have := x.gform.isLt; have := x.bsel.isLt; have := x.eq.isLt; omega

theorem opL_laWord (op : Nat) (w : LA) (h : op < 128) : opL (laWord op w) = op := by
  simp only [opL, laWord]; have := w.b.isLt; have := w.a.isLt; have := w.d.isLt; omega
theorem opL_lbWord (op : Nat) (w : LB) (h : op < 128) : opL (lbWord op w) = op := by
  simp only [opL, lbWord]; have := w.off.isLt; omega
theorem opG_gaWord (op : Nat) (w : GA) (h : op < 128) : opG (gaWord op w) = op := by
  simp only [opG, gaWord]; have := w.x.isLt; have := w.a.isLt; have := w.d.isLt; have := Bool.toNat_le w.i; omega

theorem isG_laWord (op : Nat) (w : LA) (h : op < 128) : isG (laWord op w) = false := by
  have := laWord_lt op w h; simp [isG, bit]; omega
theorem isG_lbWord (op : Nat) (w : LB) (h : op < 128) : isG (lbWord op w) = false := by
  have := lbWord_lt op w h; simp [isG, bit]; omega
theorem isG_gaWord (op : Nat) (w : GA) (h : op < 128) : isG (gaWord op w) = true := by
  have := gaWord_lt op w h; simp [isG, bit]; omega

theorem isShort_la (op : Nat) (w : LA) (h : op < 128) : isShort (laWord op w) = shortL.contains op := by
  rw [isShort, isG_laWord op w h, opL_laWord op w h, if_neg Bool.false_ne_true]
theorem isShort_lb (op : Nat) (w : LB) (h : op < 128) : isShort (lbWord op w) = shortL.contains op := by
  rw [isShort, isG_lbWord op w h, opL_lbWord op w h, if_neg Bool.false_ne_true]
theorem isShort_ga (op : Nat) (w : GA) (h : op < 128) : isShort (gaWord op w) = shortG.contains op := by
  rw [isShort, isG_gaWord op w h, opG_gaWord op w h, if_pos rfl]

/-! ## One word, and two -/

theorem fits_one {i : Instr} {w : Nat} (h : encode i = [w]) (lt : w < 2 ^ 32) (e : isShort w = true) :
    WordFits.Statement i := by
  refine ⟨fun v hv => ?_, .inr (.inl ⟨w, h, e⟩)⟩
  rw [h] at hv; simp at hv; omega
theorem fits_two {i : Instr} {w e : Nat} (h : encode i = [w, e]) (lt : w < 2 ^ 32) (le : e < 2 ^ 32)
    (x : isShort w = false) : WordFits.Statement i := by
  refine ⟨fun v hv => ?_, .inr (.inr ⟨w, e, h, x⟩)⟩
  rw [h] at hv; simp at hv; omega

theorem fits_la1 {i : Instr} (op : Nat) (w : LA) (h : encode i = [laWord op w]) (o : op < 128 ∧ shortL.contains op = true) :
    WordFits.Statement i :=
  fits_one h (by have := laWord_lt op w o.1; omega) ((isShort_la op w o.1).trans o.2)
theorem fits_la2 {i : Instr} {e : Nat} (op : Nat) (w : LA) (h : encode i = [laWord op w, e])
    (o : op < 128 ∧ shortL.contains op = false) (le : e < 2 ^ 32) : WordFits.Statement i :=
  fits_two h (by have := laWord_lt op w o.1; omega) le ((isShort_la op w o.1).trans o.2)
theorem fits_lb1 {i : Instr} (op : Nat) (w : LB) (h : encode i = [lbWord op w]) (o : op < 128 ∧ shortL.contains op = true) :
    WordFits.Statement i :=
  fits_one h (by have := lbWord_lt op w o.1; omega) ((isShort_lb op w o.1).trans o.2)
theorem fits_lb2 {i : Instr} {e : Nat} (op : Nat) (w : LB) (h : encode i = [lbWord op w, e])
    (o : op < 128 ∧ shortL.contains op = false) (le : e < 2 ^ 32) : WordFits.Statement i :=
  fits_two h (by have := lbWord_lt op w o.1; omega) le ((isShort_lb op w o.1).trans o.2)
theorem fits_ga1 {i : Instr} (op : Nat) (w : GA) (h : encode i = [gaWord op w]) (o : op < 128 ∧ shortG.contains op = true) :
    WordFits.Statement i :=
  fits_one h (gaWord_lt op w o.1).2 ((isShort_ga op w o.1).trans o.2)
theorem fits_ga2 {i : Instr} {e : Nat} (op : Nat) (w : GA) (h : encode i = [gaWord op w, e])
    (o : op < 128 ∧ shortG.contains op = false) (le : e < 2 ^ 32) : WordFits.Statement i :=
  fits_two h (gaWord_lt op w o.1).2 le ((isShort_ga op w o.1).trans o.2)
theorem fits_event {i : Instr} (h : encode i = []) : WordFits.Statement i := by
  refine ⟨fun v hv => ?_, .inl h⟩
  rw [h] at hv; cases hv

end Sys2Proof.Laws

open Sys2Proof.Laws

theorem Sys2Proof.Laws.WordFits.nop (w : LA) : Sys2Proof.Laws.WordFits.Statement (.nop w) := fits_la1 0x00 w rfl (by decide)
theorem Sys2Proof.Laws.WordFits.mov (w : LA) : Sys2Proof.Laws.WordFits.Statement (.mov w) := fits_la1 0x01 w rfl (by decide)
theorem Sys2Proof.Laws.WordFits.movi (w : LA) (lit : Word) : Sys2Proof.Laws.WordFits.Statement (.movi w lit) := fits_la2 0x02 w rfl (by decide) (BitVec.isLt lit)
theorem Sys2Proof.Laws.WordFits.sel (w : LA) (x : LXA) : Sys2Proof.Laws.WordFits.Statement (.sel w x) := fits_la2 0x03 w rfl (by decide) (lxaWord_lt x)
theorem Sys2Proof.Laws.WordFits.iadd (w : LA) (x : LXA) : Sys2Proof.Laws.WordFits.Statement (.iadd w x) := fits_la2 0x04 w rfl (by decide) (lxaWord_lt x)
theorem Sys2Proof.Laws.WordFits.isub (w : LA) (x : LXA) : Sys2Proof.Laws.WordFits.Statement (.isub w x) := fits_la2 0x05 w rfl (by decide) (lxaWord_lt x)
theorem Sys2Proof.Laws.WordFits.imul (w : LA) (x : LXA) : Sys2Proof.Laws.WordFits.Statement (.imul w x) := fits_la2 0x06 w rfl (by decide) (lxaWord_lt x)
theorem Sys2Proof.Laws.WordFits.imulh (w : LA) (x : LXA) : Sys2Proof.Laws.WordFits.Statement (.imulh w x) := fits_la2 0x07 w rfl (by decide) (lxaWord_lt x)
theorem Sys2Proof.Laws.WordFits.imad (w : LA) (x : LXA) : Sys2Proof.Laws.WordFits.Statement (.imad w x) := fits_la2 0x08 w rfl (by decide) (lxaWord_lt x)
theorem Sys2Proof.Laws.WordFits.imin (w : LA) (x : LXA) : Sys2Proof.Laws.WordFits.Statement (.imin w x) := fits_la2 0x09 w rfl (by decide) (lxaWord_lt x)
theorem Sys2Proof.Laws.WordFits.imax (w : LA) (x : LXA) : Sys2Proof.Laws.WordFits.Statement (.imax w x) := fits_la2 0x0A w rfl (by decide) (lxaWord_lt x)
theorem Sys2Proof.Laws.WordFits.iabs (w : LA) (x : LXA) : Sys2Proof.Laws.WordFits.Statement (.iabs w x) := fits_la2 0x0B w rfl (by decide) (lxaWord_lt x)
theorem Sys2Proof.Laws.WordFits.ineg (w : LA) (x : LXA) : Sys2Proof.Laws.WordFits.Statement (.ineg w x) := fits_la2 0x0C w rfl (by decide) (lxaWord_lt x)
theorem Sys2Proof.Laws.WordFits.lea (w : LA) (x : LXA) : Sys2Proof.Laws.WordFits.Statement (.lea w x) := fits_la2 0x0D w rfl (by decide) (lxaWord_lt x)
theorem Sys2Proof.Laws.WordFits.iset (w : LA) (x : LXA) : Sys2Proof.Laws.WordFits.Statement (.iset w x) := fits_la2 0x0E w rfl (by decide) (lxaWord_lt x)
theorem Sys2Proof.Laws.WordFits.andL (w : LA) (x : LXA) : Sys2Proof.Laws.WordFits.Statement (.andL w x) := fits_la2 0x10 w rfl (by decide) (lxaWord_lt x)
theorem Sys2Proof.Laws.WordFits.orL (w : LA) (x : LXA) : Sys2Proof.Laws.WordFits.Statement (.orL w x) := fits_la2 0x11 w rfl (by decide) (lxaWord_lt x)
theorem Sys2Proof.Laws.WordFits.xorL (w : LA) (x : LXA) : Sys2Proof.Laws.WordFits.Statement (.xorL w x) := fits_la2 0x12 w rfl (by decide) (lxaWord_lt x)
theorem Sys2Proof.Laws.WordFits.andnL (w : LA) (x : LXA) : Sys2Proof.Laws.WordFits.Statement (.andnL w x) := fits_la2 0x13 w rfl (by decide) (lxaWord_lt x)
theorem Sys2Proof.Laws.WordFits.notL (w : LA) (x : LXA) : Sys2Proof.Laws.WordFits.Statement (.notL w x) := fits_la2 0x14 w rfl (by decide) (lxaWord_lt x)
theorem Sys2Proof.Laws.WordFits.shl (w : LA) (x : LXA) : Sys2Proof.Laws.WordFits.Statement (.shl w x) := fits_la2 0x15 w rfl (by decide) (lxaWord_lt x)
theorem Sys2Proof.Laws.WordFits.shr (w : LA) (x : LXA) : Sys2Proof.Laws.WordFits.Statement (.shr w x) := fits_la2 0x16 w rfl (by decide) (lxaWord_lt x)
theorem Sys2Proof.Laws.WordFits.sar (w : LA) (x : LXA) : Sys2Proof.Laws.WordFits.Statement (.sar w x) := fits_la2 0x17 w rfl (by decide) (lxaWord_lt x)
theorem Sys2Proof.Laws.WordFits.rotl (w : LA) (x : LXA) : Sys2Proof.Laws.WordFits.Statement (.rotl w x) := fits_la2 0x18 w rfl (by decide) (lxaWord_lt x)
theorem Sys2Proof.Laws.WordFits.popc (w : LA) (x : LXA) : Sys2Proof.Laws.WordFits.Statement (.popc w x) := fits_la2 0x19 w rfl (by decide) (lxaWord_lt x)
theorem Sys2Proof.Laws.WordFits.clz (w : LA) (x : LXA) : Sys2Proof.Laws.WordFits.Statement (.clz w x) := fits_la2 0x1A w rfl (by decide) (lxaWord_lt x)
theorem Sys2Proof.Laws.WordFits.brev (w : LA) (x : LXA) : Sys2Proof.Laws.WordFits.Statement (.brev w x) := fits_la2 0x1B w rfl (by decide) (lxaWord_lt x)
theorem Sys2Proof.Laws.WordFits.bfe (w : LA) (x : LXA) : Sys2Proof.Laws.WordFits.Statement (.bfe w x) := fits_la2 0x1C w rfl (by decide) (lxaWord_lt x)
theorem Sys2Proof.Laws.WordFits.bfi (w : LA) (x : LXA) : Sys2Proof.Laws.WordFits.Statement (.bfi w x) := fits_la2 0x1D w rfl (by decide) (lxaWord_lt x)
theorem Sys2Proof.Laws.WordFits.prmt (w : LA) (x : LXA) : Sys2Proof.Laws.WordFits.Statement (.prmt w x) := fits_la2 0x1E w rfl (by decide) (lxaWord_lt x)
theorem Sys2Proof.Laws.WordFits.pset (w : LA) (x : LXA) : Sys2Proof.Laws.WordFits.Statement (.pset w x) := fits_la2 0x1F w rfl (by decide) (lxaWord_lt x)
theorem Sys2Proof.Laws.WordFits.fadd (w : LA) (x : LXA) : Sys2Proof.Laws.WordFits.Statement (.fadd w x) := fits_la2 0x20 w rfl (by decide) (lxaWord_lt x)
theorem Sys2Proof.Laws.WordFits.fsub (w : LA) (x : LXA) : Sys2Proof.Laws.WordFits.Statement (.fsub w x) := fits_la2 0x21 w rfl (by decide) (lxaWord_lt x)
theorem Sys2Proof.Laws.WordFits.fmul (w : LA) (x : LXA) : Sys2Proof.Laws.WordFits.Statement (.fmul w x) := fits_la2 0x22 w rfl (by decide) (lxaWord_lt x)
theorem Sys2Proof.Laws.WordFits.ffma (w : LA) (x : LXA) : Sys2Proof.Laws.WordFits.Statement (.ffma w x) := fits_la2 0x23 w rfl (by decide) (lxaWord_lt x)
theorem Sys2Proof.Laws.WordFits.fmin (w : LA) (x : LXA) : Sys2Proof.Laws.WordFits.Statement (.fmin w x) := fits_la2 0x24 w rfl (by decide) (lxaWord_lt x)
theorem Sys2Proof.Laws.WordFits.fmax (w : LA) (x : LXA) : Sys2Proof.Laws.WordFits.Statement (.fmax w x) := fits_la2 0x25 w rfl (by decide) (lxaWord_lt x)
theorem Sys2Proof.Laws.WordFits.fset (w : LA) (x : LXA) : Sys2Proof.Laws.WordFits.Statement (.fset w x) := fits_la2 0x26 w rfl (by decide) (lxaWord_lt x)
theorem Sys2Proof.Laws.WordFits.fclass (w : LA) (x : LXA) : Sys2Proof.Laws.WordFits.Statement (.fclass w x) := fits_la2 0x27 w rfl (by decide) (lxaWord_lt x)
theorem Sys2Proof.Laws.WordFits.frcp (w : LA) (x : LXA) : Sys2Proof.Laws.WordFits.Statement (.frcp w x) := fits_la2 0x28 w rfl (by decide) (lxaWord_lt x)
theorem Sys2Proof.Laws.WordFits.fsqrt (w : LA) (x : LXA) : Sys2Proof.Laws.WordFits.Statement (.fsqrt w x) := fits_la2 0x29 w rfl (by decide) (lxaWord_lt x)
theorem Sys2Proof.Laws.WordFits.frsq (w : LA) (x : LXA) : Sys2Proof.Laws.WordFits.Statement (.frsq w x) := fits_la2 0x2A w rfl (by decide) (lxaWord_lt x)
theorem Sys2Proof.Laws.WordFits.fex2 (w : LA) (x : LXA) : Sys2Proof.Laws.WordFits.Statement (.fex2 w x) := fits_la2 0x2B w rfl (by decide) (lxaWord_lt x)
theorem Sys2Proof.Laws.WordFits.flg2 (w : LA) (x : LXA) : Sys2Proof.Laws.WordFits.Statement (.flg2 w x) := fits_la2 0x2C w rfl (by decide) (lxaWord_lt x)
theorem Sys2Proof.Laws.WordFits.dadd (w : LA) (x : LXA) : Sys2Proof.Laws.WordFits.Statement (.dadd w x) := fits_la2 0x30 w rfl (by decide) (lxaWord_lt x)
theorem Sys2Proof.Laws.WordFits.dmul (w : LA) (x : LXA) : Sys2Proof.Laws.WordFits.Statement (.dmul w x) := fits_la2 0x31 w rfl (by decide) (lxaWord_lt x)
theorem Sys2Proof.Laws.WordFits.dfma (w : LA) (x : LXA) : Sys2Proof.Laws.WordFits.Statement (.dfma w x) := fits_la2 0x32 w rfl (by decide) (lxaWord_lt x)
theorem Sys2Proof.Laws.WordFits.dmin (w : LA) (x : LXA) : Sys2Proof.Laws.WordFits.Statement (.dmin w x) := fits_la2 0x33 w rfl (by decide) (lxaWord_lt x)
theorem Sys2Proof.Laws.WordFits.dmax (w : LA) (x : LXA) : Sys2Proof.Laws.WordFits.Statement (.dmax w x) := fits_la2 0x34 w rfl (by decide) (lxaWord_lt x)
theorem Sys2Proof.Laws.WordFits.dset (w : LA) (x : LXA) : Sys2Proof.Laws.WordFits.Statement (.dset w x) := fits_la2 0x35 w rfl (by decide) (lxaWord_lt x)
theorem Sys2Proof.Laws.WordFits.drcp (w : LA) (x : LXA) : Sys2Proof.Laws.WordFits.Statement (.drcp w x) := fits_la2 0x36 w rfl (by decide) (lxaWord_lt x)
theorem Sys2Proof.Laws.WordFits.dsqrt (w : LA) (x : LXA) : Sys2Proof.Laws.WordFits.Statement (.dsqrt w x) := fits_la2 0x37 w rfl (by decide) (lxaWord_lt x)
theorem Sys2Proof.Laws.WordFits.hadd2 (w : LA) (x : LXA) : Sys2Proof.Laws.WordFits.Statement (.hadd2 w x) := fits_la2 0x38 w rfl (by decide) (lxaWord_lt x)
theorem Sys2Proof.Laws.WordFits.hmul2 (w : LA) (x : LXA) : Sys2Proof.Laws.WordFits.Statement (.hmul2 w x) := fits_la2 0x39 w rfl (by decide) (lxaWord_lt x)
theorem Sys2Proof.Laws.WordFits.hfma2 (w : LA) (x : LXA) : Sys2Proof.Laws.WordFits.Statement (.hfma2 w x) := fits_la2 0x3A w rfl (by decide) (lxaWord_lt x)
theorem Sys2Proof.Laws.WordFits.hmin2 (w : LA) (x : LXA) : Sys2Proof.Laws.WordFits.Statement (.hmin2 w x) := fits_la2 0x3B w rfl (by decide) (lxaWord_lt x)
theorem Sys2Proof.Laws.WordFits.hmax2 (w : LA) (x : LXA) : Sys2Proof.Laws.WordFits.Statement (.hmax2 w x) := fits_la2 0x3C w rfl (by decide) (lxaWord_lt x)
theorem Sys2Proof.Laws.WordFits.cvt (w : LA) (x : LXA) : Sys2Proof.Laws.WordFits.Statement (.cvt w x) := fits_la2 0x40 w rfl (by decide) (lxaWord_lt x)
theorem Sys2Proof.Laws.WordFits.qnt (w : LA) (x : LXA) : Sys2Proof.Laws.WordFits.Statement (.qnt w x) := fits_la2 0x41 w rfl (by decide) (lxaWord_lt x)
theorem Sys2Proof.Laws.WordFits.dqnt (w : LA) (x : LXA) : Sys2Proof.Laws.WordFits.Statement (.dqnt w x) := fits_la2 0x42 w rfl (by decide) (lxaWord_lt x)
theorem Sys2Proof.Laws.WordFits.scle (w : LA) (x : LXA) : Sys2Proof.Laws.WordFits.Statement (.scle w x) := fits_la2 0x43 w rfl (by decide) (lxaWord_lt x)
theorem Sys2Proof.Laws.WordFits.pack (w : LA) (x : LXA) : Sys2Proof.Laws.WordFits.Statement (.pack w x) := fits_la2 0x44 w rfl (by decide) (lxaWord_lt x)
theorem Sys2Proof.Laws.WordFits.unpk (w : LA) (x : LXA) : Sys2Proof.Laws.WordFits.Statement (.unpk w x) := fits_la2 0x45 w rfl (by decide) (lxaWord_lt x)
theorem Sys2Proof.Laws.WordFits.shfl (w : LA) (x : LXA) : Sys2Proof.Laws.WordFits.Statement (.shfl w x) := fits_la2 0x48 w rfl (by decide) (lxaWord_lt x)
theorem Sys2Proof.Laws.WordFits.vote (w : LA) (x : LXA) : Sys2Proof.Laws.WordFits.Statement (.vote w x) := fits_la2 0x49 w rfl (by decide) (lxaWord_lt x)
theorem Sys2Proof.Laws.WordFits.redux (w : LA) (x : LXA) : Sys2Proof.Laws.WordFits.Statement (.redux w x) := fits_la2 0x4A w rfl (by decide) (lxaWord_lt x)
theorem Sys2Proof.Laws.WordFits.scan (w : LA) (x : LXA) : Sys2Proof.Laws.WordFits.Statement (.scan w x) := fits_la2 0x4B w rfl (by decide) (lxaWord_lt x)
theorem Sys2Proof.Laws.WordFits.matchL (w : LA) (x : LXA) : Sys2Proof.Laws.WordFits.Statement (.matchL w x) := fits_la2 0x4C w rfl (by decide) (lxaWord_lt x)
theorem Sys2Proof.Laws.WordFits.fenceW (w : LA) : Sys2Proof.Laws.WordFits.Statement (.fenceW w) := fits_la1 0x4D w rfl (by decide)
theorem Sys2Proof.Laws.WordFits.fenceTm (w : LA) : Sys2Proof.Laws.WordFits.Statement (.fenceTm w) := fits_la1 0x4D w rfl (by decide)
theorem Sys2Proof.Laws.WordFits.fenceGl (w : LA) : Sys2Proof.Laws.WordFits.Statement (.fenceGl w) := fits_la1 0x4D w rfl (by decide)
theorem Sys2Proof.Laws.WordFits.movs (w : LA) : Sys2Proof.Laws.WordFits.Statement (.movs w) := fits_la1 0x4E w rfl (by decide)
theorem Sys2Proof.Laws.WordFits.rdlane (w : LA) (x : LXA) : Sys2Proof.Laws.WordFits.Statement (.rdlane w x) := fits_la2 0x4F w rfl (by decide) (lxaWord_lt x)
theorem Sys2Proof.Laws.WordFits.ld (w : LA) (x : LXM) : Sys2Proof.Laws.WordFits.Statement (.ld w x) := fits_la2 0x50 w rfl (by decide) (lxmWord_lt x)
theorem Sys2Proof.Laws.WordFits.st (w : LA) (x : LXM) : Sys2Proof.Laws.WordFits.Statement (.st w x) := fits_la2 0x51 w rfl (by decide) (lxmWord_lt x)
theorem Sys2Proof.Laws.WordFits.ldr (w : LA) (x : LXM) : Sys2Proof.Laws.WordFits.Statement (.ldr w x) := fits_la2 0x52 w rfl (by decide) (lxmWord_lt x)
theorem Sys2Proof.Laws.WordFits.atom (w : LA) (x : LXM) : Sys2Proof.Laws.WordFits.Statement (.atom w x) := fits_la2 0x53 w rfl (by decide) (lxmWord_lt x)
theorem Sys2Proof.Laws.WordFits.atomf (w : LA) (x : LXM) : Sys2Proof.Laws.WordFits.Statement (.atomf w x) := fits_la2 0x54 w rfl (by decide) (lxmWord_lt x)
theorem Sys2Proof.Laws.WordFits.cas (w : LA) (x : LXM) : Sys2Proof.Laws.WordFits.Statement (.cas w x) := fits_la2 0x55 w rfl (by decide) (lxmWord_lt x)
theorem Sys2Proof.Laws.WordFits.atld (w : LA) (x : LXM) : Sys2Proof.Laws.WordFits.Statement (.atld w x) := fits_la2 0x56 w rfl (by decide) (lxmWord_lt x)
theorem Sys2Proof.Laws.WordFits.pref (w : LA) (x : LXM) : Sys2Proof.Laws.WordFits.Statement (.pref w x) := fits_la2 0x57 w rfl (by decide) (lxmWord_lt x)
theorem Sys2Proof.Laws.WordFits.bra (w : LB) : Sys2Proof.Laws.WordFits.Statement (.bra w) := fits_lb1 0x60 w rfl (by decide)
theorem Sys2Proof.Laws.WordFits.brx (w : LB) (x : LXB) : Sys2Proof.Laws.WordFits.Statement (.brx w x) := fits_lb2 0x61 w rfl (by decide) (lxbWord_lt x)
theorem Sys2Proof.Laws.WordFits.jmpr (w : LB) (x : LXB) : Sys2Proof.Laws.WordFits.Statement (.jmpr w x) := fits_lb2 0x62 w rfl (by decide) (lxbWord_lt x)
theorem Sys2Proof.Laws.WordFits.call (w : LB) (x : LXB) : Sys2Proof.Laws.WordFits.Statement (.call w x) := fits_lb2 0x63 w rfl (by decide) (lxbWord_lt x)
theorem Sys2Proof.Laws.WordFits.calli (w : LB) (x : LXB) : Sys2Proof.Laws.WordFits.Statement (.calli w x) := fits_lb2 0x64 w rfl (by decide) (lxbWord_lt x)
theorem Sys2Proof.Laws.WordFits.ret (w : LB) (x : LXB) : Sys2Proof.Laws.WordFits.Statement (.ret w x) := fits_lb2 0x65 w rfl (by decide) (lxbWord_lt x)
theorem Sys2Proof.Laws.WordFits.jset (w : LB) : Sys2Proof.Laws.WordFits.Statement (.jset w) := fits_lb1 0x66 w rfl (by decide)
theorem Sys2Proof.Laws.WordFits.join (w : LB) : Sys2Proof.Laws.WordFits.Statement (.join w) := fits_lb1 0x67 w rfl (by decide)
theorem Sys2Proof.Laws.WordFits.exit (w : LB) : Sys2Proof.Laws.WordFits.Statement (.exit w) := fits_lb1 0x68 w rfl (by decide)
theorem Sys2Proof.Laws.WordFits.bpt (w : LB) : Sys2Proof.Laws.WordFits.Statement (.bpt w) := fits_lb1 0x69 w rfl (by decide)
theorem Sys2Proof.Laws.WordFits.smov (w : GA) : Sys2Proof.Laws.WordFits.Statement (.smov w) := fits_ga1 0x00 w rfl (by decide)
theorem Sys2Proof.Laws.WordFits.smovImm (w : GA) : Sys2Proof.Laws.WordFits.Statement (.smovImm w) := fits_ga1 0x00 w rfl (by decide)
theorem Sys2Proof.Laws.WordFits.smovi (w : GA) (lit : Word) : Sys2Proof.Laws.WordFits.Statement (.smovi w lit) := fits_ga2 0x01 w rfl (by decide) (BitVec.isLt lit)
theorem Sys2Proof.Laws.WordFits.sadd (w : GA) : Sys2Proof.Laws.WordFits.Statement (.sadd w) := fits_ga1 0x02 w rfl (by decide)
theorem Sys2Proof.Laws.WordFits.ssub (w : GA) : Sys2Proof.Laws.WordFits.Statement (.ssub w) := fits_ga1 0x03 w rfl (by decide)
theorem Sys2Proof.Laws.WordFits.smul (w : GA) : Sys2Proof.Laws.WordFits.Statement (.smul w) := fits_ga1 0x04 w rfl (by decide)
theorem Sys2Proof.Laws.WordFits.smin (w : GA) : Sys2Proof.Laws.WordFits.Statement (.smin w) := fits_ga1 0x05 w rfl (by decide)
theorem Sys2Proof.Laws.WordFits.smax (w : GA) : Sys2Proof.Laws.WordFits.Statement (.smax w) := fits_ga1 0x06 w rfl (by decide)
theorem Sys2Proof.Laws.WordFits.sand (w : GA) : Sys2Proof.Laws.WordFits.Statement (.sand w) := fits_ga1 0x07 w rfl (by decide)
theorem Sys2Proof.Laws.WordFits.sor (w : GA) : Sys2Proof.Laws.WordFits.Statement (.sor w) := fits_ga1 0x08 w rfl (by decide)
theorem Sys2Proof.Laws.WordFits.sxor (w : GA) : Sys2Proof.Laws.WordFits.Statement (.sxor w) := fits_ga1 0x09 w rfl (by decide)
theorem Sys2Proof.Laws.WordFits.sshl (w : GA) : Sys2Proof.Laws.WordFits.Statement (.sshl w) := fits_ga1 0x0A w rfl (by decide)
theorem Sys2Proof.Laws.WordFits.sshr (w : GA) : Sys2Proof.Laws.WordFits.Statement (.sshr w) := fits_ga1 0x0B w rfl (by decide)
theorem Sys2Proof.Laws.WordFits.ssar (w : GA) : Sys2Proof.Laws.WordFits.Statement (.ssar w) := fits_ga1 0x0C w rfl (by decide)
theorem Sys2Proof.Laws.WordFits.sset (w : GA) (x : GXC) : Sys2Proof.Laws.WordFits.Statement (.sset w x) := fits_ga2 0x0D w rfl (by decide) (gxcWord_lt x)
theorem Sys2Proof.Laws.WordFits.ssel (w : GA) (x : GXC) : Sys2Proof.Laws.WordFits.Statement (.ssel w x) := fits_ga2 0x0E w rfl (by decide) (gxcWord_lt x)
theorem Sys2Proof.Laws.WordFits.slea (w : GA) (x : GXC) : Sys2Proof.Laws.WordFits.Statement (.slea w x) := fits_ga2 0x0F w rfl (by decide) (gxcWord_lt x)
theorem Sys2Proof.Laws.WordFits.sld (w : GA) (x : LXM) : Sys2Proof.Laws.WordFits.Statement (.sld w x) := fits_ga2 0x10 w rfl (by decide) (lxmWord_lt x)
theorem Sys2Proof.Laws.WordFits.sst (w : GA) (x : LXM) : Sys2Proof.Laws.WordFits.Statement (.sst w x) := fits_ga2 0x11 w rfl (by decide) (lxmWord_lt x)
theorem Sys2Proof.Laws.WordFits.sbra (w : GA) (lit : Word) : Sys2Proof.Laws.WordFits.Statement (.sbra w lit) := fits_ga2 0x12 w rfl (by decide) (BitVec.isLt lit)
theorem Sys2Proof.Laws.WordFits.sloop (w : GA) (lit : Word) : Sys2Proof.Laws.WordFits.Statement (.sloop w lit) := fits_ga2 0x13 w rfl (by decide) (BitVec.isLt lit)
theorem Sys2Proof.Laws.WordFits.sread (w : GA) (x : GXC) : Sys2Proof.Laws.WordFits.Statement (.sread w x) := fits_ga2 0x14 w rfl (by decide) (gxcWord_lt x)
theorem Sys2Proof.Laws.WordFits.swrite (w : GA) (x : GXC) : Sys2Proof.Laws.WordFits.Statement (.swrite w x) := fits_ga2 0x15 w rfl (by decide) (gxcWord_lt x)
theorem Sys2Proof.Laws.WordFits.phase (w : GA) (x : GXC) : Sys2Proof.Laws.WordFits.Statement (.phase w x) := fits_ga2 0x18 w rfl (by decide) (gxcWord_lt x)
theorem Sys2Proof.Laws.WordFits.phaseRel (w : GA) (x : GXC) : Sys2Proof.Laws.WordFits.Statement (.phaseRel w x) := fits_ga2 0x18 w rfl (by decide) (gxcWord_lt x)
theorem Sys2Proof.Laws.WordFits.phaseAcq (w : GA) (x : GXC) : Sys2Proof.Laws.WordFits.Statement (.phaseAcq w x) := fits_ga2 0x18 w rfl (by decide) (gxcWord_lt x)
theorem Sys2Proof.Laws.WordFits.bar (w : GA) (x : GXC) : Sys2Proof.Laws.WordFits.Statement (.bar w x) := fits_ga2 0x19 w rfl (by decide) (gxcWord_lt x)
theorem Sys2Proof.Laws.WordFits.arrive (w : GA) (x : GXC) : Sys2Proof.Laws.WordFits.Statement (.arrive w x) := fits_ga2 0x1A w rfl (by decide) (gxcWord_lt x)
theorem Sys2Proof.Laws.WordFits.waitlow (w : GA) (x : GXC) : Sys2Proof.Laws.WordFits.Statement (.waitlow w x) := fits_ga2 0x1B w rfl (by decide) (gxcWord_lt x)
theorem Sys2Proof.Laws.WordFits.trigger (w : GA) : Sys2Proof.Laws.WordFits.Statement (.trigger w) := fits_ga1 0x1C w rfl (by decide)
theorem Sys2Proof.Laws.WordFits.waitv (w : GA) (x : GXC) : Sys2Proof.Laws.WordFits.Statement (.waitv w x) := fits_ga2 0x1D w rfl (by decide) (gxcWord_lt x)
theorem Sys2Proof.Laws.WordFits.xacq (w : GA) : Sys2Proof.Laws.WordFits.Statement (.xacq w) := fits_ga1 0x20 w rfl (by decide)
theorem Sys2Proof.Laws.WordFits.xrel (w : GA) : Sys2Proof.Laws.WordFits.Statement (.xrel w) := fits_ga1 0x21 w rfl (by decide)
theorem Sys2Proof.Laws.WordFits.hold (w : GA) (x : GXC) : Sys2Proof.Laws.WordFits.Statement (.hold w x) := fits_ga2 0x22 w rfl (by decide) (gxcWord_lt x)
theorem Sys2Proof.Laws.WordFits.name (w : GA) : Sys2Proof.Laws.WordFits.Statement (.name w) := fits_ga1 0x23 w rfl (by decide)
theorem Sys2Proof.Laws.WordFits.rstv (w : GA) (x : GXC) : Sys2Proof.Laws.WordFits.Statement (.rstv w x) := fits_ga2 0x24 w rfl (by decide) (gxcWord_lt x)
theorem Sys2Proof.Laws.WordFits.gang (w : GA) (x : GXC) : Sys2Proof.Laws.WordFits.Statement (.gang w x) := fits_ga2 0x25 w rfl (by decide) (gxcWord_lt x)
theorem Sys2Proof.Laws.WordFits.qpush (w : GA) (x : GXC) : Sys2Proof.Laws.WordFits.Statement (.qpush w x) := fits_ga2 0x28 w rfl (by decide) (gxcWord_lt x)
theorem Sys2Proof.Laws.WordFits.qpop (w : GA) (x : GXC) : Sys2Proof.Laws.WordFits.Statement (.qpop w x) := fits_ga2 0x29 w rfl (by decide) (gxcWord_lt x)
theorem Sys2Proof.Laws.WordFits.aqld (w : GA) (x : LXM) : Sys2Proof.Laws.WordFits.Statement (.aqld w x) := fits_ga2 0x2A w rfl (by decide) (lxmWord_lt x)
theorem Sys2Proof.Laws.WordFits.aqst (w : GA) (x : LXM) : Sys2Proof.Laws.WordFits.Statement (.aqst w x) := fits_ga2 0x2B w rfl (by decide) (lxmWord_lt x)
theorem Sys2Proof.Laws.WordFits.qslip (w : GA) : Sys2Proof.Laws.WordFits.Statement (.qslip w) := fits_ga1 0x2C w rfl (by decide)
theorem Sys2Proof.Laws.WordFits.mcall (w : GA) (x : GXCall) : Sys2Proof.Laws.WordFits.Statement (.mcall w x) := fits_ga2 0x30 w rfl (by decide) (gxcallWord_lt x)
theorem Sys2Proof.Laws.WordFits.mcload (w : GA) (lit : Word) : Sys2Proof.Laws.WordFits.Statement (.mcload w lit) := fits_ga2 0x31 w rfl (by decide) (BitVec.isLt lit)
theorem Sys2Proof.Laws.WordFits.trap (w : GA) : Sys2Proof.Laws.WordFits.Statement (.trap w) := fits_ga1 0x32 w rfl (by decide)
theorem Sys2Proof.Laws.WordFits.rftRetry (w : GA) : Sys2Proof.Laws.WordFits.Statement (.rftRetry w) := fits_ga1 0x33 w rfl (by decide)
theorem Sys2Proof.Laws.WordFits.rftNext (w : GA) : Sys2Proof.Laws.WordFits.Statement (.rftNext w) := fits_ga1 0x33 w rfl (by decide)
theorem Sys2Proof.Laws.WordFits.rftJump (w : GA) : Sys2Proof.Laws.WordFits.Statement (.rftJump w) := fits_ga1 0x33 w rfl (by decide)
theorem Sys2Proof.Laws.WordFits.launch (w : GA) (x : GXC) : Sys2Proof.Laws.WordFits.Statement (.launch w x) := fits_ga2 0x34 w rfl (by decide) (gxcWord_lt x)
theorem Sys2Proof.Laws.WordFits.launchNb (w : GA) (x : GXC) : Sys2Proof.Laws.WordFits.Statement (.launchNb w x) := fits_ga2 0x34 w rfl (by decide) (gxcWord_lt x)
theorem Sys2Proof.Laws.WordFits.copy (w : GA) (x : GXE) : Sys2Proof.Laws.WordFits.Statement (.copy w x) := fits_ga2 0x38 w rfl (by decide) (gxeWord_lt x)
theorem Sys2Proof.Laws.WordFits.gather (w : GA) (x : GXE) : Sys2Proof.Laws.WordFits.Statement (.gather w x) := fits_ga2 0x39 w rfl (by decide) (gxeWord_lt x)
theorem Sys2Proof.Laws.WordFits.bwait (w : GA) (x : GXC) : Sys2Proof.Laws.WordFits.Statement (.bwait w x) := fits_ga2 0x3A w rfl (by decide) (gxcWord_lt x)
theorem Sys2Proof.Laws.WordFits.qfence (w : GA) (x : GXC) : Sys2Proof.Laws.WordFits.Statement (.qfence w x) := fits_ga2 0x3B w rfl (by decide) (gxcWord_lt x)
theorem Sys2Proof.Laws.WordFits.mmaR (w : GA) (x : GXE) : Sys2Proof.Laws.WordFits.Statement (.mmaR w x) := fits_ga2 0x40 w rfl (by decide) (gxeWord_lt x)
theorem Sys2Proof.Laws.WordFits.mmaT (w : GA) (x : GXE) : Sys2Proof.Laws.WordFits.Statement (.mmaT w x) := fits_ga2 0x40 w rfl (by decide) (gxeWord_lt x)
theorem Sys2Proof.Laws.WordFits.accld (w : GA) (x : GXE) : Sys2Proof.Laws.WordFits.Statement (.accld w x) := fits_ga2 0x41 w rfl (by decide) (gxeWord_lt x)
theorem Sys2Proof.Laws.WordFits.accst (w : GA) (x : GXE) : Sys2Proof.Laws.WordFits.Statement (.accst w x) := fits_ga2 0x42 w rfl (by decide) (gxeWord_lt x)
theorem Sys2Proof.Laws.WordFits.accz (w : GA) (x : GXE) : Sys2Proof.Laws.WordFits.Statement (.accz w x) := fits_ga2 0x43 w rfl (by decide) (gxeWord_lt x)
theorem Sys2Proof.Laws.WordFits.mres (w : GA) (x : GXE) : Sys2Proof.Laws.WordFits.Statement (.mres w x) := fits_ga2 0x44 w rfl (by decide) (gxeWord_lt x)
theorem Sys2Proof.Laws.WordFits.flushNode (w : GA) (x : GXE) : Sys2Proof.Laws.WordFits.Statement (.flushNode w x) := fits_ga2 0x48 w rfl (by decide) (gxeWord_lt x)
theorem Sys2Proof.Laws.WordFits.flushPkg (w : GA) (x : GXE) : Sys2Proof.Laws.WordFits.Statement (.flushPkg w x) := fits_ga2 0x48 w rfl (by decide) (gxeWord_lt x)
theorem Sys2Proof.Laws.WordFits.nsend (w : GA) (x : GXE) : Sys2Proof.Laws.WordFits.Statement (.nsend w x) := fits_ga2 0x50 w rfl (by decide) (gxeWord_lt x)
theorem Sys2Proof.Laws.WordFits.nget (w : GA) (x : GXE) : Sys2Proof.Laws.WordFits.Statement (.nget w x) := fits_ga2 0x51 w rfl (by decide) (gxeWord_lt x)
theorem Sys2Proof.Laws.WordFits.npost (w : GA) (x : GXE) : Sys2Proof.Laws.WordFits.Statement (.npost w x) := fits_ga2 0x52 w rfl (by decide) (gxeWord_lt x)
theorem Sys2Proof.Laws.WordFits.nwait (w : GA) (x : GXE) : Sys2Proof.Laws.WordFits.Statement (.nwait w x) := fits_ga2 0x53 w rfl (by decide) (gxeWord_lt x)
theorem Sys2Proof.Laws.WordFits.nctrRd (w : GA) (x : GXE) : Sys2Proof.Laws.WordFits.Statement (.nctrRd w x) := fits_ga2 0x54 w rfl (by decide) (gxeWord_lt x)
theorem Sys2Proof.Laws.WordFits.nctrSet (w : GA) (x : GXE) : Sys2Proof.Laws.WordFits.Statement (.nctrSet w x) := fits_ga2 0x54 w rfl (by decide) (gxeWord_lt x)
theorem Sys2Proof.Laws.WordFits.nctrAdd (w : GA) (x : GXE) : Sys2Proof.Laws.WordFits.Statement (.nctrAdd w x) := fits_ga2 0x54 w rfl (by decide) (gxeWord_lt x)
theorem Sys2Proof.Laws.WordFits.reshard (w : GA) (x : GXE) : Sys2Proof.Laws.WordFits.Statement (.reshard w x) := fits_ga2 0x58 w rfl (by decide) (gxeWord_lt x)
theorem Sys2Proof.Laws.WordFits.rstat (w : GA) (x : GXE) : Sys2Proof.Laws.WordFits.Statement (.rstat w x) := fits_ga2 0x59 w rfl (by decide) (gxeWord_lt x)
theorem Sys2Proof.Laws.WordFits.pgreq (w : GA) (x : GXE) : Sys2Proof.Laws.WordFits.Statement (.pgreq w x) := fits_ga2 0x60 w rfl (by decide) (gxeWord_lt x)
theorem Sys2Proof.Laws.WordFits.pgtier (w : GA) (x : GXE) : Sys2Proof.Laws.WordFits.Statement (.pgtier w x) := fits_ga2 0x61 w rfl (by decide) (gxeWord_lt x)
theorem Sys2Proof.Laws.WordFits.shoot (w : GA) (x : GXE) : Sys2Proof.Laws.WordFits.Statement (.shoot w x) := fits_ga2 0x62 w rfl (by decide) (gxeWord_lt x)
theorem Sys2Proof.Laws.WordFits.shootAll (w : GA) (x : GXE) : Sys2Proof.Laws.WordFits.Statement (.shootAll w x) := fits_ga2 0x62 w rfl (by decide) (gxeWord_lt x)
theorem Sys2Proof.Laws.WordFits.digest (w : GA) (x : GXE) : Sys2Proof.Laws.WordFits.Statement (.digest w x) := fits_ga2 0x68 w rfl (by decide) (gxeWord_lt x)
theorem Sys2Proof.Laws.WordFits.longResultWrite (g : Nat) (k : Nat) : Sys2Proof.Laws.WordFits.Statement (.longResultWrite g k) := fits_event rfl
theorem Sys2Proof.Laws.WordFits.queueEntryFill (g : Nat) (q : Nat) : Sys2Proof.Laws.WordFits.Statement (.queueEntryFill g q) := fits_event rfl
theorem Sys2Proof.Laws.WordFits.handlerEnter (part : Nat) : Sys2Proof.Laws.WordFits.Statement (.handlerEnter part) := fits_event rfl
theorem Sys2Proof.Laws.WordFits.walkStart (die : Nat) : Sys2Proof.Laws.WordFits.Statement (.walkStart die) := fits_event rfl
theorem Sys2Proof.Laws.WordFits.homeAtomic (k : Nat) : Sys2Proof.Laws.WordFits.Statement (.homeAtomic k) := fits_event rfl
theorem Sys2Proof.Laws.WordFits.supersededNotice (core : Nat) : Sys2Proof.Laws.WordFits.Statement (.supersededNotice core) := fits_event rfl
theorem Sys2Proof.Laws.WordFits.commitVisible (k : Nat) : Sys2Proof.Laws.WordFits.Statement (.commitVisible k) := fits_event rfl
theorem Sys2Proof.Laws.WordFits.fabricLoadReply (k : Nat) : Sys2Proof.Laws.WordFits.Statement (.fabricLoadReply k) := fits_event rfl
theorem Sys2Proof.Laws.WordFits.multicastStoreArrive (m : McPacket) : Sys2Proof.Laws.WordFits.Statement (.multicastStoreArrive m) := fits_event rfl
theorem Sys2Proof.Laws.WordFits.deliveryArrive (k : Nat) (ext : Option RegDelivery) : Sys2Proof.Laws.WordFits.Statement (.deliveryArrive k ext) := fits_event rfl
theorem Sys2Proof.Laws.WordFits.engineWritePerformed (k : Nat) : Sys2Proof.Laws.WordFits.Statement (.engineWritePerformed k) := fits_event rfl
theorem Sys2Proof.Laws.WordFits.mmaComplete (k : Nat) : Sys2Proof.Laws.WordFits.Statement (.mmaComplete k) := fits_event rfl
theorem Sys2Proof.Laws.WordFits.matrixResume (k : Nat) : Sys2Proof.Laws.WordFits.Statement (.matrixResume k) := fits_event rfl
theorem Sys2Proof.Laws.WordFits.reshardUnitCommit (k : Nat) (u : Nat) (pulled : List Byte) (status : Nat) : Sys2Proof.Laws.WordFits.Statement (.reshardUnitCommit k u pulled status) := fits_event rfl
theorem Sys2Proof.Laws.WordFits.pgtierCopy (k : Nat) : Sys2Proof.Laws.WordFits.Statement (.pgtierCopy k) := fits_event rfl
theorem Sys2Proof.Laws.WordFits.shootAck (k : Nat) (agent : Nat) : Sys2Proof.Laws.WordFits.Statement (.shootAck k agent) := fits_event rfl
theorem Sys2Proof.Laws.WordFits.slotTake (slot : Nat) : Sys2Proof.Laws.WordFits.Statement (.slotTake slot) := fits_event rfl
theorem Sys2Proof.Laws.WordFits.teamDispatch (grid : Nat) (die : Nat) (core : Nat) : Sys2Proof.Laws.WordFits.Statement (.teamDispatch grid die core) := fits_event rfl
theorem Sys2Proof.Laws.WordFits.mgmtEvict (g : Nat) : Sys2Proof.Laws.WordFits.Statement (.mgmtEvict g) := fits_event rfl
theorem Sys2Proof.Laws.WordFits.groupRestore (g : Nat) (die : Nat) (core : Nat) (slot : Nat) : Sys2Proof.Laws.WordFits.Statement (.groupRestore g die core slot) := fits_event rfl
theorem Sys2Proof.Laws.WordFits.groupDrainEnd (g : Nat) : Sys2Proof.Laws.WordFits.Statement (.groupDrainEnd g) := fits_event rfl
theorem Sys2Proof.Laws.WordFits.gridAbort (grid : Nat) : Sys2Proof.Laws.WordFits.Statement (.gridAbort grid) := fits_event rfl
theorem Sys2Proof.Laws.WordFits.roundEnd (grid : Nat) : Sys2Proof.Laws.WordFits.Statement (.roundEnd grid) := fits_event rfl
theorem Sys2Proof.Laws.WordFits.horizonRecompute : Sys2Proof.Laws.WordFits.Statement (.horizonRecompute) := fits_event rfl
theorem Sys2Proof.Laws.WordFits.waitforBuild : Sys2Proof.Laws.WordFits.Statement (.waitforBuild) := fits_event rfl
theorem Sys2Proof.Laws.WordFits.powerWindowEnd (other : Nat) (energy : List (Nat × Nat)) : Sys2Proof.Laws.WordFits.Statement (.powerWindowEnd other energy) := fits_event rfl
theorem Sys2Proof.Laws.WordFits.overtemp (die : Nat) : Sys2Proof.Laws.WordFits.Statement (.overtemp die) := fits_event rfl
theorem Sys2Proof.Laws.WordFits.scrubLine (line : Nat) : Sys2Proof.Laws.WordFits.Statement (.scrubLine line) := fits_event rfl
theorem Sys2Proof.Laws.WordFits.sweepVisit (die : Nat) : Sys2Proof.Laws.WordFits.Statement (.sweepVisit die) := fits_event rfl
theorem Sys2Proof.Laws.WordFits.sampleTick (die : Nat) (core : Nat) (part : Nat) : Sys2Proof.Laws.WordFits.Statement (.sampleTick die core part) := fits_event rfl
theorem Sys2Proof.Laws.WordFits.gaugeSample (die : Nat) (gauge : Nat) (value : Nat) : Sys2Proof.Laws.WordFits.Statement (.gaugeSample die gauge value) := fits_event rfl
theorem Sys2Proof.Laws.WordFits.powerOnReset : Sys2Proof.Laws.WordFits.Statement (.powerOnReset) := fits_event rfl
theorem Sys2Proof.Laws.WordFits.configRequest (write : Bool) (off : Nat) (v : Word) : Sys2Proof.Laws.WordFits.Statement (.configRequest write off v) := fits_event rfl
theorem Sys2Proof.Laws.WordFits.hostSecureAccess (write : Bool) (off : Nat) : Sys2Proof.Laws.WordFits.Statement (.hostSecureAccess write off) := fits_event rfl
theorem Sys2Proof.Laws.WordFits.hostScratchWrite (off : Nat) (bytes : List Byte) : Sys2Proof.Laws.WordFits.Statement (.hostScratchWrite off bytes) := fits_event rfl
theorem Sys2Proof.Laws.WordFits.hostScratchRead (off : Nat) (n : Nat) : Sys2Proof.Laws.WordFits.Statement (.hostScratchRead off n) := fits_event rfl
theorem Sys2Proof.Laws.WordFits.mboxbaseWrite (v : DWord) : Sys2Proof.Laws.WordFits.Statement (.mboxbaseWrite v) := fits_event rfl
theorem Sys2Proof.Laws.WordFits.mboxerrClear (v : DWord) : Sys2Proof.Laws.WordFits.Statement (.mboxerrClear v) := fits_event rfl
theorem Sys2Proof.Laws.WordFits.attestGo (v : DWord) : Sys2Proof.Laws.WordFits.Statement (.attestGo v) := fits_event rfl
theorem Sys2Proof.Laws.WordFits.attestDone : Sys2Proof.Laws.WordFits.Statement (.attestDone) := fits_event rfl
theorem Sys2Proof.Laws.WordFits.regionEntryWrite (i : Nat) (lim : Bool) (v : DWord) : Sys2Proof.Laws.WordFits.Statement (.regionEntryWrite i lim v) := fits_event rfl
theorem Sys2Proof.Laws.WordFits.freezeRelease (k : Nat) : Sys2Proof.Laws.WordFits.Statement (.freezeRelease k) := fits_event rfl
theorem Sys2Proof.Laws.WordFits.freezeBlockReset (k : Nat) : Sys2Proof.Laws.WordFits.Statement (.freezeBlockReset k) := fits_event rfl
theorem Sys2Proof.Laws.WordFits.assayGo : Sys2Proof.Laws.WordFits.Statement (.assayGo) := fits_event rfl
theorem Sys2Proof.Laws.WordFits.assayAbort : Sys2Proof.Laws.WordFits.Statement (.assayAbort) := fits_event rfl
theorem Sys2Proof.Laws.WordFits.assayRunEnd : Sys2Proof.Laws.WordFits.Statement (.assayRunEnd) := fits_event rfl
theorem Sys2Proof.Laws.WordFits.assayTouchmark : Sys2Proof.Laws.WordFits.Statement (.assayTouchmark) := fits_event rfl
theorem Sys2Proof.Laws.WordFits.cbudgetWrite (core : Nat) (v : DWord) : Sys2Proof.Laws.WordFits.Statement (.cbudgetWrite core v) := fits_event rfl
theorem Sys2Proof.Laws.WordFits.pinqRead (die : Nat) : Sys2Proof.Laws.WordFits.Statement (.pinqRead die) := fits_event rfl
theorem Sys2Proof.Laws.WordFits.pindoneWrite (die : Nat) (v : DWord) : Sys2Proof.Laws.WordFits.Statement (.pindoneWrite die v) := fits_event rfl
theorem Sys2Proof.Laws.WordFits.coldqRead (die : Nat) : Sys2Proof.Laws.WordFits.Statement (.coldqRead die) := fits_event rfl
theorem Sys2Proof.Laws.WordFits.dhaltWrite (v : DWord) : Sys2Proof.Laws.WordFits.Statement (.dhaltWrite v) := fits_event rfl
theorem Sys2Proof.Laws.WordFits.dreleaseWrite (v : DWord) : Sys2Proof.Laws.WordFits.Statement (.dreleaseWrite v) := fits_event rfl
theorem Sys2Proof.Laws.WordFits.sampleEnable (die : Nat) (v : DWord) : Sys2Proof.Laws.WordFits.Statement (.sampleEnable die v) := fits_event rfl
theorem Sys2Proof.Laws.WordFits.ringConfigWrite (die : Nat) (ring : Nat) (len : Bool) (v : DWord) : Sys2Proof.Laws.WordFits.Statement (.ringConfigWrite die ring len v) := fits_event rfl
theorem Sys2Proof.Laws.WordFits.pselWrite (die : Nat) (v : DWord) : Sys2Proof.Laws.WordFits.Statement (.pselWrite die v) := fits_event rfl
theorem Sys2Proof.Laws.WordFits.gaugeConfigWrite (die : Nat) (gauge : Nat) (v : DWord) : Sys2Proof.Laws.WordFits.Statement (.gaugeConfigWrite die gauge v) := fits_event rfl
theorem Sys2Proof.Laws.WordFits.gaugeFreezeWrite (die : Nat) (freeze : Bool) : Sys2Proof.Laws.WordFits.Statement (.gaugeFreezeWrite die freeze) := fits_event rfl
theorem Sys2Proof.Laws.WordFits.gaugeClear (die : Nat) : Sys2Proof.Laws.WordFits.Statement (.gaugeClear die) := fits_event rfl
theorem Sys2Proof.Laws.WordFits.mapValidSet (m : Nat) : Sys2Proof.Laws.WordFits.Statement (.mapValidSet m) := fits_event rfl
theorem Sys2Proof.Laws.WordFits.mapValidClear (m : Nat) : Sys2Proof.Laws.WordFits.Statement (.mapValidClear m) := fits_event rfl
theorem Sys2Proof.Laws.WordFits.mapLockSet (m : Nat) : Sys2Proof.Laws.WordFits.Statement (.mapLockSet m) := fits_event rfl
theorem Sys2Proof.Laws.WordFits.mapErrClear (m : Nat) : Sys2Proof.Laws.WordFits.Statement (.mapErrClear m) := fits_event rfl
theorem Sys2Proof.Laws.WordFits.maskWrite (m : Nat) (k : Nat) (v : DWord) : Sys2Proof.Laws.WordFits.Statement (.maskWrite m k v) := fits_event rfl
theorem Sys2Proof.Laws.WordFits.counterClear : Sys2Proof.Laws.WordFits.Statement (.counterClear) := fits_event rfl
theorem Sys2Proof.Laws.WordFits.counterFreezeWrite (freeze : Bool) : Sys2Proof.Laws.WordFits.Statement (.counterFreezeWrite freeze) := fits_event rfl
theorem Sys2Proof.Laws.WordFits.keyswap (p : Nat) : Sys2Proof.Laws.WordFits.Statement (.keyswap p) := fits_event rfl
theorem Sys2Proof.Laws.WordFits.portRetrainCmd (p : Nat) : Sys2Proof.Laws.WordFits.Statement (.portRetrainCmd p) := fits_event rfl
theorem Sys2Proof.Laws.WordFits.portEnable (p : Nat) (on : Bool) : Sys2Proof.Laws.WordFits.Statement (.portEnable p on) := fits_event rfl
theorem Sys2Proof.Laws.WordFits.nstateReopen (n : Nat) : Sys2Proof.Laws.WordFits.Statement (.nstateReopen n) := fits_event rfl
theorem Sys2Proof.Laws.WordFits.flitSend (p : Nat) (ty : Byte) (payload : List Byte) : Sys2Proof.Laws.WordFits.Statement (.flitSend p ty payload) := fits_event rfl
theorem Sys2Proof.Laws.WordFits.flitReceive (p : Nat) (f : Flit) : Sys2Proof.Laws.WordFits.Statement (.flitReceive p f) := fits_event rfl
theorem Sys2Proof.Laws.WordFits.nakReceive (p : Nat) (seq : Nat) : Sys2Proof.Laws.WordFits.Statement (.nakReceive p seq) := fits_event rfl
theorem Sys2Proof.Laws.WordFits.linkRetrain (p : Nat) : Sys2Proof.Laws.WordFits.Statement (.linkRetrain p) := fits_event rfl
theorem Sys2Proof.Laws.WordFits.portDown (p : Nat) : Sys2Proof.Laws.WordFits.Statement (.portDown p) := fits_event rfl
theorem Sys2Proof.Laws.WordFits.nodeResetReport (n : Nat) : Sys2Proof.Laws.WordFits.Statement (.nodeResetReport n) := fits_event rfl
theorem Sys2Proof.Laws.WordFits.packetForm (k : Nat) : Sys2Proof.Laws.WordFits.Statement (.packetForm k) := fits_event rfl
theorem Sys2Proof.Laws.WordFits.packetReceive (p : Packet) : Sys2Proof.Laws.WordFits.Statement (.packetReceive p) := fits_event rfl
theorem Sys2Proof.Laws.WordFits.ackReceive (pdc : Nat) (psn : Nat) : Sys2Proof.Laws.WordFits.Statement (.ackReceive pdc psn) := fits_event rfl
theorem Sys2Proof.Laws.WordFits.sackReceive (pdc : Nat) (cum : Nat) (bitmap : DWord) : Sys2Proof.Laws.WordFits.Statement (.sackReceive pdc cum bitmap) := fits_event rfl
theorem Sys2Proof.Laws.WordFits.notReadyReceive (pdc : Nat) (msg : Nat) : Sys2Proof.Laws.WordFits.Statement (.notReadyReceive pdc msg) := fits_event rfl
theorem Sys2Proof.Laws.WordFits.sackTimer (pdc : Nat) : Sys2Proof.Laws.WordFits.Statement (.sackTimer pdc) := fits_event rfl
theorem Sys2Proof.Laws.WordFits.sackPacketCount (pdc : Nat) : Sys2Proof.Laws.WordFits.Statement (.sackPacketCount pdc) := fits_event rfl
theorem Sys2Proof.Laws.WordFits.rtoExpiry (pdc : Nat) : Sys2Proof.Laws.WordFits.Statement (.rtoExpiry pdc) := fits_event rfl
theorem Sys2Proof.Laws.WordFits.rmaReadRequest (p : Packet) : Sys2Proof.Laws.WordFits.Statement (.rmaReadRequest p) := fits_event rfl
theorem Sys2Proof.Laws.WordFits.engineKeyLoad (d : Nat) (key : BitVec 256) : Sys2Proof.Laws.WordFits.Statement (.engineKeyLoad d key) := fits_event rfl
theorem Sys2Proof.Laws.WordFits.engineKeynextLoad (d : Nat) (key : BitVec 256) : Sys2Proof.Laws.WordFits.Statement (.engineKeynextLoad d key) := fits_event rfl
theorem Sys2Proof.Laws.WordFits.keyRoll (d : Nat) : Sys2Proof.Laws.WordFits.Statement (.keyRoll d) := fits_event rfl
theorem Sys2Proof.Laws.WordFits.mgmtPortReceive (port : Nat) (kind : Nat) (bytes : List Byte) : Sys2Proof.Laws.WordFits.Statement (.mgmtPortReceive port kind bytes) := fits_event rfl
theorem Sys2Proof.Laws.WordFits.registerWrite (secure : Bool) (off : Nat) (v : DWord) : Sys2Proof.Laws.WordFits.Statement (.registerWrite secure off v) := fits_event rfl
theorem Sys2Proof.Laws.WordFits.portTrainingComplete (p : Nat) (ok : Bool) : Sys2Proof.Laws.WordFits.Statement (.portTrainingComplete p ok) := fits_event rfl
theorem Sys2Proof.Laws.WordFits.dirtyLineWriteBack (line : Nat) : Sys2Proof.Laws.WordFits.Statement (.dirtyLineWriteBack line) := fits_event rfl
theorem Sys2Proof.Laws.WordFits.walkComplete (k : Nat) : Sys2Proof.Laws.WordFits.Statement (.walkComplete k) := fits_event rfl
theorem Sys2Proof.Laws.WordFits.bootStageChange : Sys2Proof.Laws.WordFits.Statement (.bootStageChange) := fits_event rfl
theorem Sys2Proof.Laws.WordFits.pagingDelegation (asid : Nat) (on : Bool) : Sys2Proof.Laws.WordFits.Statement (.pagingDelegation asid on) := fits_event rfl
theorem Sys2Proof.Laws.WordFits.delegatedPageInServiced (asid : Nat) (page : Nat) (fail : Bool) : Sys2Proof.Laws.WordFits.Statement (.delegatedPageInServiced asid page fail) := fits_event rfl
theorem Sys2Proof.Laws.WordFits.corePowerGating (core : Nat) (on : Bool) : Sys2Proof.Laws.WordFits.Statement (.corePowerGating core on) := fits_event rfl
end

