-- ==== Sys2Proof/Machine/Horas.lean ====
section
/-! DEFINITION. The assembler horas and the loader (12 R223, R224, 13 R243 to R246): lines, numbers, symbols and
expressions, sections and relocations, a kernel's directives and its launch record, and what the loader does. A statement
stands here as the instruction that it names; `accepts` says which of them horas takes (log 99). -/

namespace Sys2Proof.Machine.Horas
open Sys2Proof

abbrev Text := List Char

/-! ## Lines (R223) -/

def blank (c : Char) : Bool := c == ' ' || c == '\t'
def trim (t : Text) : Text := ((t.dropWhile blank).reverse.dropWhile blank).reverse
def lower (t : Text) : Text := t.map Char.toLower

/-- The pieces of a text between separators. -/
def splitAtChar (c : Char) : Text → List Text
  | [] => [[]]
  | x :: t =>
    if x == c then [] :: splitAtChar c t
    else match splitAtChar c t with
      | h :: r => (x :: h) :: r
      | [] => [[x]]

/-- A source line: each part may be absent. -/
structure Line where
  label : Option Text := none
  /-- The guard's class and number: `p` for the L-set, `q` for the G-set. -/
  guard : Option (Bool × Nat) := none
  mnemonic : Text := []
  suffixes : List Text := []
  /-- `!`: the switch marker (N22). -/
  marker : Bool := false
  operands : List Text := []
  deriving DecidableEq, Repr

/-- A symbol's characters (R243). -/
def symHead (c : Char) : Bool := c.isAlpha || c == '_' || c == '.'
def symChar (c : Char) : Bool := c.isAlphanum || c == '_' || c == '.'

/-- A guard between parentheses (N30): p0 to p6 or q0 to q6. -/
def parseGuard (t : Text) : Option (Bool × Nat) :=
  match lower (trim t) with
  | [c, d] =>
    let n := d.toNat - '0'.toNat
    if (c == 'p' || c == 'q') && d.isDigit && n ≤ 6 then some (c == 'q', n) else none
  | _ => none

/-- The mnemonic with its suffixes and marker. A directive begins with a dot, which is part of its name. -/
def parseHead (l : Line) (w : Text) : Line :=
  let marked := w.getLast? == some '!'
  let w := lower (if marked then w.dropLast else w)
  if w.head? == some '.' then { l with mnemonic := w, marker := marked }
  else match splitAtChar '.' w with
    | m :: s => { l with mnemonic := m, suffixes := s, marker := marked }
    | [] => l

/-- What follows a line's label: a guard, a mnemonic and operands. -/
def parseBody (l : Line) (t : Text) : Option Line :=
  let rest (l : Line) (t : Text) : Line :=
    let t := trim t
    let l := parseHead l (t.takeWhile (fun c => !blank c))
    let ops := trim (t.dropWhile (fun c => !blank c))
    { l with operands := if ops.isEmpty then [] else (splitAtChar ',' ops).map trim }
  match trim t with
  | [] => some l
  | c :: t =>
    if c == '(' then
      match parseGuard (t.takeWhile (· != ')')) with
      | some g => some (rest { l with guard := some g } ((t.dropWhile (· != ')')).drop 1))
      | none => none
    else some (rest l (c :: t))

/-- A line of at most 1,024 characters; a comment runs from `;` to its end (N1). -/
def parseLine (t : Text) : Option Line :=
  if 1024 < t.length then none
  else
    let t := trim (t.takeWhile (· != ';'))
    let w := t.takeWhile symChar
    let r := t.dropWhile symChar
    if !w.isEmpty && r.head? == some ':' then parseBody { label := some w } (r.drop 1) else parseBody {} t

/-! ## Numbers and registers (N2, N13, N15, R243) -/

def digit (c : Char) : Nat := if c.isDigit then c.toNat - '0'.toNat else c.toLower.toNat - 'a'.toNat + 10
/-- Digits of a base, most significant first. -/
def number (base : Nat) (t : Text) : Option Nat :=
  if t.isEmpty || t.any (fun c => !c.isAlphanum || base ≤ digit c) then none
  else some (t.foldl (fun n c => base * n + digit c) 0)

/-- A number without its sign: decimal, 0x hexadecimal or 0b binary. -/
def parseNum (t : Text) : Option Nat :=
  match t with
  | '0' :: c :: r =>
    if c.toLower == 'x' then number 16 r else if c.toLower == 'b' then number 2 r else number 10 t
  | _ => number 10 t

/-- Register classes; `queue` holds oq0 to oq3, wq and bq. -/
inductive RegClass where
  | v | s | a | p | q | t | acc | queue
  deriving DecidableEq, Repr

/-- A register's name. p7 and q7 may stand as operands of some instructions only (N15). -/
def regOf (t : Text) : Option (RegClass × Nat) :=
  let t := lower t
  let n := number 10 (t.dropWhile Char.isAlpha)
  let upTo (c : RegClass) (m : Nat) : Option (RegClass × Nat) := n.bind (fun k => if k ≤ m then some (c, k) else none)
  match t.takeWhile Char.isAlpha with
  | ['v'] => upTo .v 63
  | ['s'] => upTo .s 63
  | ['a'] => upTo .a 15
  | ['p'] => upTo .p 7
  | ['q'] => upTo .q 7
  | ['t'] => upTo .t 15
  | ['a', 'c', 'c'] => upTo .acc 3
  | ['o', 'q'] => upTo .queue 3
  | ['w', 'q'] => if t.length = 2 then some (.queue, 4) else none
  | ['b', 'q'] => if t.length = 2 then some (.queue, 5) else none
  | _ => none

/-- A symbol, which is no register's name and none of the mnemonics (R243). -/
def symOk (mnemonics : List Text) (t : Text) : Bool :=
  (match t with | c :: _ => symHead c | [] => false) && t.all symChar && t.length ≤ 63 &&
    (regOf t).isNone && !mnemonics.contains (lower t)

/-! ## Expressions (N2, R243) -/

inductive Op where
  | add | sub | mul | div | shl | shr | and | or | xor | inv
  deriving DecidableEq, Repr

inductive Expr where
  | num (v : Nat)
  | sym (n : Text)
  | neg (a : Expr)
  | inv (a : Expr)
  | bin (o : Op) (a b : Expr)
  deriving DecidableEq, Repr

inductive Tok where
  | num (n : Nat)
  | sym (n : Text)
  | op (o : Op)
  | opening
  | closing
  deriving DecidableEq, Repr

def opOf : Char → Option Op
  | '+' => some .add | '-' => some .sub | '*' => some .mul | '/' => some .div
  | '&' => some .and | '|' => some .or | '^' => some .xor | '~' => some .inv
  | _ => none

/-- The tokens of an expression; `n` bounds their number. -/
def lex : Nat → Text → Option (List Tok)
  | _, [] => some []
  | 0, _ => none
  | n + 1, c :: t =>
    let more (k : Tok) (r : Text) : Option (List Tok) := (lex n r).map (k :: ·)
    let w := (c :: t).takeWhile symChar
    let r := (c :: t).dropWhile symChar
    if blank c then lex n t
    else if c.isDigit then (parseNum w).bind (fun v => more (.num v) r)
    else if symHead c then more (.sym w) r
    else if c == '(' then more .opening t
    else if c == ')' then more .closing t
    else if c == '<' && t.head? == some '<' then more (.op .shl) (t.drop 1)
    else if c == '>' && t.head? == some '>' then more (.op .shr) (t.drop 1)
    else (opOf c).bind (fun o => more (.op o) t)

/-- C's precedence of a binary operator; `~` is none. -/
def Op.prec : Op → Nat
  | .or => 1 | .xor => 2 | .and => 3 | .shl | .shr => 4 | .add | .sub => 5 | .mul | .div => 6 | .inv => 0

/-- What the parser looks for: an operand, an expression of a least precedence, or what follows its left part. -/
inductive Goal where
  | prim
  | expr (p : Nat)
  | rest (p : Nat) (l : Expr)

def parse : Nat → Goal → List Tok → Option (Expr × List Tok)
  | 0, _, _ => none
  | n + 1, .prim, t =>
    (match t with
     | .num v :: r => some (.num v, r)
     | .sym x :: r => some (.sym x, r)
     | .op .sub :: r => (parse n .prim r).map (fun e => (.neg e.1, e.2))
     | .op .inv :: r => (parse n .prim r).map (fun e => (.inv e.1, e.2))
     | .opening :: r =>
       (match parse n (.expr 1) r with
        | some (e, .closing :: r) => some (e, r)
        | _ => none)
     | _ => none)
  | n + 1, .expr p, t => (parse n .prim t).bind (fun e => parse n (.rest p e.1) e.2)
  | n + 1, .rest p l, t =>
    match t with
    | .op o :: r =>
      if o.prec < p || o.prec = 0 then some (l, t)
      else (parse n (.expr (o.prec + 1)) r).bind (fun b => parse n (.rest p (.bin o l b.1)) b.2)
    | _ => some (l, t)

def parseExpr (t : Text) : Option Expr :=
  match (lex (t.length + 1) t).bind (fun l => parse (4 * l.length + 4) (.expr 1) l) with
  | some (e, []) => some e
  | _ => none

inductive Sect where
  | text | data
  deriving DecidableEq, Repr

/-- A value: a number, or an offset from where the loader places a section. -/
structure Val where
  sect : Option Sect := none
  v : DWord := 0
  deriving DecidableEq, Repr

/-- A binary operator on numbers of 64 bits. Division truncates toward zero; a shift by 64 or more is an error, and `>>`
keeps the sign (log 99). -/
def Op.run (o : Op) (a b : DWord) : Option DWord :=
  match o with
  | .add => some (a + b)
  | .sub => some (a - b)
  | .mul => some (a * b)
  | .div => if b = 0 then none else some (a.sdiv b)
  | .shl => if 64 ≤ b.toNat then none else some (a <<< b.toNat)
  | .shr => if 64 ≤ b.toNat then none else some (a.sshiftRight b.toNat)
  | .and => some (a &&& b)
  | .or => some (a ||| b)
  | .xor => some (a ^^^ b)
  | .inv => none

/-- The value of an expression. A symbol of a section may be moved by a number, and two of one section subtracted. -/
def Expr.eval (env : Text → Option Val) : Expr → Option Val
  | .num v => if v < 2 ^ 64 then some { v := BitVec.ofNat 64 v } else none
  | .sym n => env n
  | .neg a => (a.eval env).bind (fun x => if x.sect.isNone then some { v := -x.v } else none)
  | .inv a => (a.eval env).bind (fun x => if x.sect.isNone then some { v := ~~~x.v } else none)
  | .bin o a b =>
    (a.eval env).bind (fun x => (b.eval env).bind (fun y =>
      match o, x.sect, y.sect with
      | o, none, none => (o.run x.v y.v).map (fun v => { v })
      | .add, s, none => some { sect := s, v := x.v + y.v }
      | .add, none, s => some { sect := s, v := x.v + y.v }
      | .sub, s, none => some { sect := s, v := x.v - y.v }
      | .sub, some s, some r => if s = r then some { v := x.v - y.v } else none
      | _, _, _ => none))

/-! ## Operands (N17, N28, N36, N37) -/

inductive Operand where
  | reg (c : RegClass) (n : Nat) (hold : Bool)
  | par (j : Nat) (hold : Bool)
  | mem (c : RegClass) (n : Nat) (off : Option Expr)
  | lo (e : Expr)
  | hi (e : Expr)
  | value (e : Expr)
  deriving DecidableEq, Repr

/-- The text between an opening and a closing character. -/
def within (o c : Char) (t : Text) : Option Text :=
  if t.head? == some o && t.getLast? == some c && 2 ≤ t.length then some (t.drop 1).dropLast else none

def parseOperand (t : Text) : Option Operand :=
  let hold := t.getLast? == some '*'
  let r := if hold then t.dropLast else t
  match within '[' ']' t with
  | some m =>
    let base := trim (m.takeWhile (fun c => c != '+' && c != '-'))
    let off := trim (m.dropWhile (fun c => c != '+' && c != '-'))
    (regOf base).bind (fun b =>
      if off.isEmpty then some (.mem b.1 b.2 none)
      else (parseExpr ('0' :: off)).map (fun e => .mem b.1 b.2 (some e)))
  | none =>
    match regOf r, r with
    | some x, _ => some (.reg x.1 x.2 hold)
    | none, '%' :: d => (number 10 d).bind (fun j => if j ≤ 3 then some (.par j hold) else none)
    | none, _ =>
      if lower (t.take 2) == ['l', 'o'] && (trim (t.drop 2)).head? == some '(' then (parseExpr (t.drop 2)).map .lo
      else if lower (t.take 2) == ['h', 'i'] && (trim (t.drop 2)).head? == some '(' then (parseExpr (t.drop 2)).map .hi
      else (parseExpr t).map .value

/-- The offset of a memory operand (N17). -/
def offsetOf (env : Text → Option Val) : Option Expr → Option (BitVec 16)
  | none => some 0
  | some e => (e.eval env).bind (fun x =>
      if x.sect.isNone && -32768 ≤ x.v.toInt && x.v.toInt ≤ 32767 then some (BitVec.ofInt 16 x.v.toInt) else none)

/-! ## Reals (R243) -/

/-- `.float`: a decimal real, rounded RN to FP32, or `inf`, `-inf`, `nan`. -/
def parseReal (t : Text) : Option Nat :=
  let neg := t.head? == some '-'
  let t := lower (if neg then t.drop 1 else t)
  if t == ['n', 'a', 'n'] then (if neg then none else some Fp.f32.nan)
  else if t == ['i', 'n', 'f'] then some (if neg then 0xFF800000 else 0x7F800000)
  else
    let whole := t.takeWhile Char.isDigit
    let r := t.dropWhile Char.isDigit
    let frac := if r.head? == some '.' then (r.drop 1).takeWhile Char.isDigit else []
    let r := if r.head? == some '.' then (r.drop 1).dropWhile Char.isDigit else r
    let e := r.drop 1
    let down := e.head? == some '-'
    let e := if down || e.head? == some '+' then e.drop 1 else e
    (number 10 (whole ++ frac)).bind (fun m =>
      (if r.isEmpty then some 0 else if r.head? == some 'e' then number 10 e else none).map (fun k =>
        let x : Int := (if down then -(k : Int) else k) - frac.length
        let num : Fp.Num := .fin neg (m * 10 ^ x.toNat) 0 false
        (Fp.round Fp.f32 0 false (Fp.quo 30 num (.fin false (10 ^ (-x).toNat) 0 false)).1).1))

/-! ## Which statements horas takes (R243) -/

/-- G-set opcodes of an A-slice (R242). -/
def aOpcodes : List Nat :=
  [0x00, 0x01, 0x02, 0x03, 0x04, 0x05, 0x06, 0x07, 0x08, 0x09, 0x0A, 0x0B, 0x0C, 0x0F, 0x10, 0x12, 0x13, 0x14, 0x29, 0x2A,
   0x2B, 0x2C]

/-- Checks 1, 5 and 6 of R240, and in A-slice code check 2 with its registers. -/
def accepts (aslice : Bool) (w e : Nat) : Bool :=
  (match decodeWords w e with
   | .ok i => i.wfCode == 0
   | .error _ => false) &&
  (!aslice || (isG w && aOpcodes.contains (opG w) && guardOf w == 7 && w / 2 ^ 14 % 64 ≤ 15 && w / 2 ^ 8 % 64 ≤ 15 &&
    (w / 2 ^ 7 % 2 == 1 || w % 64 ≤ 15)))

/-! ## Sections, data and relocations (N12, N38, N39, R244, R245) -/

inductive RelKind where
  | lo | hi | w32 | lboff | gxoff
  deriving DecidableEq, Repr

/-- A relocation: the field's place in its section, the first word's place, and S + A as a section's offset. -/
structure Reloc where
  kind : RelKind
  sect : Sect
  at_ : Nat
  p : Nat
  target : Sect
  off : DWord
  deriving DecidableEq, Repr

/-- What an instruction's literal or target is given by. -/
inductive Fix where
  | lo (e : Expr)
  | hi (e : Expr)
  | lit (e : Expr)
  | branch (lb : Bool) (e : Expr)
  deriving DecidableEq, Repr

/-- What stands in a section. -/
inductive Piece where
  | label (n : Text)
  | code (w e : Nat) (ext : Bool) (fix : Option Fix)
  | items (width : Nat) (fix : Fix) (k : Nat)
  | float (code k : Nat)
  | align (n : Nat)
  | bytes (l : List Byte)
  deriving DecidableEq, Repr

/-- Bytes of a piece at an offset; padding is zero bytes. -/
def Piece.size (o : Nat) : Piece → Nat
  | .label _ => 0
  | .code _ _ ext _ => if ext then 8 else 4
  | .items w _ k => w * k
  | .float _ k => 4 * k
  | .align n => (n - o % n) % n
  | .bytes l => l.length

/-- Limits of a piece: counts from 1 to 2^20, an alignment a power of 2 up to 65,536, words aligned. -/
def Piece.ok (o : Nat) : Piece → Bool
  | .items w _ k => (w == 1 || w == 2 || w == 4) && 1 ≤ k && k ≤ 2 ^ 20
  | .float _ k => 1 ≤ k && k ≤ 2 ^ 20
  | .align n => n != 0 && n ≤ 65536 && n == 2 ^ n.log2
  | .code _ _ _ _ => o % 4 == 0
  | _ => true

/-- The labels of a section; one that stands twice is an error. -/
def labels (s : Sect) : Nat → List Piece → Option (List (Text × Val))
  | _, [] => some []
  | o, p :: t =>
    if !p.ok o then none
    else
      match labels s (o + p.size o) t, p with
      | some l, .label n => if l.any (·.1 == n) then none else some ((n, { sect := some s, v := BitVec.ofNat 64 o }) :: l)
      | r, _ => r

/-- A value fits a width of bytes, signed or unsigned (log 99). -/
def fitsBytes (n : Nat) (v : DWord) : Bool :=
  v.toNat < 2 ^ (8 * n) || (-(2 ^ (8 * n - 1) : Int) ≤ v.toInt && v.toInt < 0)

/-- The words between an instruction and its target. -/
def wordsTo (to_ from_ : Int) : Option Int := if (to_ - from_) % 4 = 0 then some ((to_ - from_) / 4) else none
/-- An offset as a field of `n` bits, if it fits. -/
def offField (n : Nat) (d : Int) : Option Nat :=
  if -(2 ^ (n - 1) : Int) ≤ d && d < (2 ^ (n - 1) : Int) then some (d % (2 ^ n : Int)).toNat else none

/-- The field of `n` bytes that a fix gives at place `at_` of section `s`, and the relocation that it leaves. -/
def Fix.field (env : Text → Option Val) (s : Sect) (at_ p n : Nat) : Fix → Option (Nat × List Reloc)
  | .lo e => (e.eval env).bind (fun x => match x.sect with
      | none => some (x.v.toNat % 2 ^ 32, [])
      | some t => some (0, [{ kind := .lo, sect := s, at_, p, target := t, off := x.v }]))
  | .hi e => (e.eval env).bind (fun x => match x.sect with
      | none => some (x.v.toNat / 2 ^ 32, [])
      | some t => some (0, [{ kind := .hi, sect := s, at_, p, target := t, off := x.v }]))
  | .lit e => (e.eval env).bind (fun x => match x.sect with
      | none => if fitsBytes n x.v then some (x.v.toNat % 2 ^ (8 * n), []) else none
      | some t => if n = 4 then some (0, [{ kind := .w32, sect := s, at_, p, target := t, off := x.v }]) else none)
  | .branch lb e => (e.eval env).bind (fun x => match x.sect with
      | none => none
      | some t =>
        if t = s then (wordsTo x.v.toInt p).bind (fun d => (offField (if lb then 18 else 32) d).map (fun v => (v, [])))
        else some (0, [{ kind := if lb then .lboff else .gxoff, sect := s, at_, p, target := t, off := x.v }]))

/-- The bytes and relocations of a piece. -/
def Piece.emit (env : Text → Option Val) (s : Sect) (o : Nat) : Piece → Option (List Byte × List Reloc)
  | .label _ => some ([], [])
  | .code w e ext fix =>
    let out (w e : Nat) : List Byte := bytesOfWord w ++ (if ext then bytesOfWord e else [])
    (match fix with
     | none => some (out w e, [])
     | some f =>
       let lb := match f with | .branch lb _ => lb | _ => false
       (f.field env s (if lb then o else o + 4) o 4).map (fun r =>
         (if lb then out (setBits w 17 0 r.1) e else out w r.1, r.2)))
  | .items n f k =>
    (f.field env s o o n).map (fun r =>
      ((List.replicate k (bytesOfNat n r.1)).flatten,
       (List.range k).flatMap (fun i => r.2.map (fun y => { y with at_ := o + n * i, p := o + n * i }))))
  | .float c k => some ((List.replicate k (bytesOfNat 4 c)).flatten, [])
  | .align n => some (List.replicate ((n - o % n) % n) 0, [])
  | .bytes l => some (l, [])

def emitAll (env : Text → Option Val) (s : Sect) : Nat → List Piece → Option (List Byte × List Reloc)
  | _, [] => some ([], [])
  | o, p :: t =>
    (p.emit env s o).bind (fun x => (emitAll env s (o + p.size o) t).map (fun y => (x.1 ++ y.1, x.2 ++ y.2)))

structure Object where
  text : List Byte := []
  data : List Byte := []
  relocs : List Reloc := []
  deriving DecidableEq, Repr

/-- An object file of two sections and the `.equ` names; a name defined twice is an error. -/
def assemble (equ : List (Text × Val)) (text data : List Piece) : Option Object :=
  (labels .text 0 text).bind (fun a => (labels .data 0 data).bind (fun b =>
    let names := equ ++ a ++ b
    if !(names.map (·.1)).Nodup then none
    else
      let env (n : Text) : Option Val := (names.find? (·.1 == n)).map (·.2)
      (emitAll env .text 0 text).bind (fun t => (emitAll env .data 0 data).map (fun d =>
        { text := t.1, data := d.1, relocs := t.2 ++ d.2 }))))

/-- The value that a relocation stores, S + A being `sa` and P `p`; none is a load error (R244). -/
def RelKind.value (k : RelKind) (sa p : Nat) : Option Nat :=
  match k with
  | .lo => some (sa % 2 ^ 32)
  | .hi => some (sa / 2 ^ 32 % 2 ^ 32)
  | .w32 => if sa < 2 ^ 32 then some sa else none
  | .lboff => (wordsTo sa p).bind (offField 18)
  | .gxoff => (wordsTo sa p).bind (offField 32)

/-- A relocation applied to its section's bytes; `base` is where each section lies. -/
def Reloc.apply (r : Reloc) (base : Sect → Nat) (l : List Byte) : Option (List Byte) :=
  (r.kind.value ((base r.target + r.off.toNat) % 2 ^ 64) (base r.sect + r.p)).map (fun v =>
    let old := natOfBytes ((l.drop r.at_).take 4)
    let new := if r.kind = .lboff then setBits old 17 0 v else v
    l.take r.at_ ++ bytesOfNat 4 new ++ l.drop (r.at_ + 4))

/-- The sections as the loader places them, each at a 64 KiB-aligned address. -/
def Object.load (o : Object) (base : Sect → Nat) : Option (List (Nat × List Byte)) :=
  let fix (s : Sect) (l : List Byte) : Option (List Byte) :=
    (o.relocs.filter (·.sect == s)).foldl (fun l r => l.bind (r.apply base)) (some l)
  if base .text % 65536 ≠ 0 || base .data % 65536 ≠ 0 then none
  else (fix .text o.text).bind (fun t => (fix .data o.data).map (fun d => [(base .text, t), (base .data, d)]))

/-! ## Microprograms and layout records (N35, R245) -/

/-- The image of a microprogram: a header and its operations' words; none where MCLOAD would refuse it (17 R338, R339). -/
def microImage (ops : List (List Nat)) : Option (List Nat) :=
  let ws := ops.flatten
  let hdr := (ops.length - 1) * 2 ^ 8 + ws.length
  if ops.isEmpty || 32 < ops.length || !imageOk hdr ws then none else some (hdr :: ws)

/-- `.tlr`: a tensor layout record with the fields named, the rest zero (18 R349). -/
def tlrBytes (t : Tlr) : List Byte :=
  bytesOfNat 8 t.base ++ bytesOfNat 1 t.kind ++ bytesOfNat 1 t.etype ++ bytesOfNat 1 t.rank ++ bytesOfNat 1 t.place ++
    bytesOfNat 4 t.mce ++ (List.range 4).flatMap (fun k => bytesOfNat 4 (t.dims.getD k 0)) ++
    (List.range 3).flatMap (fun k => bytesOfNat 8 (t.strides.getD k 0)) ++ bytesOfNat 8 t.scale

/-! ## Kernels and launch records (N4 to N12, N40, R245, R246) -/

/-- A role: its label's offset, in words, from the start of the C-slice, and from that of the A-slice. -/
structure Role where
  groups : Nat
  sliced : Bool := false
  xblk : Nat := 0
  off : Nat := 0
  aoff : Option Nat := none
  deriving DecidableEq, Repr

/-- A kernel's directives, each with its default, and where its slices lie. -/
structure Kernel where
  team : Nat := 1
  roles : List Role := []
  tmem : Nat := 0
  qdepth : List Nat := [0, 0, 0, 0, 0, 0]
  slip : Nat := 0
  mode : Nat := 0
  exhaust : Bool := false
  energy : Nat := 0
  entry : Nat := 0
  aentry : Option Nat := none
  deriving DecidableEq, Repr

/-- With no role there is one plain role of every group. -/
def Kernel.allRoles (k : Kernel) : List Role := if k.roles.isEmpty then [{ groups := k.team }] else k.roles

/-- The directives keep their limits, and a sliced role's label has one offset in both slices. -/
def Kernel.ok (k : Kernel) : Bool :=
  let oqs := (k.qdepth.take 4).foldl (· + ·) 0
  1 ≤ k.team && k.team ≤ 16 && k.allRoles.length ≤ 4 && (k.allRoles.map (·.groups)).foldl (· + ·) 0 == k.team &&
    k.allRoles.all (fun r => r.groups ≤ 16 && r.xblk ≤ 2 && r.off < 65536 &&
      (!r.sliced || (r.aoff == some r.off && k.aentry.isSome))) &&
    k.tmem % 1024 == 0 && k.tmem ≤ 262144 && k.qdepth.length == 6 &&
    k.qdepth.all (fun d => d == 0 || (2 ≤ d && d ≤ 16)) &&
    (if oqs = 0 then k.slip == 0 else 1 ≤ k.slip && k.slip ≤ oqs) && k.mode ≤ 2 && (k.mode == 2 || !k.exhaust) && k.energy ≤ 7

/-- The options of `.launch`; those omitted are 0. -/
structure Options where
  teams : Nat
  prio : Nat := 0
  gridid : Nat := 0
  tag : Nat := 0
  depon : Option Nat := none
  deptrig : Bool := false
  msiv : Nat := 0
  args : Nat := 0
  done : Option Nat := none
  nowait : Bool := false
  deriving DecidableEq, Repr

/-- A role entry (05 R74). -/
def Role.entry (r : Role) : Nat :=
  if r.groups = 0 then 0 else r.off * 2 ^ 16 + (if r.sliced then 2 ^ 10 else 0) + r.xblk * 2 ^ 8 + r.groups

/-- The launch record of a kernel (05 R73): its choice stream is (address, entries), its completion area `done`. -/
def recordOf (k : Kernel) (o : Options) (root asid : Nat) (steer : Nat × Nat) (done : Nat) : List Byte :=
  let sliced := k.allRoles.any (·.sliced)
  bytesOfNat 8 k.entry ++ bytesOfNat 8 (if sliced then k.aentry.getD 0 else 0) ++ bytesOfNat 8 root ++ bytesOfNat 2 asid ++
    bytesOfNat 1 (k.mode + (if k.exhaust then 4 else 0)) ++ bytesOfNat 1 o.prio ++ bytesOfNat 1 k.energy ++
    bytesOfNat 1 k.team ++ bytesOfNat 1 o.msiv ++
    bytesOfNat 1 ((if o.depon.isSome then 1 else 0) + (if o.deptrig then 2 else 0)) ++ bytesOfNat 4 o.teams ++
    bytesOfNat 4 o.gridid ++ bytesOfNat 4 o.tag ++ bytesOfNat 4 (o.depon.getD 0) ++ bytesOfNat 4 k.tmem ++
    bytesOfNat 4 steer.2 ++ bytesOfNat 8 steer.1 ++ bytesOfNat 8 o.args ++ bytesOfNat 8 done ++
    (List.range 4).flatMap (fun n => bytesOfNat 4 ((k.allRoles[n]?).elim 0 Role.entry)) ++
    (List.range 6).flatMap (fun n => bytesOfNat 1 (k.qdepth.getD n 0)) ++ bytesOfNat 1 k.slip ++ bytesOfNat 9 0 ++
    bytesOfNat 4 0x4C523950 ++ bytesOfNat 12 0

/-! ## The loader (R246) -/

inductive Directive where
  | steer (kernel : Nat) (entries : List Nat)
  | sample (die period jmask seed : Nat) (core : Option Nat) (ring : Nat)
  | netdrop (peer mode relpsn : Nat)
  | launch (kernel : Nat) (o : Options)
  deriving DecidableEq, Repr

/-- A write of the loader's: a ring's BASE or LEN, a register, SAMPCTL, or bytes of the BAR2 window. -/
inductive Write where
  | ring (die ring : Nat) (len : Bool) (v : Nat)
  | reg (off v : Nat)
  | sampctl (die v : Nat)
  | scratch (off : Nat) (l : List Byte)
  deriving DecidableEq, Repr

/-- The event that the write is. -/
def Write.run (w : Write) (s : State) : Out :=
  match w with
  | .ring die r len v => execRingConfigWrite die r len (BitVec.ofNat 64 v) s
  | .reg off v => execRegisterWrite false off (BitVec.ofNat 64 v) s
  | .sampctl die v => execSampleEnable die (BitVec.ofNat 64 v) s
  | .scratch off l => execHostScratchWrite off l s

/-- What the loader does: it places bytes, writes, waits until its launch number n completes, or writes when that one
has. -/
inductive Act where
  | place (va : Nat) (l : List Byte)
  | write (w : Write)
  | await (n : Nat)
  | atEnd (n : Nat) (w : Write)
  deriving DecidableEq, Repr

/-- The loader: its address space, the next free addresses (virtual, and physical in region A), the mailbox slot it uses,
its launches so far, the streams for each kernel's next launch, and what waits for the next launch. -/
structure Loader where
  root : Nat := 0
  asid : Nat := 1
  va : Nat := 0
  pa : Nat := 0
  slot : Nat := 0
  launches : Nat := 0
  streams : List (Nat × Nat × Nat) := []
  before : List Write := []
  after : List Write := []
  deriving DecidableEq, Repr

/-- The writes of `.sample`: BASE, LEN, SAMPSEED and then SAMPCTL with ENABLE = 1 (11 R210, R218). -/
def sampleOn (die period jmask seed : Nat) (core : Option Nat) (ring pa : Nat) : List Write :=
  let ctl := jmask % 65536 * 2 ^ 48 + period % 65536 * 2 ^ 32 + core.getD 0 % 256 * 2 ^ 16 + (if core.isNone then 2 else 0)
  [.ring die 0 false pa, .ring die 0 true ring, .reg (obsBase die + 8) (seed % 65536), .sampctl die (ctl + 1)]

/-- The two writes of a record to its slot, granule 7 last (04 R65). -/
def submit (slot : Nat) (l : List Byte) : List Write :=
  [.scratch (128 * slot) (l.take 112), .scratch (128 * slot + 112) (l.drop 112)]

/-- One loader directive; none is an error. -/
def Directive.run (ks : List Kernel) (d : Directive) (l : Loader) : Option (List Act × Loader) :=
  match d with
  | .steer k es =>
    (ks[k]?).bind (fun x =>
      if x.mode ≠ 2 || 65535 < es.length || es.any (65536 ≤ ·) then none
      else
        let va := (l.va + 1) / 2 * 2
        some ([.place va (es.flatMap (bytesOfNat 2))],
          { l with va := va + 2 * es.length, streams := (k, va, es.length) :: l.streams.filter (·.1 != k) }))
  | .sample die period jmask seed core ring =>
    let pa := (l.pa + 63) / 64 * 64
    some ([], { l with pa := pa + 32 * 2 ^ ring, before := l.before ++ sampleOn die period jmask seed core ring pa,
                       after := l.after ++ [.sampctl die 0] })
  | .netdrop peer mode relpsn =>
    let v := peer % 4096 * 2 ^ 36 + mode % 4 * 2 ^ 34 + 2 ^ 32 + relpsn % 2 ^ 32
    some ([], { l with before := l.before ++ [.reg (ueBase + 0x10) v] })
  | .launch k o =>
    (ks[k]?).bind (fun x =>
      if !x.ok then none
      else
        let area := (l.va + 15) / 16 * 16
        let done := o.done.getD area
        let va := if o.done.isNone then area + 544 else l.va
        let steer := ((l.streams.find? (·.1 == k)).map (·.2)).getD (0, 0)
        let rec_ := recordOf x o l.root l.asid steer done
        some ((l.before ++ submit l.slot rec_).map .write ++ l.after.map (.atEnd l.launches) ++
            (if o.nowait then [] else [.await l.launches]),
          { l with va, launches := l.launches + 1, streams := l.streams.filter (·.1 != k), before := [], after := [] }))

/-- The directives in file order; a `.steer`, `.sample` or `.netdrop` with no later launch is an error. -/
def runAll (ks : List Kernel) : List Directive → Loader → Option (List Act)
  | [], l => if l.streams.isEmpty && l.before.isEmpty then some [] else none
  | d :: t, l => (d.run ks l).bind (fun r => (runAll ks t r.2).map (r.1 ++ ·))

end Sys2Proof.Machine.Horas
end

