-- ==== Sys2Proof/Tests/Slice0.lean ====
section
/-! SUPPORT. Tests: well-formedness, decoding, single steps, and states that meet the statements' hypotheses. -/

open Sys2Proof Sys2Proof.Machine Sys2Proof.Claims

-- One test after another, which keeps the memory of a compile small.
set_option Elab.async false

namespace Sys2Proof.Tests

/-! ## Checkers: a Bool for each bundle of hypotheses, and the lemma that it suffices -/

def clearOk (s : State) (f : Foot) (m : Mask) : Bool :=
  (f.vr ++ f.vw).all (fun r => decide (r < vLimit s.g.budget) && !s.g.pendV.contains r) &&
  (f.sr ++ f.sw).all (fun r => !s.g.pendS.contains r) && (f.pr ++ f.pw).all (fun r => !s.g.pendP.contains r) &&
  (f.qr ++ f.qw).all (fun r => !s.g.pendQ.contains r) && f.vr.all (fun r => s.g.holds.get 0 r == 0) &&
  (s.g.softHit f m).isNone

theorem clear_of {s : State} {f : Foot} {m : Mask} (h : clearOk s f m = true) : s.Clear f m := by
  simp only [clearOk, Bool.and_eq_true, List.all_eq_true, decide_eq_true_eq, Bool.not_eq_true', List.contains_eq_mem,
    decide_eq_false_iff_not, beq_iff_eq, Option.isNone_iff_eq_none] at h
  obtain ⟨⟨⟨⟨⟨a, b⟩, c⟩, d⟩, e⟩, k⟩ := h
  exact ⟨fun r hr => (a r hr).1, fun r hr => (a r hr).2, b, c, d, e, k⟩

def laneOk (i : Instr) (g : BitVec 3) (f : Foot) (s : State) : Bool :=
  s.cur.stage == 0 && !s.cur.aslice && s.active g != 0 && i.wfCode == 0 &&
    clearOk s { f with pr := preds g ++ f.pr } (s.active g)

theorem lane_of {i : Instr} {g : BitVec 3} {f : Foot} {s : State} (h : laneOk i g f s = true) : LaneRuns i g f s := by
  simp only [laneOk, Bool.and_eq_true, beq_iff_eq, bne_iff_ne, Bool.not_eq_true'] at h
  obtain ⟨⟨⟨⟨a, b⟩, c⟩, d⟩, e⟩ := h
  exact ⟨a, b, c, d, clear_of e⟩

def groupOk (i : Instr) (g : BitVec 3) (f : Foot) (s : State) : Bool :=
  s.cur.stage == 0 && !s.cur.aslice && s.g.guardG g && s.cur.lanes != 0 && i.wfCode == 0 &&
    clearOk s { f with qr := preds g ++ f.qr } s.cur.lanes

theorem group_of {i : Instr} {g : BitVec 3} {f : Foot} {s : State} (h : groupOk i g f s = true) : GroupRuns i g f s := by
  simp only [groupOk, Bool.and_eq_true, beq_iff_eq, bne_iff_ne, Bool.not_eq_true'] at h
  obtain ⟨⟨⟨⟨⟨a, b⟩, c⟩, d⟩, e⟩, k⟩ := h
  exact ⟨a, b, c, d, e, clear_of k⟩

def sliceOk (i : Instr) (g : BitVec 3) (f : Foot) (s : State) : Bool :=
  s.cur.stage == 0 && s.cur.aslice && g == 7 && i.wfCode == 0 && (f.sr ++ f.sw).all (fun r => decide (r < 16))

theorem slice_of {i : Instr} {g : BitVec 3} {f : Foot} {s : State} (h : sliceOk i g f s = true) : SliceRuns i g f s := by
  simp only [sliceOk, Bool.and_eq_true, beq_iff_eq, List.all_eq_true, decide_eq_true_eq] at h
  obtain ⟨⟨⟨⟨a, b⟩, c⟩, d⟩, e⟩ := h
  exact ⟨a, b, c, d, e⟩

/-- Every instruction of a list runs, with the registers beside it. -/
theorem lanes_of {g : BitVec 3} {s : State} {l : List (Instr × Foot)} (h : l.all (fun p => laneOk p.1 g p.2 s) = true) :
    ∀ p ∈ l, LaneRuns p.1 g p.2 s := fun p hp => lane_of (List.all_eq_true.mp h p hp)
theorem groups_of {g : BitVec 3} {s : State} {l : List (Instr × Foot)} (h : l.all (fun p => groupOk p.1 g p.2 s) = true) :
    ∀ p ∈ l, GroupRuns p.1 g p.2 s := fun p hp => group_of (List.all_eq_true.mp h p hp)
theorem slices_of {g : BitVec 3} {s : State} {l : List (Instr × Foot)} (h : l.all (fun p => sliceOk p.1 g p.2 s) = true) :
    ∀ p ∈ l, SliceRuns p.1 g p.2 s := fun p hp => slice_of (List.all_eq_true.mp h p hp)

/-! ## Small states -/

/-- Lanes 0, 2 and 127. -/
def L : Mask := BitVec.ofNat 128 (2 ^ 127 + 5)
/-- A register with values at lanes 0, 2 and 127. -/
def vals (a b c : Nat) : Lanes :=
  Lanes.make (fun l => if l = 0 then BitVec.ofNat 32 a else if l = 2 then BitVec.ofNat 32 b else if l = 127 then BitVec.ofNat 32 c else 0)

/-- A supervisor grid of one group at VA 0, whose subgroup of lanes L is being issued. -/
def start : State :=
  { State.reset.placeBytes [] with agenda := [], cur := { gid := 2, lanes := L, pc := 0, len := 8, w0 := 0x12345678, w1 := 0x9ABCDEF0 } }
def onG (s : State) (f : Group → Group) : State := s.setGroup 2 (f (s.group 2))
def withV (s : State) (l : List (Nat × Lanes)) : State :=
  onG s (fun g => { g with v := l.foldl (fun m c => m.set {} c.1 c.2) g.v })
def withS (s : State) (l : List (Nat × Nat)) : State :=
  onG s (fun g => { g with s := l.foldl (fun m c => m.set 0 c.1 (BitVec.ofNat 32 c.2)) g.s })
/-- `start` with that subgroup listed, a vector table, `fpflags` 1, p0 of lane 2 and p1 of lanes 0 and 127. -/
def base : State :=
  onG start (fun g => { g with
    subs := [{ lanes := L, pc := 0 }], spec := { g.spec with trapbase := 0x4000, fpflags := 1 },
    p := ⟨[(0, BitVec.ofNat 128 4), (1, BitVec.ofNat 128 (2 ^ 127 + 1))]⟩, q := ⟨[(1, true), (3, true)]⟩ })

/-- What the instruction leaves at lane 0, 2 or 127 of v(r), or in s(r). -/
def after (i : Instr) (s : State) (f : State → Nat) : Option Nat :=
  match exec i s with | .next t => some (f t) | _ => none
def lane (r l : Nat) (t : State) : Nat := ((t.g.vreg r).get l).toNat

end Sys2Proof.Tests

open Sys2Proof.Tests
/-! ## Lane arithmetic -/

namespace Sys2Proof.Tests
/-- v4 7, -2, 0x80000000; v6 3, 5, -1; v8 1, 1, 1. -/
def ints : State := withV base [(4, vals 7 0xFFFFFFFE 0x80000000), (6, vals 3 5 0xFFFFFFFF), (8, vals 1 1 1)]
def la : LA := { d := 10, a := 4, b := 6 }
def la1 : LA := { d := 10, a := 4 }
def x1 : LXA := { ty := 1 }
def xb : LXA := { ty := 0 }
def x3 : LXA := { ty := 3 }
def x11 : LXA := { ty := 11 }
def ab : Foot := { vr := [4, 6], vw := [10] }
def a1 : Foot := { vr := [4], vw := [10] }
def abc : Foot := { vr := [4, 6, 8], vw := [10] }
end Sys2Proof.Tests

theorem test_runs_integer : ∀ p ∈ ([(.mov { la1 with b := 0 }, a1), (.movi { d := 10 } 5, { vw := [10] }), (.iadd la x1, ab),
    (.isub la x1, ab), (.imul la x1, ab), (.imulh la x1, ab), (.imad la { x1 with c := 8 }, abc), (.imin la x1, ab),
    (.imax la x1, ab), (.iabs la1 x1, a1), (.ineg la1 x1, a1), (.lea la { ty := 0 }, { vr := [4, 5, 6], vw := [10, 11] }),
    (.iadd la1 { x1 with c := 1, imm := 0xFFF }, a1)] : List (Instr × Foot)), LaneRuns p.1 7 p.2 ints := lanes_of (by decide)
theorem test_runs_guarded : LaneRuns (.iadd { la with guard := 1 } x1) 1 ab ints := lane_of (by decide)

theorem test_integer_lane0 : ([.mov la1, .movi { d := 10 } 5, .iadd la x1, .isub la x1, .imul la x1, .imulh la x1,
    .imad la { x1 with c := 8 }, .imin la x1, .imax la x1, .iabs la1 x1, .ineg la1 x1, .lea la { ty := 0 },
    .iadd la1 { x1 with c := 1, imm := 0xFFF }] : List Instr).map (fun i => after i ints (lane 10 0)) =
    [some 7, some 5, some 10, some 4, some 21, some 0, some 22, some 3, some 7, some 7, some 0xFFFFFFF9, some 19, some 6] := by
  decide
theorem test_integer_lane127 : ([.iadd la x1, .isub la x1, .imul la x1, .imulh la x1, .imin la x1, .imax la x1, .iabs la1 x1,
    .ineg la1 x1, .iadd la { x1 with sat := true }, .ineg la1 { x1 with sat := true }, .imulh la { ty := 2 },
    .lea la { ty := 6 }] : List Instr).map (fun i => after i ints (lane 10 127)) =
    [some 0x7FFFFFFF, some 0x80000001, some 0x80000000, some 0, some 0x80000000, some 0xFFFFFFFF, some 0x80000000,
     some 0x80000000, some 0x80000000, some 0x7FFFFFFF, some 0x7FFFFFFF, some 0x7FFFFFF8] := by decide

theorem test_runs_bits : ∀ p ∈ ([(.andL la xb, ab), (.orL la xb, ab), (.xorL la xb, ab), (.andnL la xb, ab), (.notL la1 xb, a1),
    (.shl la xb, ab), (.shr la xb, ab), (.sar la xb, ab), (.rotl la xb, ab), (.popc la1 xb, a1), (.clz la1 xb, a1),
    (.brev la1 xb, a1), (.sel la { xb with c := 8, pd := 7 }, abc), (.sel la xb, { ab with pr := [0] }), (.bfe la x1, ab),
    (.bfe la1 { x1 with c := 1, imm := 0x7FF }, a1), (.bfi la { xb with c := 8 }, abc), (.prmt la { xb with c := 8 }, abc)] :
    List (Instr × Foot)), LaneRuns p.1 7 p.2 ints := lanes_of (by decide)
theorem test_bits_lane0 : ([.andL la xb, .orL la xb, .xorL la xb, .andnL la xb, .notL la1 xb, .shl la xb, .shr la xb, .sar la xb,
    .rotl la xb, .popc la1 xb, .clz la1 xb, .brev la1 xb, .sel la { xb with c := 8, pd := 7 }, .sel la xb,
    .bfe la1 { x1 with c := 1, imm := 65 }, .bfe la1 { ty := 2, c := 1, imm := 65 }] : List Instr).map
      (fun i => after i ints (lane 10 0)) =
    [some 3, some 7, some 4, some 4, some 0xFFFFFFF8, some 56, some 0, some 0, some 56, some 3, some 29, some 0xE0000000,
     some 3, some 3, some 0xFFFFFFFF, some 3] := by decide
theorem test_bits_lane2 : ([.shl la xb, .shr la xb, .sar la xb, .rotl la xb, .popc la1 xb, .clz la1 xb, .brev la1 xb, .sel la xb,
    .shl la1 { xb with c := 1, imm := 32 }, .sar la1 { xb with c := 1, imm := 32 }] : List Instr).map
      (fun i => after i ints (lane 10 2)) =
    [some 0xFFFFFFC0, some 0x07FFFFFF, some 0xFFFFFFFF, some 0xFFFFFFDF, some 31, some 0, some 0x7FFFFFFF, some 0xFFFFFFFE,
     some 0, some 0xFFFFFFFF] := by decide
/-- BFI puts two bits of 7 at bit 1 of 1; PRMT takes bytes 0, 4 (of B), 0 and 0. -/
theorem test_field_lane0 : ([.bfi { la with b := 12 } { xb with c := 8 }, .prmt la { xb with c := 14 }] : List Instr).map
      (fun i => after i (withV ints [(12, vals 65 0 0), (14, vals 0x40 0 0)]) (lane 10 0)) = [some 7, some 0x07070307] := by decide

namespace Sys2Proof.Tests
def predBits (i : Instr) (s : State) (p : Nat) : Option Nat := after i s (fun t => (t.g.pred p).toNat % 8 + 8 * (t.g.pred p).toNat / 2 ^ 127)
/-- v4 1.0, 2.0, -1.5; v6 0.5, 3.0, 1.0; v8 1.0; v20, v21 pairs of halves; v12:13 .f64 2.0, v14:15 .f64 0.5, v16:17 1.0. -/
def floats : State := withV base [(4, vals 0x3F800000 0x40000000 0xBFC00000), (6, vals 0x3F000000 0x40400000 0x3F800000),
  (8, vals 0x3F800000 0x3F800000 0x3F800000), (20, vals 0x40003C00 0 0), (21, vals 0x3C003C00 0 0), (13, vals 0x40000000 0 0),
  (15, vals 0x3FE00000 0 0), (17, vals 0x3FF00000 0 0), (18, vals 0x44610000 0x44781000 0), (19, vals 0x81 0x81 0x81),
  (22, vals 0x7C 0 0), (23, vals 0x40800000 0 0)]
end Sys2Proof.Tests

theorem test_runs_predicates : ∀ p ∈ ([(.iset { la with d := 2 } { x1 with pd := 2 }, { vr := [4, 6], pw := [2] }),
    (.pset {} { xb with c := 1, pd := 2, imm := 0x8E }, { pr := [0, 1], pw := [2] }),
    (.fset { la with d := 5 } { x3 with pd := 6 }, { vr := [4, 6], pw := [6] })] : List (Instr × Foot)), LaneRuns p.1 7 p.2 floats :=
  lanes_of (by decide)
/-- Bits 0 and 2 of the predicate, and 8 for lane 127. -/
theorem test_predicate_values : [predBits (.iset { la with d := 2 } { x1 with pd := 2 }) ints 2,
    predBits (.iset { la with d := 2 } { ty := 2, pd := 2 }) ints 2, predBits (.pset {} { xb with c := 1, pd := 2, imm := 0x8E }) ints 2,
    predBits (.pset {} { xb with c := 1, pd := 2, imm := 0x88 }) ints 2, predBits (.fset { la with d := 2 } { x3 with pd := 2 }) floats 2] =
    [some 12, some 8, some 13, some 0, some 12] := by decide

theorem test_runs_float : ∀ p ∈ ([(.fadd la x3, ab), (.fsub la x3, ab), (.fmul la x3, ab), (.ffma la { x3 with c := 8 }, abc),
    (.fmin la x3, ab), (.fmax la x3, ab), (.fclass la1 x3, a1), (.fclass { d := 10, a := 12 } x11, { vr := [12, 13], vw := [10] }),
    (.hadd2 { d := 10, a := 20, b := 21 } { ty := 9 }, { vr := [20, 21], vw := [10] }),
    (.hmul2 { d := 10, a := 20, b := 21 } { ty := 10 }, { vr := [20, 21], vw := [10] }),
    (.hfma2 { d := 10, a := 20, b := 21 } { ty := 9, c := 21 }, { vr := [20, 21, 21], vw := [10] }),
    (.hmin2 { d := 10, a := 20, b := 21 } { ty := 9 }, { vr := [20, 21], vw := [10] }),
    (.hmax2 { d := 10, a := 20, b := 21 } { ty := 9 }, { vr := [20, 21], vw := [10] })] : List (Instr × Foot)),
    LaneRuns p.1 7 p.2 floats := lanes_of (by decide)
theorem test_fclass_type : Fp.Fmt.ofCode x3.ty.toNat = some Fp.f32 := by decide
theorem test_float_lane0 : ([.fadd la x3, .fsub la x3, .fmul la x3, .ffma la { x3 with c := 8 }, .fmin la x3, .fmax la x3, .fclass la1 x3,
    .hadd2 { d := 10, a := 20, b := 21 } { ty := 9 }, .hmul2 { d := 10, a := 20, b := 21 } { ty := 9 },
    .hfma2 { d := 10, a := 20, b := 21 } { ty := 9, c := 21 }, .hmin2 { d := 10, a := 20, b := 21 } { ty := 9 },
    .hmax2 { d := 10, a := 20, b := 21 } { ty := 9 }] : List Instr).map (fun i => after i floats (lane 10 0)) =
    [some 0x3FC00000, some 0x3F000000, some 0x3F000000, some 0x3FC00000, some 0x3F000000, some 0x3F800000, some 64,
     some 0x42004000, some 0x40003C00, some 0x42004000, some 0x3C003C00, some 0x40003C00] := by decide
theorem test_float_lane127 : ([.fadd la x3, .fmul la x3, .fmin la x3, .fmax la x3, .fclass la1 x3, .fadd la { x3 with na := true },
    .fadd la { x3 with abs := true }] : List Instr).map (fun i => after i floats (lane 10 127)) =
    [some 0xBF000000, some 0xBFC00000, some 0xBFC00000, some 0x3F800000, some 2, some 0x40200000, some 0x40200000] := by decide

theorem test_runs_conversions : ∀ p ∈ ([(.cvt la1 { x1 with imm := 3 }, a1), (.cvt { d := 10, a := 12 } { x3 with imm := 11 }, { vr := [12, 13], vw := [10] }),
    (.cvt la1 { x11 with imm := 3 }, { vr := [4], vw := [10, 11] }),
    (.qnt { d := 10, a := 18, b := 19 } { ty := 12, imm := 15 }, { vr := [18, 19], vw := [10] }),
    (.dqnt { d := 10, a := 22, b := 19 } { ty := 12, imm := 15 }, { vr := [22, 19], vw := [10] }),
    (.scle { d := 10, a := 18 } { ty := 12 }, { vr := [18], vw := [10] }),
    (.pack la { ty := 9, imm := 3 }, { vr := [4, 6, 10], vw := [10] }), (.unpk { d := 10, a := 20, b := 8 } { x3 with imm := 9 }, { vr := [20, 8], vw := [10] }),
    (.unpk { d := 10, a := 20, b := 8 } { x11 with imm := 9 }, { vr := [20, 8], vw := [10, 11] })] : List (Instr × Foot)),
    LaneRuns p.1 7 p.2 floats := lanes_of (by decide)
/-- QNT, DQNT and SCLE have the values of the worked program of chapter 15 (lane 60 and block 1 there). -/
theorem test_conversion_lane0 : ([.cvt la1 { x1 with imm := 3 }, .qnt { d := 10, a := 18, b := 19 } { ty := 12, imm := 15 },
    .dqnt { d := 10, a := 22, b := 19 } { ty := 12, imm := 15 }, .scle { d := 10, a := 18 } { ty := 12 },
    .pack la { ty := 9, imm := 3 }, .unpk { d := 10, a := 20, b := 0 } { x3 with imm := 9 }] : List Instr).map
      (fun i => after i floats (lane 10 0)) = [some 1, some 0x7C, some 0x44580000, some 0x81, some 0x38003C00, some 0x3F800000] := by decide

namespace Sys2Proof.Tests
/-- Words of the long result at lane 0. -/
def longWords (t : State) : Nat := ((t.g.longs.flatMap (·.vs)).map (fun v => (v.2.2.get 0).toNat)).foldr (fun a b => a + 2 ^ 32 * b) 0
def d2 : LA := { d := 10, a := 12, b := 14 }
def dfoot : Foot := { vr := [12, 13, 14, 15], vw := [10, 11] }
end Sys2Proof.Tests

theorem test_runs_long : ∀ p ∈ ([(.frcp la1 x3, a1), (.fsqrt la1 x3, a1), (.frsq la1 x3, a1), (.fex2 la1 x3, a1), (.flg2 la1 x3, a1),
    (.dadd d2 x11, dfoot), (.dmul d2 x11, dfoot), (.dfma d2 { x11 with c := 16 }, { vr := [12, 13, 14, 15, 16, 17], vw := [10, 11] }),
    (.dmin d2 x11, dfoot), (.dmax d2 x11, dfoot), (.drcp { d := 10, a := 12 } x11, { vr := [12, 13], vw := [10, 11] }),
    (.dsqrt { d := 10, a := 12 } x11, { vr := [12, 13], vw := [10, 11] }),
    (.dset { d2 with d := 2 } { x11 with pd := 2 }, { vr := [12, 13, 14, 15], pw := [2] })] : List (Instr × Foot)),
    LaneRuns p.1 7 p.2 floats := lanes_of (by decide)
/-- 1 / 0.5, √4, 1 / √4, log2 4; then .f64 2.5, 1.0, 0.5, 2.0. -/
theorem test_long_lane0 : ([.frcp { d := 10, a := 6 } x3, .fsqrt { d := 10, a := 23 } x3, .frsq { d := 10, a := 23 } x3,
    .flg2 { d := 10, a := 23 } x3, .dadd d2 x11,
    .dmul d2 x11, .dmin d2 x11, .dmax d2 x11] : List Instr).map (fun i => after i floats longWords) =
    [some 0x40000000, some 0x40000000, some 0x3F000000, some 0x40000000, some 0x4004000000000000,
     some 0x3FF0000000000000, some 0x3FE0000000000000, some 0x4000000000000000] := by decide

theorem test_runs_cross_lane : ∀ p ∈ ([(.shfl la { xb with pd := 7 }, ab), (.shfl la { xb with pd := 2 }, { ab with pw := [2] }),
    (.matchL la1 { xb with pd := 0 }, { a1 with pw := [0] }), (.redux la1 { x1 with c := 1 }, a1), (.scan la1 { x1 with c := 1, imm := 8 }, a1),
    (.redux la1 { x3 with c := 1, imm := 2 }, a1), (.rdlane la xb, { vr := [4, 6], sw := [10] }), (.movs { d := 10, a := 5 }, { sr := [5], vw := [10] }),
    (.vote { d := 10 } { xb with c := 1, imm := 16 + 128, pd := 0 }, { pr := [0], vw := [10] }),
    (.vote {} { xb with c := 1, imm := 8 + 1, pd := 6 }, { pr := [1], pw := [6] }),
    (.nop {}, {}), (.fenceW {}, {}), (.fenceTm { b := 1 }, {}), (.fenceGl { b := 2 }, {})] : List (Instr × Foot)), LaneRuns p.1 7 p.2 ints := lanes_of (by decide)
/-- SHFL from lane 2 (lane 3, not active, for lane 0 keeps its own); MATCH; sums of 7 - 2 - 2^31; VOTE.ballot, VOTE.cnt. -/
theorem test_cross_lane : [after (.shfl la { xb with pd := 7 }) ints (lane 10 0), after (.shfl la1 { xb with c := 1, imm := 2, pd := 7 }) ints (lane 10 0),
    after (.matchL { d := 10, a := 8 } { xb with pd := 7 }) ints (lane 10 127), after (.redux la1 { x1 with c := 1 }) ints (lane 10 0),
    after (.redux la1 { x1 with c := 1, imm := 1 }) ints (lane 10 0), after (.scan la1 { x1 with c := 1 }) ints (lane 10 2),
    after (.scan la1 { x1 with c := 1, imm := 8 }) ints (lane 10 2), after (.scan la1 { x1 with c := 1, imm := 8 }) ints (lane 10 0),
    after (.vote { d := 10 } { xb with c := 1, imm := 16 + 1, pd := 0 }) ints (lane 10 0),
    after (.vote { d := 10 } { xb with c := 1, imm := 24 + 1, pd := 0 }) ints (lane 10 0),
    after (.rdlane la1 { xb with c := 1, imm := 127 }) ints (fun t => (t.g.sreg 10).toNat),
    after (.movs { d := 10, a := 5 }) (withS ints [(5, 99)]) (lane 10 127)] =
    [some 7, some 0xFFFFFFFE, some 0, some 0x80000005, some 0x80000000, some 5, some 7, some 0, some 1, some 2, some 0x80000000,
     some 99] := by decide

/-! ## Moves in a handler, fences, and instructions without an active lane -/

namespace Sys2Proof.Tests
/-- The group runs its handler: it holds the handler set, and t3 holds 7, 8, 9. -/
def inHandler (s : State) : State :=
  let s := { s with parts := s.parts.set {} s.g.partKey { s.part s.g.partKey with owner := some 2, t := ⟨[(3, vals 7 8 9)]⟩ } }
  { s with cur := { s.cur with handler := true } }
/-- An atomic of lane 2 that has not been performed. -/
def pendingAtomic : HomeOp := { id := 1, gid := 2, lanes := [{ lane := 2, va := 0x100, pa := wordPa + 0x100, loc := wordPa + 0x100, a := 0, b := 0 }], width := 4 }
def withAtomic (s : State) : State := { s with mem := { s.mem with homeOps := [pendingAtomic] } }
end Sys2Proof.Tests

theorem test_runs_handler_move : (inHandler ints).cur.handler = true ∧
    LaneRuns (.mov { la1 with d := 3, b := 1 }) 7 { vr := [4] } (inHandler ints) ∧
    (∀ b ∈ ((inHandler ints).part (inHandler ints).g.partKey).bad, b.1 = 3 → b.2 &&& (inHandler ints).active 7 = 0) ∧
    LaneRuns (.mov { d := 10, a := 3, b := 2 }) 7 { vw := [10] } (inHandler ints) :=
  ⟨by decide, lane_of (by decide), by decide, lane_of (by decide)⟩
theorem test_handler_move : after (.mov { d := 10, a := 3, b := 2 }) (inHandler ints) (lane 10 127) = some 9 ∧
    after (.mov { la1 with d := 3, b := 1 }) (inHandler ints) (fun t => (((t.part t.g.partKey).t.get {} 3).get 0).toNat) = some 7 := by
  decide
/-- FENCE.w waits here; in `ints` (`test_runs_cross_lane`) it does not. -/
theorem test_fence_pending : LaneRuns (.fenceW {}) 7 {} (withAtomic ints) ∧
    ∃ o ∈ (withAtomic ints).mem.homeOps, o.gid = 2 ∧ o.done = false ∧ o.id < (withAtomic ints).nextId ∧
      ∃ l ∈ o.lanes, (withAtomic ints).cur.lanes.has l.lane = true := ⟨lane_of (by decide), by decide⟩
theorem test_fence_clear : ints.mem.homeOps = [] := by decide
theorem test_inactive : base.cur.stage = 0 ∧ base.cur.aslice = false ∧ base.cur.lanes ≠ 0 ∧ base.active 2 = 0 := by decide

/-! ## Memory -/

namespace Sys2Proof.Tests
def inWindowOk (s : State) (space : Nat) (x : LXM) (ea : Nat → Int) (m : Mask) : Bool :=
  (List.range 128).all (fun l => !m.has l ||
    (ea l % size x == 0 && decide (0 ≤ ea l) && decide (ea l + size x ≤ winBytes s space)))
theorem inWindow_of {s : State} {space : Nat} {x : LXM} {ea : Nat → Int} {m : Mask} (h : inWindowOk s space x ea m = true) :
    ∀ l < 128, m.has l = true → inWindow s space x (ea l) := by
  intro l hl hm
  have := List.all_eq_true.mp h l (List.mem_range.mpr hl)
  simp only [hm, Bool.not_true, Bool.false_or, Bool.and_eq_true, beq_iff_eq, decide_eq_true_eq] at this
  exact ⟨this.1.1, this.1.2, this.2⟩

def mappedOk (s : State) (a : Acc) (va pa cm : Nat) : Bool :=
  canonical va && match s.tlbFind s.g.coreKey s.asid va with
  | none => false
  | some e => permitted a e.pte && pa == pteFrame e.pte + va56 va % 2 ^ e.size && pteRes e.pte == 0 && pteTier e.pte != 2 &&
      (!(pteTier e.pte == 0 && tierOf pa == .hbmA) || s.mapValid (pteCm e.pte)) && pteWorld e.pte == s.secureAt pa &&
      (!s.secureAt pa || s.host.secure.contains s.g.coreKey) && (!(a == .store || a == .atomic) || pteD e.pte) &&
      cm == (if pteTier e.pte = 0 ∧ tierOf pa = .hbmA then pteCm e.pte else 0)
theorem mapped_of {s : State} {a : Acc} {va pa cm : Nat} (h : mappedOk s a va pa cm = true) : mapped s a va pa cm := by
  unfold mappedOk at h
  split at h
  · simp at h
  · rename_i e he
    simp only [Bool.and_eq_true, Bool.or_eq_true, Bool.not_eq_true', beq_iff_eq, bne_iff_ne] at h
    obtain ⟨c, ⟨⟨⟨⟨⟨⟨⟨p, q⟩, r⟩, t⟩, m⟩, w⟩, k⟩, d⟩, z⟩ := h
    refine ⟨c, e, he, p, q, r, t, fun h1 h2 => ?_, w, fun hs => ?_, fun ha => ?_, z⟩
    · rcases m with m | m
      · simp [h1, h2] at m
      · exact m
    · rcases k with k | k
      · simp [hs] at k
      · exact k
    · rcases d with d | d
      · rcases ha with ha | ha <;> simp [ha] at d
      · exact d
theorem mapped_lanes {s : State} {a : Acc} {va pa cm : Nat → Nat} {m : Mask} {n : Nat}
    (h : (List.range 128).all (fun l => !m.has l || (va l % n == 0 && mappedOk s a (va l) (pa l) (cm l))) = true) :
    ∀ l < 128, m.has l = true → va l % n = 0 ∧ mapped s a (va l) (pa l) (cm l) := by
  intro l hl hm
  have := List.all_eq_true.mp h l (List.mem_range.mpr hl)
  simp only [hm, Bool.not_true, Bool.false_or, Bool.and_eq_true, beq_iff_eq] at this
  exact ⟨this.1, mapped_of this.2⟩
/-- No line is uncorrectable at all. -/
theorem goodLine_of {s : State} (pa cm n : Nat) (h : s.mem.badLines = [] ∧ s.mem.badTable.cells = []) : goodLine s pa cm n := by
  intro k _
  simp [State.badByte, h.1, h.2]
theorem good_lanes {s : State} {P : Nat → Prop} {pa cm : Nat → Nat} {m : Mask} {n : Nat}
    (h : ∀ l < 128, m.has l = true → P l) (g : s.mem.badLines = [] ∧ s.mem.badTable.cells = []) :
    ∀ l < 128, m.has l = true → P l ∧ goodLine s (pa l) (cm l) n := fun l a b => ⟨h l a b, goodLine_of _ _ _ g⟩
/-- Nor is any word of team memory or scratch. -/
theorem readable_of {s : State} {space : Nat} {x : LXM} {ea : Nat → Int} {m : Mask} (h : inWindowOk s space x ea m = true)
    (g : s.mem.badWords = []) : ∀ l < 128, m.has l = true → inWindow s space x (ea l) ∧ goodWords s space x (ea l) :=
  fun l hl hm => ⟨inWindow_of h l hl hm, fun _ => by simp [State.winBad, g]⟩

/-- v20 window offsets 0, 16, 4092 (the top of team memory); v21 the top of scratch; v22:23 addresses in the page; v24:25
data. Team memory holds 1, 2, 3, 4 at 16 and its granules 0, 1 and 255 are full; memory holds 5 at VA 0x100. -/
def mems : State :=
  let s := withV base [(20, vals 0 16 4092), (21, vals 0 16 (2 ^ 26 - 4)), (22, vals 0x100 0x104 0x1F8), (24, vals 0x11223344 0x55667788 0x99AABBCC)]
  let k := s.g.teamKey
  let s := s.setTeam k { s.team k with tmem := ⟨[(16, 1), (17, 2), (18, 3), (19, 4)]⟩, full := ⟨[(0, true), (1, true), (255, true)]⟩ }
  { s with mem := { s.mem with base := ⟨[(wordPa + 0x100, 5), (wordPa + 0x1F9, 6)]⟩, scratch := ⟨[(2 ^ 26 - 1, 9)]⟩ } }
def mw (space width : Nat) : LXM := { space := BitVec.ofNat 3 space, width := BitVec.ofNat 3 width }
def one (s : State) (l : Nat) : State := { s with cur := { s.cur with lanes := BitVec.ofNat 128 (2 ^ l) } }
end Sys2Proof.Tests

theorem test_window_load : LaneRuns (.ld { d := 8, a := 20 } (mw 1 2)) 7 { vr := [20], vw := [8] } mems ∧
    (∀ l < 128, (mems.active 7).has l = true → inWindow mems 1 (mw 1 2) (winEA mems.g { d := 8, a := 20 } (mw 1 2) l) ∧
      goodWords mems 1 (mw 1 2) (winEA mems.g { d := 8, a := 20 } (mw 1 2) l)) ∧
    LaneRuns (.ld { d := 8, a := 21 } (mw 2 2)) 7 { vr := [21], vw := [8] } mems ∧
    (∀ l < 128, (mems.active 7).has l = true → inWindow mems 2 (mw 2 2) (winEA mems.g { d := 8, a := 21 } (mw 2 2) l) ∧
      goodWords mems 2 (mw 2 2) (winEA mems.g { d := 8, a := 21 } (mw 2 2) l)) ∧
    LaneRuns (.ld { d := 8, a := 20 } (mw 3 2)) 7 { vr := [20], vw := [8] } mems ∧
    LaneRuns (.ld { d := 8, a := 20 } (mw 4 2)) 7 { vr := [20], vw := [8] } (inHandler mems) ∧
    (∀ l < 128, (mems.active 7).has l = true → inWindow (inHandler mems) 4 (mw 4 2) (winEA mems.g { d := 8, a := 20 } (mw 4 2) l) ∧
      goodWords (inHandler mems) 4 (mw 4 2) (winEA mems.g { d := 8, a := 20 } (mw 4 2) l)) :=
  ⟨lane_of (by decide), readable_of (by decide) rfl, lane_of (by decide), readable_of (by decide) rfl, lane_of (by decide),
   lane_of (by decide), readable_of (by decide) rfl⟩
theorem test_window_load_value : after (.ld { d := 8, a := 20 } (mw 1 2)) mems
    (fun t => ((t.g.longs.flatMap (·.vs)).map (fun v => (v.2.2.get 2).toNat)).sum) = some 0x04030201 := by decide
theorem test_window_store : mems.mem.feWaits = [] ∧
    LaneRuns (.st { a := 20, b := 24 } (mw 1 2)) 7 { vr := [20, 24] } mems ∧
    LaneRuns (.st { a := 20, b := 24 } { mw 1 2 with fe := 3 }) 7 { vr := [20, 24] } mems ∧
    (∀ l < 128, (mems.active 7).has l = true → inWindow mems 1 (mw 1 2) (winEA mems.g { a := 20, b := 24 } (mw 1 2) l)) ∧
    LaneRuns (.st { a := 21, b := 24 } (mw 2 2)) 7 { vr := [21, 24] } mems ∧
    (∀ l < 128, (mems.active 7).has l = true → inWindow mems 2 (mw 2 2) (winEA mems.g { a := 21, b := 24 } (mw 2 2) l)) ∧
    LaneRuns (.st { a := 20, b := 24 } (mw 3 2)) 7 { vr := [20, 24] } mems ∧
    (∀ l < 128, (mems.active 7).has l = true → inWindow mems 3 (mw 3 2) (winEA mems.g { a := 20, b := 24 } (mw 3 2) l)) :=
  ⟨by decide, lane_of (by decide), lane_of (by decide), inWindow_of (by decide), lane_of (by decide), inWindow_of (by decide),
   lane_of (by decide), inWindow_of (by decide)⟩
/-- Lane 127's word stands at the top of team memory, lowest byte first. -/
theorem test_window_store_byte : after (.st { a := 20, b := 24 } (mw 1 2)) mems (fun t => (winAt t 1 4092).toNat) = some 0xCC ∧
    after (.st { a := 20, b := 24 } (mw 1 2)) mems (fun t => (winAt t 1 4095).toNat) = some 0x99 ∧
    after (.st { a := 20, b := 24 } (mw 1 2)) mems (fun t => (winAt t 1 20).toNat) = some 0 := by decide
theorem test_full_empty : mems.mem.feWaits = [] ∧ (∀ y ∈ mems.g.subs, y.done = 0) ∧ (mems.gridOf mems.cur.gid).launch.mode ≠ 2 ∧
    LaneRuns (.ld { d := 8, a := 20 } { mw 1 2 with fe := 2 }) 7 { vr := [20], vw := [8] } mems ∧
    LaneRuns (.ld { d := 8, a := 20 } { mw 1 2 with fe := 1 }) 7 { vr := [20], vw := [8] } mems ∧
    (∀ l < 128, (mems.active 7).has l = true → inWindow mems 1 { mw 1 2 with fe := 2 } (winEA mems.g { d := 8, a := 20 } (mw 1 2) l) ∧
      goodWords mems 1 { mw 1 2 with fe := 2 } (winEA mems.g { d := 8, a := 20 } (mw 1 2) l)) ∧
    (∀ l < 128, (mems.active 7).has l = true → mems.isFull 1 mems.g.teamKey (winEA mems.g { d := 8, a := 20 } (mw 1 2) l).toNat = true) ∧
    (∀ l < 128, (mems.active 7).has l = true → l ∈ [0, 2, 127]) ∧
    (∀ l ∈ [0, 2, 127], ∀ k ∈ [0, 2, 127], (winEA mems.g { d := 8, a := 20 } (mw 1 2) l).toNat / 16 =
      (winEA mems.g { d := 8, a := 20 } (mw 1 2) k).toNat / 16 → l = k) :=
  ⟨by decide, by decide, by decide, lane_of (by decide), lane_of (by decide), readable_of (by decide) rfl, by decide, by decide, by decide⟩
/-- One lane whose granule (2, of scratch) is empty. -/
theorem test_full_empty_waits : LaneRuns (.ld { d := 8, a := 21 } { mw 2 2 with fe := 1 }) 7 { vr := [21], vw := [8] } (one mems 2) ∧
    (∀ k < 128, ((one mems 2).active 7).has k = decide (k = 2)) ∧
    (one mems 2).isFull 2 mems.g.die (winEA mems.g { d := 8, a := 21 } (mw 2 2) 2).toNat = false ∧ (one mems 2).cur.handler = false :=
  ⟨lane_of (by decide), by decide, by decide, by decide⟩
theorem test_global_load : unwatched mems ∧ noAtomics mems ∧
    LaneRuns (.ld { d := 8, a := 22 } (mw 0 2)) 7 { vr := [22, 23], vw := [8] } mems ∧
    LaneRuns (.ldr { d := 8, a := 22 } { mw 0 2 with rp := 2 }) 7 { vr := [22, 23], vw := [8], pw := [2] } mems ∧
    LaneRuns (.pref { a := 22 } (mw 0 0)) 7 { vr := [22, 23] } mems ∧
    ∀ l < 128, (mems.active 7).has l = true → (glEA mems.g { d := 8, a := 22 } (mw 0 2) l % 4 = 0 ∧
      mapped mems .load (glEA mems.g { d := 8, a := 22 } (mw 0 2) l) (wordPa + glEA mems.g { d := 8, a := 22 } (mw 0 2) l) 0) ∧
      goodLine mems (wordPa + glEA mems.g { d := 8, a := 22 } (mw 0 2) l) 0 4 :=
  ⟨by unfold unwatched; decide, by unfold noAtomics; decide, lane_of (by decide), lane_of (by decide), lane_of (by decide),
   good_lanes (pa := fun l => wordPa + glEA mems.g { d := 8, a := 22 } (mw 0 2) l) (cm := fun _ => 0)
     (mapped_lanes (va := glEA mems.g { d := 8, a := 22 } (mw 0 2)) (cm := fun _ => 0) (by decide)) (by decide)⟩
theorem test_global_store : LaneRuns (.st { a := 22, b := 24 } (mw 0 2)) 7 { vr := [22, 23, 24] } mems ∧
    ∀ l < 128, (mems.active 7).has l = true → glEA mems.g { a := 22, b := 24 } (mw 0 2) l % 4 = 0 ∧
      mapped mems .store (glEA mems.g { a := 22, b := 24 } (mw 0 2) l) (wordPa + glEA mems.g { a := 22, b := 24 } (mw 0 2) l) 0 :=
  ⟨lane_of (by decide),
   mapped_lanes (va := glEA mems.g { a := 22, b := 24 } (mw 0 2)) (pa := fun l => wordPa + glEA mems.g { a := 22, b := 24 } (mw 0 2) l)
     (cm := fun _ => 0) (by decide)⟩
theorem test_global_values : after (.ld { d := 8, a := 22 } (mw 0 2)) mems longWords = some 5 ∧
    after (.st { a := 22, b := 24 } (mw 0 2)) mems (fun t => ((t.g.unpub.get none 0x1FB).map BitVec.toNat).getD 0) = some 0x99 := by decide
theorem test_window_atomics : (∀ p ∈ ([(.atom { a := 20, b := 24 } (mw 1 2), { vr := [20, 24] }),
    (.atom { d := 8, a := 20, b := 24 } { mw 1 2 with aop := 14 }, { vr := [20, 24], vw := [8] }),
    (.atomf { a := 20, b := 24 } (mw 1 2), { vr := [20, 24] }), (.cas { d := 8, a := 20, b := 24 } (mw 1 2), { vr := [20, 24, 8], vw := [8] })] :
    List (Instr × Foot)), LaneRuns p.1 7 p.2 mems) ∧
    (∀ l < 128, (mems.active 7).has l = true → inWindow mems 1 (mw 1 2) (winEA mems.g { a := 20, b := 24 } (mw 1 2) l) ∧
      goodWords mems 1 (mw 1 2) (winEA mems.g { a := 20, b := 24 } (mw 1 2) l)) :=
  ⟨lanes_of (by decide), readable_of (by decide) rfl⟩
theorem test_window_atomic_value :
    after (.atom { a := 20, b := 24 } (mw 1 2)) mems (fun t => little (fun k => winAt t 1 (16 + k)) 4) = some 0x59697989 ∧
    after (.cas { d := 8, a := 20, b := 24 } (mw 1 2)) mems (fun t => little (fun k => winAt t 1 k) 4) = some 0x11223344 := by decide
theorem test_global_atomics : (mems.gridOf mems.cur.gid).launch.mode ≠ 2 ∧
    (∀ p ∈ ([(.atom { a := 22, b := 24 } (mw 0 2), { vr := [22, 23, 24] }), (.atomf { d := 8, a := 22, b := 24 } { mw 0 2 with aop := 8 }, { vr := [22, 23, 24], vw := [8] }),
      (.cas { d := 8, a := 22, b := 24 } (mw 0 2), { vr := [22, 23, 24, 8], vw := [8] }), (.atld { d := 8, a := 22 } (mw 0 2), { vr := [22, 23], vw := [8] })] :
      List (Instr × Foot)), LaneRuns p.1 7 p.2 mems) ∧
    ∀ l < 128, (mems.active 7).has l = true → (glEA mems.g { d := 8, a := 22, b := 24 } (mw 0 2) l % 4 = 0 ∧
      mapped mems .atomic (glEA mems.g { d := 8, a := 22, b := 24 } (mw 0 2) l) (wordPa + glEA mems.g { d := 8, a := 22, b := 24 } (mw 0 2) l) 0) ∧
      goodLine mems (wordPa + glEA mems.g { d := 8, a := 22, b := 24 } (mw 0 2) l) 0 4 :=
  ⟨by decide, lanes_of (by decide),
   good_lanes (pa := fun l => wordPa + glEA mems.g { d := 8, a := 22, b := 24 } (mw 0 2) l) (cm := fun _ => 0)
     (mapped_lanes (va := glEA mems.g { d := 8, a := 22, b := 24 } (mw 0 2)) (cm := fun _ => 0) (by decide)) (by decide)⟩
/-- A load of lane 2 of the word on which its atomic is on the way. -/
theorem test_atomic_holds_load : let s := withV (one (withAtomic mems) 2) [(22, vals 0 0x100 0)]
    (∀ k < 128, (s.active 7).has k = decide (k = 2)) ∧ LaneRuns (.ld { d := 8, a := 22 } (mw 0 2)) 7 { vr := [22, 23], vw := [8] } s ∧
    glEA s.g { d := 8, a := 22 } (mw 0 2) 2 % 4 = 0 ∧ mapped s .load (glEA s.g { d := 8, a := 22 } (mw 0 2) 2) (wordPa + 0x100) 0 ∧
    goodLine s (wordPa + 0x100) 0 4 ∧ s.mem.homeOps = [pendingAtomic] ∧ pendingAtomic.gid = s.cur.gid ∧
    pendingAtomic.lanes.map (fun h => (h.lane, h.pa, h.performed)) = [(2, wordPa + 0x100, false)] :=
  ⟨by decide, lane_of (by decide), by decide, mapped_of (by decide), goodLine_of _ _ _ (by decide), by decide, by decide, by decide⟩

/-! ## Uniform instructions -/

namespace Sys2Proof.Tests
/-- s2:3 0x100, s4 40, s6 -16, s8 3, s14 1, s16:17 0x4040, s18 0; the A-slice's a2:3 0x100, a4 40, a6 -16, a8 3. -/
def sregs : State :=
  let s := withS mems [(2, 0x100), (4, 40), (6, 0xFFFFFFF0), (8, 3), (14, 1), (16, 0x4000)]
  onG s (fun g => { g with sliced := true, a := { g.a with regs := ⟨[(2, 0x100), (4, 40), (6, 0xFFFFFFF0), (8, 3)]⟩ } })
def slice (s : State) : State := { s with cur := { s.cur with aslice := true } }
def ga (d a x : Nat) (i : Bool := false) : GA := { d := BitVec.ofNat 6 d, a := BitVec.ofNat 6 a, i, x := BitVec.ofNat 7 x }
def sreg (r : Nat) (t : State) : Nat := (SR t r).toNat
def uniforms : List (Instr × Foot) := [(.smov (ga 10 4 0), { sr := [4], sw := [10] }), (.smovImm (ga 10 0 0x7F true), { sw := [10] }),
  (.smovi (ga 10 0 0) 5, { sw := [10] }), (.sadd (ga 10 4 8), { sr := [4, 8], sw := [10] }), (.ssub (ga 10 4 8), { sr := [4, 8], sw := [10] }),
  (.smul (ga 10 6 8), { sr := [6, 8], sw := [10] }), (.smin (ga 10 6 8), { sr := [6, 8], sw := [10] }), (.smax (ga 10 6 8), { sr := [6, 8], sw := [10] }),
  (.sand (ga 10 4 8), { sr := [4, 8], sw := [10] }), (.sor (ga 10 4 8), { sr := [4, 8], sw := [10] }), (.sxor (ga 10 4 4), { sr := [4, 4], sw := [10] }),
  (.sshl (ga 10 4 8), { sr := [4, 8], sw := [10] }), (.sshr (ga 10 6 8), { sr := [6, 8], sw := [10] }), (.ssar (ga 10 6 8), { sr := [6, 8], sw := [10] }),
  (.slea (ga 10 2 8) { ty := 6 }, { sr := [2, 3, 8], sw := [10, 11] }), (.sadd (ga 10 4 0x7F true), { sr := [4], sw := [10] })]
end Sys2Proof.Tests

theorem test_runs_uniform : ∀ p ∈ uniforms, GroupRuns p.1 7 p.2 sregs := groups_of (by decide)
theorem test_runs_uniform_slice : ∀ p ∈ uniforms, SliceRuns p.1 7 p.2 (slice sregs) := slices_of (by decide)
theorem test_runs_uniform_predicates : ∀ p ∈ ([(.ssel (ga 10 4 8) { pred := 1 }, { sr := [4, 8], sw := [10], qr := [1] }),
    (.sset (ga 0 6 8) { sub := 2, pred := 2, ty := 1 }, { sr := [6, 8], qw := [2] })] : List (Instr × Foot)), GroupRuns p.1 7 p.2 sregs :=
  groups_of (by decide)
theorem test_uniform_values : uniforms.map (fun p => after p.1 sregs (sreg 10)) =
    [some 40, some 0xFFFFFFFF, some 5, some 43, some 37, some 0xFFFFFFD0, some 0xFFFFFFF0, some 3, some 0, some 43, some 0, some 320,
     some 0x1FFFFFFE, some 0xFFFFFFFE, some 0x118, some 39] := by decide
theorem test_uniform_slice_values : (uniforms.take 14).map (fun p => after p.1 (slice sregs) (sreg 10)) =
    [some 40, some 0xFFFFFFFF, some 5, some 43, some 37, some 0xFFFFFFD0, some 0xFFFFFFF0, some 3, some 0, some 43, some 0, some 320,
     some 0x1FFFFFFE, some 0xFFFFFFFE] := by decide
theorem test_uniform_predicates : after (.ssel (ga 10 4 8) { pred := 1 }) sregs (sreg 10) = some 40 ∧
    after (.ssel (ga 10 4 8) { pred := 2 }) sregs (sreg 10) = some 3 ∧
    after (.sset (ga 0 6 8) { sub := 2, pred := 2, ty := 1 }) sregs (fun t => (t.g.qpred 2).toNat) = some 1 ∧
    after (.sset (ga 0 6 8) { sub := 2, pred := 2, ty := 2 }) sregs (fun t => (t.g.qpred 2).toNat) = some 0 := by decide

theorem test_runs_group_branch : sregs.g.traced = false ∧ GroupRuns (.sbra {} 4) 7 {} sregs ∧ SliceRuns (.sbra {} 4) 7 {} (slice sregs) ∧
    GroupRuns (.sloop (ga 8 0 0) 4) 7 { sr := [8], sw := [8] } sregs ∧ GroupRuns (.sloop (ga 14 0 0) 4) 7 { sr := [14], sw := [14] } sregs ∧
    SliceRuns (.sloop (ga 8 0 0) 4) 7 { sr := [8], sw := [8] } (slice sregs) ∧ (slice sregs).g.traced = false :=
  ⟨by decide, group_of (by decide), slice_of (by decide), group_of (by decide), group_of (by decide), slice_of (by decide), by decide⟩
/-- SLOOP of s8 = 3 branches to PC + 16; of s14 = 1 it falls through. -/
theorem test_group_branch : after (.sloop (ga 8 0 0) 4) sregs (fun t => t.g.subs.map (·.pc) |>.sum) = some 16 ∧
    after (.sloop (ga 14 0 0) 4) sregs (fun t => t.g.subs.map (·.pc) |>.sum) = some 8 ∧
    after (.sbra {} 0xFFFFFFFF) (slice sregs) (fun t => t.g.a.pc) = some (2 ^ 64 - 4) ∧
    after (.sbra {} 0) (slice sregs) (fun t => (t.g.a.wait == .idle).toNat) = some 1 := by decide

namespace Sys2Proof.Tests
def sx (n : Nat) : GXC := { imm := BitVec.ofNat 16 n }
def steered (s : State) (mode : Nat) : State :=
  { s with grids := s.grids.set {} s.g.grid { s.grid s.g.grid with launch := { (s.grid s.g.grid).launch with mode } } }
end Sys2Proof.Tests

theorem test_runs_sread : (∀ n ∈ [1, 2, 3, 4, 5, 6, 7, 8, 9, 10, 12, 15, 16, 17, 20, 21, 22, 14],
      GroupRuns (.sread (ga 10 0 0) (sx n)) 7 { sw := [10], xr := [n] } sregs ∧ SliceRuns (.sread (ga 10 0 0) (sx n)) 7 { sw := [10], xr := [n] } (slice sregs)) ∧
    (∀ n ∈ [11, 13, 18, 19], GroupRuns (.sread (ga 10 0 0) (sx n)) 7 { sw := [10, 11], xr := [n] } sregs) ∧
    GroupRuns (.sread (ga 10 0 0) (sx 0)) 7 { vw := [10] } sregs ∧ (specials sregs).map (·.1) =
      [1, 2, 3, 4, 5, 6, 7, 8, 9, 10, 11, 12, 13, 15, 16, 17, 18, 19, 20, 21, 22] :=
  ⟨fun n hn => ⟨group_of (List.all_eq_true.mp (show ([1, 2, 3, 4, 5, 6, 7, 8, 9, 10, 12, 15, 16, 17, 20, 21, 22, 14].all
      (fun n => groupOk (.sread (ga 10 0 0) (sx n)) 7 { sw := [10], xr := [n] } sregs)) = true by decide) n hn),
    slice_of (List.all_eq_true.mp (show ([1, 2, 3, 4, 5, 6, 7, 8, 9, 10, 12, 15, 16, 17, 20, 21, 22, 14].all
      (fun n => sliceOk (.sread (ga 10 0 0) (sx n)) 7 { sw := [10], xr := [n] } (slice sregs))) = true by decide) n hn)⟩,
   fun n hn => group_of (List.all_eq_true.mp (show ([11, 13, 18, 19].all
      (fun n => groupOk (.sread (ga 10 0 0) (sx n)) 7 { sw := [10, 11], xr := [n] } sregs)) = true by decide) n hn),
   group_of (by decide), by decide⟩
theorem test_sread : after (.sread (ga 10 0 0) (sx 0)) sregs (lane 10 127) = some 127 ∧
    after (.sread (ga 10 0 0) (sx 0x12)) sregs (sreg 10) = some 0x4000 ∧ after (.sread (ga 10 0 0) (sx 0x11)) sregs (sreg 10) = some 1 ∧
    after (.sread (ga 10 0 0) (sx 14)) sregs (sreg 10) = some 0xFFFFFFFF := by decide
theorem test_runs_swrite : GroupRuns (.swrite (ga 0 8 0) (sx 0x11)) 7 { sr := [8] } sregs ∧
    GroupRuns (.swrite (ga 0 16 0) (sx 0x12)) 7 { sr := [16, 17] } sregs ∧ SR64 sregs 16 % 2 ^ 10 = 0 ∧
    GroupRuns (.swrite (ga 0 16 0) (sx 0x13)) 7 { sr := [16, 17] } sregs ∧ GroupRuns (.swrite (ga 0 8 0) (sx 0x15)) 7 { sr := [8] } sregs ∧
    GroupRuns (.swrite (ga 0 10 0) (sx 0x14)) 7 { sr := [10] } sregs ∧ GroupRuns (.gang (ga 0 10 0) {}) 7 { sr := [10] } sregs ∧
    GangValue sregs.launch.groups sregs.g.slot sregs.g.num (SA sregs (ga 0 10 0)).toNat ∧ GangIdle sregs :=
  ⟨group_of (by decide), group_of (by decide), by decide, group_of (by decide), group_of (by decide), group_of (by decide),
   group_of (by decide), .inl (by decide), fun o ho => by simp [show sregs.eng.ops = [] by decide] at ho⟩
theorem test_swrite : after (.swrite (ga 0 6 0) (sx 0x11)) sregs (fun t => t.g.spec.fpflags) = some 16 ∧
    after (.swrite (ga 0 16 0) (sx 0x12)) sregs (fun t => t.g.spec.trapbase) = some 0x4000 := by decide

theorem test_runs_scalar_memory : GroupRuns (.sld (ga 10 4 0) (mw 1 2)) 7 { sr := [4], sw := [10] } sregs ∧
    SliceRuns (.sld (ga 10 4 0) (mw 1 2)) 7 { sr := [4], sw := [10] } (slice sregs) ∧
    inWindow sregs 1 (mw 1 2) (scalarWin sregs (ga 10 4 0) (mw 1 2)) ∧ goodWords sregs 1 (mw 1 2) (scalarWin sregs (ga 10 4 0) (mw 1 2)) ∧ inWindow (slice sregs) 1 (mw 1 2) (scalarWin (slice sregs) (ga 10 4 0) (mw 1 2)) ∧
    goodWords (slice sregs) 1 (mw 1 2) (scalarWin (slice sregs) (ga 10 4 0) (mw 1 2)) ∧
    GroupRuns (.sst (ga 0 4 8) (mw 1 2)) 7 { sr := [4, 8] } sregs ∧ GroupRuns (.sst (ga 0 4 8) (mw 2 3)) 7 { sr := [4, 8, 9] } sregs ∧
    inWindow sregs 2 (mw 2 3) (scalarWin sregs (ga 0 4 8) (mw 2 3)) ∧ sregs.mem.feWaits = [] :=
  ⟨group_of (by decide), slice_of (by decide), by unfold inWindow; decide, fun _ => by decide, by unfold inWindow; decide, fun _ => by decide, group_of (by decide), group_of (by decide),
   by unfold inWindow; decide, by decide⟩
theorem test_runs_scalar_global : GroupRuns (.sld (ga 10 2 0) (mw 0 2)) 7 { sr := [2, 3], sw := [10] } sregs ∧
    SliceRuns (.sld (ga 10 2 0) (mw 0 2)) 7 { sr := [2, 3], sw := [10] } (slice sregs) ∧ GroupRuns (.sst (ga 0 2 8) (mw 0 2)) 7 { sr := [2, 3, 8] } sregs ∧
    scalarVA sregs (ga 10 2 0) (mw 0 2) % size (mw 0 2) = 0 ∧ mapped sregs .load (scalarVA sregs (ga 10 2 0) (mw 0 2)) (wordPa + 0x100) 0 ∧
    mapped (slice sregs) .load (scalarVA (slice sregs) (ga 10 2 0) (mw 0 2)) (wordPa + 0x100) 0 ∧
    mapped sregs .store (scalarVA sregs (ga 0 2 8) (mw 0 2)) (wordPa + 0x100) 0 ∧ goodLine sregs (wordPa + 0x100) 0 4 ∧ unwatched sregs ∧ noAtomics sregs :=
  ⟨group_of (by decide), slice_of (by decide), group_of (by decide), by decide, mapped_of (by decide), mapped_of (by decide), mapped_of (by decide),
   goodLine_of _ _ _ (by decide), by unfold unwatched; decide, by unfold noAtomics; decide⟩
theorem test_scalar_memory : after (.sld (ga 10 2 0) (mw 0 2)) (slice sregs) (sreg 10) = some 5 ∧
    after (.sst (ga 0 4 8) (mw 1 2)) sregs (fun t => (winAt t 1 40).toNat) = some 3 ∧
    after (.sst (ga 0 2 8) (mw 0 2)) sregs (fun t => ((t.g.unpub.get none 0x100).map BitVec.toNat).getD 0) = some 3 := by decide

/-! ## Lane control flow and traps -/

namespace Sys2Proof.Tests
/-- v26:27 the address 0x40, v28 table indices 0, 1, 0; 0xFFF00001 stands before 0x40, and a table of 0x10 and -8 at 0x80. -/
def branches : State :=
  let s := withV mems [(26, vals 0x40 0x40 0x40), (28, vals 0 1 0)]
  let m (b : FMap Byte) (va v : Nat) : FMap Byte := (List.range 4).foldl (fun b k => b.set 0 (wordPa + va + k) (BitVec.ofNat 8 (v / 256 ^ k))) b
  onG { s with mem := { s.mem with base := m (m (m s.mem.base 0x3C 0xFFF00001) 0x80 0x10) 0x84 0xFFFFFFF8 } } (fun g => { g with budget := 1 })
def tableWord (l : Nat) : Nat := if l = 2 then 0xFFFFFFF8 else 0x10
theorem fetches_of {s : State} {va e pa : Nat} (h : (mappedOk s .fetch va pa 0 && s.mem.badLines.isEmpty && s.mem.badTable.cells.isEmpty &&
    e == little (fun k => s.loadByte s.g s.g.cut (va + k) (s.at 0 (pa + k))) 4) = true) : fetches s va e := by
  simp only [Bool.and_eq_true, beq_iff_eq, List.isEmpty_iff] at h
  exact ⟨pa, 0, mapped_of h.1.1.1, goodLine_of _ _ _ ⟨h.1.1.2, h.1.2⟩, h.2⟩
theorem all_of {m : Mask} {P : Nat → Prop} [DecidablePred P] (h : (List.range 128).all (fun l => !m.has l || decide (P l)) = true) :
    ∀ l < 128, m.has l = true → P l := fun l hl hm => by
  have := List.all_eq_true.mp h l (List.mem_range.mpr hl)
  simpa [hm] using this
theorem below_of {P : Nat → Prop} [DecidablePred P] (h : (List.range 128).all (fun l => decide (P l)) = true) : ∀ l < 128, P l :=
  fun l hl => of_decide_eq_true (List.all_eq_true.mp h l (List.mem_range.mpr hl))
theorem L_lanes {l : Nat} (hl : l < 128) (h : (base.active 7).has l = true) : l = 0 ∨ l = 2 ∨ l = 127 := by
  have : ∀ l < 128, (base.active 7).has l = true → l = 0 ∨ l = 2 ∨ l = 127 := by decide
  exact this l hl h
def setPart (s : State) (f : Part → Part) : State := { s with parts := s.parts.set {} s.g.partKey (f (s.part s.g.partKey)) }
/-- Join stacks: lanes 0 and 2 pushed PC 0 together, lane 127 stands elsewhere. -/
def joins : State := onG base (fun g => { g with joins := ⟨[(0, [(0, BitVec.ofNat 128 5), (8, L)]), (2, [(0, BitVec.ofNat 128 5), (8, L)])]⟩ })
/-- The same with lane 3 in the entry: it has neither arrived nor exited. -/
def joinsShort : State := onG base (fun g => { g with joins := ⟨[(0, [(0, BitVec.ofNat 128 13)]), (2, [(0, BitVec.ofNat 128 13)])]⟩ })
/-- Lane 0's stack is full, and another group holds the handler set. -/
def stackFull : State := setPart (onG base (fun g => { g with joins := ⟨[(0, List.replicate 8 (4, L))]⟩ })) (fun p => { p with owner := some 3 })
/-- All lanes but L have exited. -/
def lastLanes (s : State) : State := onG s (fun g => { g with exited := Mask.full.diff L })
theorem settled_of {s : State} (h : (s.g.unpub.cells.isEmpty && s.g.pend == {} && s.g.faults.isEmpty && decide (s.g.a.pushed ≤ s.g.a.popped) &&
    s.eng.ops.isEmpty && s.mem.commits.isEmpty) = true) : Settled s ∧ CommitClear s := by
  simp only [Bool.and_eq_true, List.isEmpty_iff, beq_iff_eq, decide_eq_true_eq] at h
  obtain ⟨⟨⟨⟨⟨a, b⟩, c⟩, d⟩, e⟩, k⟩ := h
  exact ⟨⟨a, b, c, d, by simp [e], by simp [k]⟩, ⟨c, d, by simp [e], by simp [k]⟩⟩
end Sys2Proof.Tests

theorem test_runs_lane_branch : branches.g.traced = false ∧ LaneRuns (.bra { off := 4 }) 7 {} branches ∧
    LaneRuns (.call { off := 4 } { a := 10 }) 7 { vw := [10, 11] } branches ∧ LaneRuns (.jmpr {} { a := 26 }) 7 { vr := [26, 27] } branches ∧
    LaneRuns (.ret {} { a := 26 }) 7 { vr := [26, 27] } branches ∧ (∀ l < 128, (branches.active 7).has l → pair branches 26 l % 4 = 0) ∧
    agree {} (branches.active 7) (pair branches 26) ∧ LaneRuns (.calli {} { a := 26 }) 7 { vr := [26, 27], vw := [26, 27] } branches :=
  ⟨by decide, lane_of (by decide), lane_of (by decide), lane_of (by decide), lane_of (by decide), all_of (by decide), by intro h; simp at h, lane_of (by decide)⟩
/-- CALLI's frame word asks for one block, which the group has; BRX's indices and table words are in order; `.u` agrees. -/
theorem test_runs_calli_brx : (∀ l < 128, (branches.active 7).has l → (1 ≤ 2 ∧ 1 ≤ branches.g.budget ∧
      fetches branches ((pair branches 26 l + 2 ^ 64 - 4) % 2 ^ 64) (0xFFF00000 + 1))) ∧
    (∀ l < 128, (branches.active 7).has l → ((branches.g.vreg 28).get l).toNat ≤ 1 ∧
      fetches branches ((target branches 32 + 4 * ((branches.g.vreg 28).get l).toNat) % 2 ^ 64) (tableWord l) ∧ tableWord l % 4 = 0) ∧
    agree { u := true } (branches.active 7) (pair branches 26) ∧ LaneRuns (.brx { off := 32 } { a := 28, n := 1 }) 7 { vr := [28] } branches := by
  refine ⟨fun l hl hm => ?_, fun l hl hm => ?_, fun _ => ?_, lane_of (by decide)⟩
  · rcases L_lanes hl hm with rfl | rfl | rfl <;> exact ⟨by decide, by decide, fetches_of (pa := wordPa + 0x3C) (by decide)⟩
  · rcases L_lanes hl hm with rfl | rfl | rfl
    · exact ⟨by decide, fetches_of (pa := wordPa + 0x80) (by decide), by decide⟩
    · exact ⟨by decide, fetches_of (pa := wordPa + 0x84) (by decide), by decide⟩
    · exact ⟨by decide, fetches_of (pa := wordPa + 0x80) (by decide), by decide⟩
  · intro l hl k hk hl' hk'
    rcases L_lanes hl hl' with rfl | rfl | rfl <;> rcases L_lanes hk hk' with rfl | rfl | rfl <;> decide
theorem test_branch_places : after (.brx { off := 32 } { a := 28, n := 1 }) branches (fun t => ((t.g.subs.filter (·.lanes.has 2)).map (·.pc)).sum) = some 0x78 ∧
    after (.brx { off := 32 } { a := 28, n := 1 }) branches (fun t => ((t.g.subs.filter (·.lanes.has 127)).map (·.pc)).sum) = some 0x90 ∧
    after (.call { off := 0x3FFFF } { a := 10 }) branches (lane 10 127) = some 8 ∧
    after (.call { off := 0x3FFFF } { a := 10 }) branches (fun t => (t.g.subs.map (·.pc)).sum) = some (2 ^ 64 - 4) := by decide +kernel

theorem test_jset : LaneRuns (.jset { off := 4 }) 7 {} base ∧ (∀ l < 128, (base.active 7).has l → (stackOf base.g l).length < 8) ∧
    LaneRuns (.jset { off := 4 }) 7 {} stackFull ∧ stackFull.g.trap = none ∧ stackFull.g.spec.trapbase ≠ 0 ∧ stackFull.cur.handler = false ∧
    (stackFull.part stackFull.g.partKey).owner = some (stackFull.cur.gid + 1) ∧
    (∃ l < 128, (stackFull.active 7).has l ∧ 8 ≤ (stackOf stackFull.g l).length) :=
  ⟨lane_of (by decide), all_of (by decide), lane_of (by decide), by decide, by decide, by decide, by decide, 0, by decide, by decide, by decide⟩
/-- JOIN that no lane owes (p1: no entry here), that ends an entry, and that waits for lane 3. -/
theorem test_join : LaneRuns (.join {}) 7 {} base ∧ base.g.joining = [] ∧
    (∀ l < 128, ((base.active 7).has l && ((stackOf base.g l).head?.map (·.1) == some base.cur.pc)) = false) ∧
    LaneRuns (.join {}) 7 {} joins ∧ joins.g.joining = [] ∧ joins.g.trap = none ∧
    (∀ l < 128, ((joins.active 7).has l && ((stackOf joins.g l).head?.map (·.1) == some joins.cur.pc)) →
      (stackOf joins.g l).head? = some (0, BitVec.ofNat 128 5) ∧ Mask.has (BitVec.ofNat 128 5) l) ∧
    Mask.of (fun l => (joins.active 7).has l && ((stackOf joins.g l).head?.map (·.1) == some joins.cur.pc)) = BitVec.ofNat 128 5 ∧
    (∀ l < 128, Mask.has (BitVec.ofNat 128 5) l → ((joins.active 7).has l && ((stackOf joins.g l).head?.map (·.1) == some joins.cur.pc))) ∧
    LaneRuns (.join {}) 7 {} joinsShort ∧ (∃ l < 128, Mask.has (BitVec.ofNat 128 13) l ∧ (joinsShort.active 7).has l = false ∧ joinsShort.g.exited.has l = false) :=
  ⟨lane_of (by decide), by decide, below_of (by decide), lane_of (by decide), by decide, by decide, below_of (by decide), by decide, below_of (by decide), lane_of (by decide),
   3, by decide, by decide, by decide, by decide⟩
theorem test_join_places : after (.join {}) joins (fun t => ((t.g.subs.filter (·.lanes.has 0)).map (·.pc)).sum) = some 4 ∧
    after (.join {}) joinsShort (fun t => t.g.joining.length) = some 1 ∧ after (.jset { off := 4 }) base (fun t => ((stackOf t.g 2).map (·.1)).sum) = some 16 := by
  decide

/-- EXIT of three of the group's lanes, and of its last. -/
theorem test_exit : LaneRuns (.exit {}) 7 {} base ∧ base.cur.handler = false ∧ base.g.joining = [] ∧ base.g.faults = [] ∧ base.g.status = .running ∧
    base.g.live.diff (base.active 7) ≠ 0 ∧ (base.g.subs.all (fun x => x.wait == .none)) = true ∧
    LaneRuns (.exit {}) 7 {} (lastLanes base) ∧ (lastLanes base).g.live.diff ((lastLanes base).active 7) = 0 ∧ Settled (lastLanes base) ∧
    (lastLanes base).g.status = .running :=
  ⟨lane_of (by decide), by decide, by decide, by decide, by decide, by decide, by decide, lane_of (by decide), by decide,
   (settled_of (by decide)).1, by decide⟩
theorem test_exit_ends : after (.exit {}) (lastLanes base) (fun t => (t.g.status == .draining).toNat) = some 1 ∧
    after (.exit { guard := 1 }) base (fun t => t.g.exited.toNat) = some (2 ^ 127 + 1) := by decide +kernel

namespace Sys2Proof.Tests
def trapWord : GA := { d := 2, i := true, x := 12 }
def noTable (s : State) : State := onG s (fun g => { g with spec := { g.spec with trapbase := 0 } })
/-- Lanes 0 to 3 run the handler of a DEBUG trap, and t15 gives them 0, 4, 8, 0. -/
def trapped : Trap := { cls := 12, sub := 1, lanes := BitVec.ofNat 128 15, pc := 0x500000040, npc := 0x500000044, entered := true }
def handling : State :=
  let s := setPart (onG base (fun g => { g with trap := some trapped, subs := [{ lanes := BitVec.ofNat 128 15, pc := 0x4300, handler := true },
    { lanes := BitVec.ofNat 128 (2 ^ 127), pc := 0 }] })) (fun p => { p with owner := some 2, t := ⟨[(15, Lanes.make (fun l => BitVec.ofNat 32 (4 * (l % 3))))]⟩ })
  { s with cur := { s.cur with handler := true, lanes := BitVec.ofNat 128 15, pc := 0x4300 } }
end Sys2Proof.Tests

theorem test_trap_entry : HandlerFree base ∧ LaneRuns (.bpt {}) 7 {} base ∧ GroupRuns (.trap trapWord) 7 {} base :=
  ⟨⟨by decide, by decide, by decide, by decide, by decide, by decide, by decide, by decide⟩, lane_of (by decide), group_of (by decide)⟩
theorem test_trap_values : after (.bpt { guard := 1 }) base (fun t => ((t.g.subs.filter (·.handler)).map (·.pc)).sum) = some 0x4300 ∧
    after (.trap trapWord) base (fun t => (((t.part t.g.partKey).t.get {} 0).get 127).toNat) = some (12 + 2 * 256 + 127 * 65536) ∧
    after (.trap trapWord) base (fun t => (t.g.side.get 0 51).toNat) = some 0x12 := by decide +kernel
theorem test_trap_fatal : LaneRuns (.bpt {}) 7 {} (noTable base) ∧ (noTable base).g.spec.trapbase = 0 ∧ (noTable base).cur.micro = none ∧
    ((noTable base).gridOf 2).status = .running ∧ ((noTable base).gridOf 2).stopping = false ∧ ((noTable base).gridOf 2).ending = none ∧ (noTable base).g.status = .running ∧
    LaneRuns (.bpt {}) 7 {} handling ∧ handling.cur.handler = true ∧ handling.cur.micro = none ∧ (handling.gridOf 2).status = .running ∧
    (handling.gridOf 2).stopping = false ∧ (handling.gridOf 2).ending = none ∧ handling.g.status = .running :=
  ⟨lane_of (by decide), by decide, by decide, by decide, by decide, by decide, by decide, lane_of (by decide), by decide, by decide, by decide, by decide, by decide, by decide⟩
theorem test_trap_fatal_code : after (.bpt {}) (noTable base) (fun t => (t.grid t.g.grid).code) = some 2 := by decide
theorem test_handler_return : GroupRuns (.rftRetry { i := true }) 7 {} handling ∧ GroupRuns (.rftNext { i := true, x := 1 }) 7 {} handling ∧
    GroupRuns (.rftJump { i := true, x := 2 }) 7 {} handling ∧ InHandler handling trapped ∧
    (∀ l < 128, (returnedLanes handling trapped).has l → (((handling.part handling.g.partKey).t.get {} 15).get l).toNat % 4 = 0) :=
  ⟨group_of (by decide), group_of (by decide), group_of (by decide), by unfold InHandler; decide, below_of (by decide)⟩
theorem test_handler_return_pc : after (.rftRetry { i := true }) handling (fun t => ((t.g.subs.filter (·.lanes.has 1)).map (·.pc)).sum) = some 0x500000040 ∧
    after (.rftNext { i := true, x := 1 }) handling (fun t => ((t.g.subs.filter (·.lanes.has 1)).map (·.pc)).sum) = some 0x500000044 ∧
    after (.rftJump { i := true, x := 2 }) handling (fun t => ((t.g.subs.filter (·.lanes.has 2)).map (·.pc)).sum) = some 0x500000008 := by decide

/-! ## Publishing, synchronising, budgets and slices -/

namespace Sys2Proof.Tests
theorem standing_of {s : State} {x : Sub} (h : (s.g.subs.filter (fun y => y.lanes == s.cur.lanes) == [x] && x.pc == s.cur.pc &&
    x.handler == s.cur.handler && x.wait == .none) = true) : Standing s := by
  simp only [Bool.and_eq_true, beq_iff_eq] at h
  exact ⟨x, h.1.1.1, h.1.1.2, h.1.2, h.2⟩
def here : Sub := { lanes := L, pc := 0 }
/-- Unpublished bytes at 0x104 and at the last byte of the page. -/
def dirty : State := onG sregs (fun g => { g with unpub := ⟨[(0x104, some 0x77), (0xFFFF, some 0x78)]⟩ })
def staged (s : State) (k aux : Nat) : State := { s with cur := { s.cur with stage := k, aux } }
def onTeam (s : State) (f : Team → Team) : State := s.setTeam s.g.teamKey (f (s.team s.g.teamKey))
def onLaunch (s : State) (f : Launch → Launch) : State :=
  { s with grids := s.grids.set {} s.g.grid { s.grid s.g.grid with launch := f (s.grid s.g.grid).launch } }
/-- A second group, 5, in the team, which waits elsewhere. -/
def pair2 (s : State) : State :=
  let s := s.setGroup 5 { s.g with num := 1, slot := 17, subs := [{ lanes := Mask.full, pc := 0x40 }] }
  onLaunch (onTeam s (fun t => { t with gids := [2, 5] })) (fun l => { l with groups := 2, roles := [2] })
def bx (n k : Nat) : GXC := { imm := BitVec.ofNat 16 (n + 16 * k) }
theorem arrived_all {s : State} {a : List Nat} {l : List Nat} (h : l.all (fun j => (s.group j).status == .gone ||
    (s.group j).status == .draining || a.contains j) = true) :
    ∀ j ∈ l, (s.group j).status ≠ .gone → (s.group j).status ≠ .draining → j ∈ a := fun j hj h1 h2 => by
  have := List.all_eq_true.mp h j hj
  simp only [Bool.or_eq_true, beq_iff_eq, h1, h2, false_or, List.contains_eq_mem, decide_eq_true_eq] at this
  exact this
end Sys2Proof.Tests

theorem test_runs_phase : unsteered sregs ∧ GroupRuns (.phaseAcq {} { sub := 2 }) 7 {} sregs ∧ GroupRuns (.phase {} {}) 7 {} sregs ∧
    GroupRuns (.phaseRel {} { sub := 1 }) 7 {} sregs ∧ Settled sregs ∧ unsteered dirty ∧ GroupRuns (.phase {} {}) 7 {} dirty ∧
    GroupRuns (.phaseRel {} { sub := 1 }) 7 {} dirty ∧ CommitClear dirty ∧ Standing dirty ∧ unwatched dirty ∧ dirty.g.unpub.cells ≠ [] ∧
    (∀ c ∈ dirty.g.unpub.cells, mapped dirty .store c.1 (wordPa + c.1) 0) ∧ (staged dirty 2 0).cur.stage = 2 ∧ (staged dirty 2 0).cur.lanes ≠ 0 := by
  refine ⟨by unfold unsteered; decide, group_of (by decide), group_of (by decide), group_of (by decide), (settled_of (by decide)).1,
    by unfold unsteered; decide, group_of (by decide), group_of (by decide), ⟨by decide, by decide, ?_, ?_⟩, standing_of (x := here) (by decide), by unfold unwatched; decide, by decide, ?_,
    by decide, by decide⟩
  · simp [show dirty.eng.ops = [] by decide]
  · simp [show dirty.mem.commits = [] by decide]
  · intro c hc
    exact mapped_of (List.all_eq_true.mp (show (dirty.g.unpub.cells.all (fun c => mappedOk dirty .store c.1 (wordPa + c.1) 0)) = true by decide) c hc)
theorem test_phase : after (.phase {} {}) { sregs with clock := 9 } (fun t => t.g.cut) = some 9 ∧
    after (.phaseRel {} { sub := 1 }) dirty (fun t => (t.mem.commits.map (·.bytes.length)).sum) = some 2 := by decide

/-- BAR: lanes elsewhere, alone in the team (k = 0 and k = 1), and one of two (k = 0, and k = 2). -/
theorem test_bar : GroupRuns (.bar {} (bx 3 0)) 7 {} sregs ∧ 0 ≤ sregs.launch.groups ∧ sregs.cur.handler = false ∧ Standing sregs ∧
    (sregs.g.subs.all (fun y => y.wait == .none)) = true ∧ sregs.g.live.diff sregs.cur.lanes ≠ 0 ∧
    (let s := lastLanes sregs
     GroupRuns (.bar {} (bx 15 0)) 7 {} s ∧ GroupRuns (.bar {} (bx 0 1)) 7 {} s ∧ 1 ≤ s.launch.groups ∧ Standing s ∧ s.g.live.diff s.cur.lanes = 0 ∧
     s.cur.gid ∉ ((s.team s.g.teamKey).bars.get {} 15).arrived ∧ ((s.team s.g.teamKey).bars.get {} 15).k = none ∧
     (∀ j ∈ (s.team s.g.teamKey).gids, (s.group j).status ≠ .gone → (s.group j).status ≠ .draining → j ∈ [2])) ∧
    (let s := pair2 (lastLanes sregs)
     GroupRuns (.bar {} (bx 3 2)) 7 {} s ∧ 2 ≤ s.launch.groups ∧ Standing s ∧ ¬ 2 ≤ [2].length ∧
     (∃ j ∈ (s.team s.g.teamKey).gids, (s.group j).status ≠ .gone ∧ (s.group j).status ≠ .draining ∧ j ∉ [2])) :=
  ⟨group_of (by decide), by decide, by decide, standing_of (x := here) (by decide), by decide, by decide,
   ⟨group_of (by decide), group_of (by decide), by decide, standing_of (x := here) (by decide), by decide, by decide, by decide, arrived_all (by decide)⟩,
   group_of (by decide), by decide, standing_of (x := here) (by decide), by decide, by decide⟩
theorem test_bar_generation : after (.bar {} (bx 15 0)) (lastLanes sregs) (fun t => ((t.team t.g.teamKey).bars.get {} 15).gen) = some 1 ∧
    after (.bar {} (bx 3 2)) (pair2 (lastLanes sregs)) (fun t => (((t.team t.g.teamKey).bars.get {} 3).arrived).sum) = some 2 := by decide

namespace Sys2Proof.Tests
/-- An ARRIVE whose home has homeAnswer true, with its predicate pending. -/
def homeAnswer : HomeOp := { id := 7, gid := 2, kind := 4, width := 4, n := 3, done := true, result := true, long := some 8 }
def arrived : State :=
  onG { staged sregs 4 7 with nextId := 20, mem := { sregs.mem with homeOps := [homeAnswer] } } (fun g => { g with longs := [{ id := 8, qs := [(1, false)], ready := false }] })
/-- The group is in team 2; teams 0 and 1 have retired. -/
def teams : State :=
  let s := onG (sregs.setTeam (teamKey sregs.g.grid 2) { sregs.team sregs.g.teamKey with idx := 2 }) (fun g => { g with team := 2 })
  let t (k : Nat) : Team := { grid := sregs.g.grid, idx := k, retired := true, live := true }
  (s.setTeam (teamKey sregs.g.grid 0) (t 0)).setTeam (teamKey sregs.g.grid 1) (t 1)
end Sys2Proof.Tests

theorem test_arrive : unsteered sregs ∧ GroupRuns (.arrive (ga 0 2 8) { pred := 1 }) 7 { sr := [2, 3, 8], qw := [1] } sregs ∧
    GroupRuns (.arrive (ga 0 2 8) { pred := 7 }) 7 { sr := [2, 3, 8] } sregs ∧ SR64 sregs 2 % 4 = 0 ∧ SB sregs (ga 0 2 8) ≠ 0 ∧
    mapped sregs .atomic (SR64 sregs 2) (wordPa + 0x100) 0 ∧ goodLine sregs (wordPa + 0x100) 0 4 ∧ unwatched sregs ∧ noAtomics sregs ∧ Settled sregs ∧ Standing sregs ∧
    unsteered arrived ∧ arrived.cur.stage = 4 ∧ arrived.cur.lanes ≠ 0 ∧ arrived.cur.aux = homeAnswer.id ∧
    arrived.mem.homeOps.filter (fun y => y.id == homeAnswer.id) = [homeAnswer] ∧ homeAnswer.who = [] ∧
    (∃ lg ∈ arrived.g.longs, lg.qs.map (·.1) = [1]) :=
  ⟨by unfold unsteered; decide, group_of (by decide), group_of (by decide), by decide, by decide, mapped_of (by decide),
   goodLine_of _ _ _ (by decide), by unfold unwatched; decide, by unfold noAtomics; decide, (settled_of (by decide)).1, standing_of (x := here) (by decide), by unfold unsteered; decide, by decide, by decide, by decide, by decide, by decide, by decide⟩
theorem test_arrive_answer : after (.arrive (ga 0 2 8) { pred := 1 }) arrived (fun t => ((t.g.longs.flatMap (·.qs)).map (·.2.toNat)).sum) = some 1 := by
  decide
/-- WAITLOW -1 and 1 end in team 2; 0 waits where no team has retired. -/
theorem test_waitlow : GroupRuns (.waitlow (ga 0 0 0x7F true) {}) 7 {} teams ∧ (SB teams (ga 0 0 0x7F true)).toInt = -1 ∧
    GroupRuns (.waitlow (ga 0 0 1 true) {}) 7 {} teams ∧ (SB teams (ga 0 0 1 true)).toInt = 1 ∧ teams.g.team = 2 ∧ unsteered teams ∧
    (((teams.teams.cells.filter (fun c => c.2.grid == teams.g.grid && c.2.retired)).map (·.2.idx)) = [0, 1]) ∧
    (let s := onG sregs (fun g => { g with team := 1 })
     GroupRuns (.waitlow (ga 0 0 0 true) {}) 7 {} s ∧ s.g.team = 1 ∧ (s.teams.cells.all (fun c => !c.2.retired)) = true) :=
  ⟨group_of (by decide), by decide, group_of (by decide), by decide, by decide, by unfold unsteered; decide, by decide, group_of (by decide), by decide, by decide⟩
theorem test_trigger : GroupRuns (.trigger {}) 7 {} sregs ∧ (sregs.team sregs.g.teamKey).trigTime = none ∧
    (∀ j ∈ (sregs.team sregs.g.teamKey).gids, j ≠ 2 → (sregs.group j).triggered = true) ∧
    GroupRuns (.trigger {}) 7 {} (onTeam sregs (fun t => { t with trigTime := some 3 })) :=
  ⟨group_of (by decide), by decide, by decide, group_of (by decide)⟩
/-- WAITV: the word at 0x100 is 5, which is not 3. -/
theorem test_waitv : GroupRuns (.waitv (ga 0 2 8) { sub := 1, ty := 1 }) 7 { sr := [2, 3, 8] } sregs ∧ GroupRuns (.waitv (ga 0 2 8) { ty := 1 }) 7 { sr := [2, 3, 8] } sregs ∧
    SR64 sregs 2 % 4 = 0 ∧ mapped sregs .load (SR64 sregs 2) (wordPa + 0x100) 0 ∧ little (fun j => sregs.newest (sregs.at 0 (wordPa + 0x100) + j)) 4 = 5 ∧ SB sregs (ga 0 2 8) = 3 ∧
    goodLine sregs (wordPa + 0x100) 0 4 ∧ unwatched sregs ∧ noAtomics sregs :=
  ⟨group_of (by decide), group_of (by decide), by decide, mapped_of (by decide), by decide, by decide, goodLine_of _ _ _ (by decide), by unfold unwatched; decide,
   by unfold noAtomics; decide⟩
theorem test_wait_ends : after (.waitlow (ga 0 0 1 true) {}) { teams with clock := 9 } (fun t => t.g.cut) = some 9 ∧
    after (.trigger {}) { sregs with clock := 9 } (fun t => (t.team t.g.teamKey).trigTime.getD 0) = some 9 ∧
    after (.waitv (ga 0 2 8) { sub := 1, ty := 1 }) sregs (fun t => t.g.wake.isSome.toNat) = some 0 ∧
    after (.waitv (ga 0 2 8) { ty := 1 }) sregs (fun t => t.g.wake.isSome.toNat) = some 1 := by decide

namespace Sys2Proof.Tests
def budget (s : State) (k : Nat) : State := onG s (fun g => { g with budget := k, holds := ⟨[(3, 4), (40, 2)]⟩ })
/-- Another group of the partition holds seven of its blocks. -/
def crowded (s : State) : State := s.setGroup 5 { s.g with num := 1, grid := 9, budget := 7, subs := [] }
def xw (k : Nat) : GA := { i := true, x := BitVec.ofNat 7 k }
end Sys2Proof.Tests

theorem test_budget : GroupRuns (.xacq (xw 1)) 7 {} (budget sregs 1) ∧ GroupRuns (.xacq (xw 2)) 7 {} (budget sregs 1) ∧ (budget sregs 1).g.budget = 1 ∧
    ((budget sregs 1).part (budget sregs 1).g.partKey).xacq = [] ∧ blocksHeld (budget sregs 1) (budget sregs 1).g.partKey + (2 - 1) ≤ 8 ∧
    GroupRuns (.xacq (xw 2)) 7 {} (crowded (budget sregs 1)) ∧ 8 < blocksHeld (crowded (budget sregs 1)) (budget sregs 1).g.partKey + (2 - 1) ∧
    GroupRuns (.xrel (xw 1)) 7 {} (budget sregs 1) ∧ GroupRuns (.xrel (xw 0)) 7 {} (budget sregs 2) ∧ (∀ r ∈ (budget sregs 2).g.pendV, r < limit 0) ∧
    GroupRuns (.hold (ga 31 0 0) (sx 255)) 7 {} (budget sregs 0) ∧ 31 < limit (budget sregs 0).g.budget :=
  ⟨group_of (by decide), group_of (by decide), by decide, by decide, by decide, group_of (by decide), by decide, group_of (by decide), group_of (by decide),
   by decide, group_of (by decide), by decide⟩
theorem test_budget_values : after (.xacq (xw 2)) (budget sregs 1) (fun t => t.g.budget) = some 2 ∧
    after (.xacq (xw 2)) (crowded (budget sregs 1)) (fun t => (t.part t.g.partKey).xacq.length) = some 1 ∧
    after (.xrel (xw 0)) (budget sregs 2) (fun t => t.g.holds.get 0 40 + t.g.holds.get 0 3) = some 4 ∧
    after (.hold (ga 31 0 0) (sx 255)) (budget sregs 0) (fun t => t.g.holds.get 0 31) = some 255 := by decide
/-- NAME in a free grid, in one that is not, and of a group that has a name. -/
theorem test_name : GroupRuns (.name (ga 10 0 0)) 7 { sw := [10] } sregs ∧ sregs.g.nameIdx = 0 ∧ sregs.names.used < 262143 ∧
    (∀ i, sregs.names.gens.get 0 i < 255) ∧ sregs.g.team < 16383 ∧ (sregs.grid sregs.g.grid).launch.mode = 0 ∧
    ((steered sregs 1).grid sregs.g.grid).launch.mode ≠ 0 ∧ GroupRuns (.name (ga 10 0 0)) 7 { sw := [10] } (steered sregs 1) ∧ sregs.g.num < 16 ∧
    GroupRuns (.name (ga 10 0 0)) 7 { sw := [10] } (onG sregs (fun g => { g with nameIdx := 2 })) :=
  ⟨group_of (by decide), by decide, by decide, FMap.get_all (P := fun v => v < 255) (by decide) (by decide), by decide, by decide, by decide, group_of (by decide), by decide,
   group_of (by decide)⟩
theorem test_name_value : after (.name (ga 10 0 0)) (steered sregs 1) (fun t => t.g.spec.name) = some 256 ∧
    after (.name (ga 10 0 0)) sregs (fun t => t.g.spec.name) = some 257 := by decide
theorem test_rstv : unsteered sregs ∧ GroupRuns (.rstv (ga 10 20 0) (sx 63)) 7 { vr := [20], sr := [10] } sregs ∧ (sregs.g.sreg 10).toNat / 2 ^ 26 = sregs.pkgid :=
  ⟨by unfold unsteered; decide, group_of (by decide), by decide⟩
theorem test_rstv_posts : after (.rstv (ga 10 20 0) (sx 63)) sregs (fun t => (t.eng.deliveries.map (·.reg)).sum) = some 63 := by decide

namespace Sys2Proof.Tests
def entry (k : Nat) (f : Nat → Nat) : QEntry := { data := Lanes.make (fun l => BitVec.ofNat 32 (f l)), mask := Mask.full, cut := k, filled := true }
/-- Queues of depths 4, 2, 0, 0, 3, 2, with an entry in oq 0, two in wq and one in bq. -/
def queues : State :=
  onG (onLaunch sregs (fun l => { l with qdepth := [4, 2, 0, 0, 3, 2], qslipi := 2 })) (fun g => { g with
    queues := ⟨[(0, [entry 6 (fun l => l + 1)]), (4, [entry 7 (fun l => 257 * l), entry 8 (fun _ => 9)]), (5, [entry 5 (fun l => 4 * (l % 50))])]⟩,
    a := { g.a with slip := 6, pushed := 2, popped := 1 } })
def qx (q : Nat) (pred : Nat := 0) : GXC := { queue := BitVec.ofNat 4 q, pred := BitVec.ofNat 3 pred }
def ix : LXM := { mw 1 2 with rp := 1 }
theorem full_has {l : Nat} (h : l < 128) : Mask.has Mask.full l = true := below_of (P := fun l => Mask.has Mask.full l = true) (by decide) l h
theorem windows_of {s : State} {space : Nat} {x : LXM} {ea : Nat → Int} (h : inWindowOk s space x ea Mask.full = true) :
    ∀ l < 128, inWindow s space x (ea l) := fun l hl => inWindow_of h l hl (full_has hl)
theorem mapped_full {s : State} {a : Acc} {va pa cm : Nat → Nat} {n : Nat}
    (h : (List.range 128).all (fun l => !Mask.has Mask.full l || (va l % n == 0 && mappedOk s a (va l) (pa l) (cm l))) = true) :
    ∀ l < 128, va l % n = 0 ∧ mapped s a (va l) (pa l) (cm l) :=
  fun l hl => mapped_lanes h l hl (full_has hl)
theorem readable_full {s : State} {space : Nat} {x : LXM} {ea : Nat → Int} (h : inWindowOk s space x ea Mask.full = true)
    (g : s.mem.badWords = []) : ∀ l < 128, inWindow s space x (ea l) ∧ goodWords s space x (ea l) :=
  fun l hl => readable_of h g l hl (full_has hl)
end Sys2Proof.Tests

theorem test_queues : GroupRuns (.qpush (ga 0 20 0) (qx 4)) 7 { vr := [20] } queues ∧ (queueOf queues.g 4).length < depth queues 4 ∧
    GroupRuns (.qpush (ga 0 20 0) (qx 5)) 7 { vr := [20] } queues ∧ (queueOf queues.g 5).length < depth queues 5 ∧
    GroupRuns (.qpop (ga 9 0 0) (qx 0 1)) 7 { vw := [9], pw := [1] } queues ∧ GroupRuns (.qpop (ga 9 0 0) (qx 0 7)) 7 { vw := [9] } queues ∧
    2 ≤ depth queues 0 ∧ queueOf queues.g 0 = entry 6 (fun l => l + 1) :: [] ∧ (entry 6 (fun l => l + 1)).filled = true ∧ (entry 6 (fun l => l + 1)).bad = 0 ∧ (entry 5 (fun l => 4 * (l % 50))).bad = 0 ∧
    SliceRuns (.qpop (ga 9 0 0) (qx 5)) 7 { sw := [9] } (slice queues) ∧ 2 ≤ depth (slice queues) 5 ∧ queueOf (slice queues).g 5 = entry 5 (fun l => 4 * (l % 50)) :: [] ∧
    GroupRuns (.qslip (ga 0 0 6 true)) 7 {} queues ∧ SliceRuns (.qslip (ga 0 0 1 true)) 7 {} (slice queues) ∧ queues.g.sliced = true ∧
    6 ≤ depth queues 0 + depth queues 1 + depth queues 2 + depth queues 3 :=
  ⟨group_of (by decide), by decide, group_of (by decide), by decide, group_of (by decide), group_of (by decide), by decide, by decide, by decide, by decide, by decide, slice_of (by decide),
   by decide, by decide, group_of (by decide), slice_of (by decide), by decide, by decide⟩
theorem test_queue_values : after (.qpop (ga 9 0 0) (qx 5)) (slice queues) (fun t => sreg 9 t + 1000 * t.g.a.cut) = some 5000 ∧
    after (.qpop (ga 9 0 0) (qx 0 7)) queues longWords = some 1 ∧ after (.qpush (ga 0 20 0) (qx 4)) queues (fun t => (queueOf t.g 4).length) = some 3 ∧
    after (.qslip (ga 0 0 6 true)) queues (fun t => t.g.a.slip) = some 6 := by decide
theorem test_slice_load : SliceRuns (.aqld (ga 0 4 0) (mw 1 2)) 7 { sr := [4] } (slice queues) ∧ IndexIs (slice queues) (mw 1 2) none ∧
    SliceRuns (.aqld (ga 0 4 0) ix) 7 { sr := [4] } (slice queues) ∧ IndexIs (slice queues) ix (some (entry 5 (fun l => 4 * (l % 50)))) ∧
    unwatched (slice queues) ∧ 2 ≤ depth (slice queues) 0 ∧ inOqs (slice queues).g < (slice queues).g.a.slip ∧ (queueOf (slice queues).g 0).length < depth (slice queues) 0 ∧
    (∀ l < 128, inWindow (slice queues) 1 (mw 1 2) (aqWin (slice queues) (ga 0 4 0) (mw 1 2) none l) ∧ goodWords (slice queues) 1 (mw 1 2) (aqWin (slice queues) (ga 0 4 0) (mw 1 2) none l)) ∧
    (∀ l < 128, inWindow (slice queues) 1 ix (aqWin (slice queues) (ga 0 4 0) ix (some (entry 5 (fun l => 4 * (l % 50)))) l) ∧
      goodWords (slice queues) 1 ix (aqWin (slice queues) (ga 0 4 0) ix (some (entry 5 (fun l => 4 * (l % 50)))) l)) ∧
    SliceRuns (.aqld (ga 0 2 0) (mw 0 2)) 7 { sr := [2, 3] } (slice queues) :=
  ⟨slice_of (by decide), .inl ⟨by decide, rfl⟩, slice_of (by decide), .inr ⟨by decide, by decide, _, [], by decide, rfl, by decide⟩, by unfold unwatched; decide, by decide, by decide,
   by decide, readable_full (by decide) rfl, readable_full (by decide) rfl, slice_of (by decide)⟩
theorem test_slice_load_global : ∀ l < 128, (aqVA (slice queues) (ga 0 2 0) (mw 0 2) none l % 4 = 0 ∧
    mapped (slice queues) .load (aqVA (slice queues) (ga 0 2 0) (mw 0 2) none l) (wordPa + aqVA (slice queues) (ga 0 2 0) (mw 0 2) none l) 0) ∧
    goodLine (slice queues) (wordPa + aqVA (slice queues) (ga 0 2 0) (mw 0 2) none l) 0 4 := fun l hl =>
  ⟨mapped_full (va := aqVA (slice queues) (ga 0 2 0) (mw 0 2) none) (pa := fun l => wordPa + aqVA (slice queues) (ga 0 2 0) (mw 0 2) none l) (cm := fun _ => 0) (by decide) l hl,
   goodLine_of _ _ _ (by decide)⟩
theorem test_slice_store : SliceRuns (.aqst (ga 0 4 0) (mw 1 2)) 7 { sr := [4] } (slice queues) ∧ 2 ≤ depth (slice queues) 4 ∧
    queueOf (slice queues).g 4 = entry 7 (fun l => 257 * l) :: [entry 8 (fun _ => 9)] ∧ (entry 7 (fun l => 257 * l)).bad = 0 ∧ unwatched (slice queues) ∧
    (∀ l < 128, inWindow (slice queues) 1 (mw 1 2) (aqWin (slice queues) (ga 0 4 0) (mw 1 2) none l)) ∧
    SliceRuns (.aqst (ga 0 2 0) (mw 0 2)) 7 { sr := [2, 3] } (slice queues) ∧ (∀ c ∈ (slice queues).mem.commits, c.gid ≠ 2) :=
  ⟨slice_of (by decide), by decide, by decide, by decide, by unfold unwatched; decide, windows_of (by decide), slice_of (by decide), by decide⟩
theorem test_slice_store_global : ∀ l < 128, aqVA (slice queues) (ga 0 2 0) (mw 0 2) none l % 4 = 0 ∧
    mapped (slice queues) .store (aqVA (slice queues) (ga 0 2 0) (mw 0 2) none l) (wordPa + aqVA (slice queues) (ga 0 2 0) (mw 0 2) none l) 0 :=
  mapped_full (va := aqVA (slice queues) (ga 0 2 0) (mw 0 2) none) (pa := fun l => wordPa + aqVA (slice queues) (ga 0 2 0) (mw 0 2) none l) (cm := fun _ => 0) (by decide)

/-! ## Microprograms, launches and engine commands -/

namespace Sys2Proof.Tests
/-- Bytes of a value at a VA of the page. -/
def pokeAt (s : State) (va n v : Nat) : State :=
  { s with mem := { s.mem with base := s.mem.base.setMany 0 (wordPa + va) (bytesOfNat n v) } }
/-- An image of one IADD at 0x80, and one like it in slot 1. -/
def micros : State :=
  let s := pokeAt (pokeAt (pokeAt sregs 0x80 4 2) 0x84 4 0x0E10A28C) 0x88 4 0x00100000
  { s with cores := s.cores.set {} s.g.coreKey { s.core s.g.coreKey with store := ⟨[(1, some { asid := 0, addr := 0x80, words := [0x0E10A28C, 0x00100000] })]⟩ } }
/-- A launch record that passes its checks: code at 0x4000, one team of one group. -/
def record : Nat := 0x4C5239500000000000000000000000000000000000000000000000000000000000000001000000000000000000000000000000000000000000000000000000000000000000000000000000000000004D000000010000010000000000000000000001000000000000000000000000000000004000
def launching (v : Nat) : State := withS (pokeAt sregs 0x200 128 v) [(2, 0x200)]
/-- s16 to s23 hold an operand block. -/
def block (s : State) (l : List Nat) : State := withS s ((List.range 8).map (fun k => (16 + k, l.getD k 0)))
def gb (d : Nat := 0) : GA := { d := BitVec.ofNat 6 d, a := 16 }
def noObj : Nat := 2 ^ 32 - 1
def blockOk (i : Instr) (g : BitVec 3) (a : BitVec 6) (f : Foot) (used : List Nat) (s : State) : Bool :=
  groupOk i g { f with sr := regs a 8 ++ f.sr } s &&
    (List.range 8).all (fun k => used.contains k || (s.g.sreg (a.toNat + k)).toNat == 0)
theorem block_of {i : Instr} {w : GA} {f : Foot} {used : List Nat} {s : State} (h : blockOk i w.guard w.a f used s = true) :
    BlockRuns i w f used s := by
  simp only [blockOk, Bool.and_eq_true, List.all_eq_true, Bool.or_eq_true, List.contains_eq_mem, decide_eq_true_eq, beq_iff_eq] at h
  refine ⟨group_of h.1, fun k hk hn => ?_⟩
  rcases h.2 k (List.mem_range.mpr hk) with h' | h'
  · exact absurd h' hn
  · exact h'
end Sys2Proof.Tests

theorem test_microprograms : GroupRuns (.mcload (ga 2 0 0) 0x20) 7 {} micros ∧ fetches micros (target micros (BitVec.toInt (0x20 : Word))) 2 ∧
    (∀ k < 2, fetches micros ((target micros (BitVec.toInt (0x20 : Word)) + 4 + 4 * k) % 2 ^ 64) (if k = 0 then 0x0E10A28C else 0x00100000)) ∧
    imageOk 2 [0x0E10A28C, 0x00100000] = true ∧
    (∀ k, (micros.group k).status = .gone ∨ (micros.group k).coreKey ≠ micros.g.coreKey ∨
      ((∀ y ∈ (micros.group k).subs, y.micro = none) ∧ (micros.group k).trap = none)) ∧
    GroupRuns (.mcall {} { slot := 1, para := 10 }) 7 {} micros ∧ Standing micros ∧
    (micros.core micros.g.coreKey).store.get none 1 = some { asid := 0, addr := 0x80, words := [0x0E10A28C, 0x00100000] } ∧ micros.asid = 0 ∧
    callOk { slot := 1, para := 10 } (micros.microOps 1) = true ∧
    (∀ k, (micros.group k).coreKey ≠ micros.g.coreKey ∨ ∀ y ∈ (micros.group k).subs, y.wait ≠ .slotIdle 1) := by
  refine ⟨group_of (by decide), fetches_of (pa := wordPa + 0x80) (by decide), fun k hk => ?_, by decide, fun k => ?_, group_of (by decide),
    standing_of (x := here) (by decide), by decide, by decide, by decide, fun k => ?_⟩
  · match k, hk with
    | 0, _ => exact fetches_of (pa := wordPa + 0x84) (by decide)
    | 1, _ => exact fetches_of (pa := wordPa + 0x88) (by decide)
  · exact FMap.get_all (m := micros.groups) (P := fun g => g.status = .gone ∨ g.coreKey ≠ micros.g.coreKey ∨ ((∀ y ∈ g.subs, y.micro = none) ∧ g.trap = none))
      (by decide) (by decide) k
  · exact FMap.get_all (m := micros.groups) (P := fun g => g.coreKey ≠ micros.g.coreKey ∨ ∀ y ∈ g.subs, y.wait ≠ .slotIdle 1) (by decide) (by decide) k
theorem test_microprogram_values : after (.mcall {} { slot := 1, para := 10 }) micros (fun t => (t.g.subs.filter (fun y => y.micro == some (1, 0))).length) = some 1 ∧
    after (.mcload (ga 2 0 0) 0x20) micros (fun t => (((t.core t.g.coreKey).store.get none 2).getD { asid := 9, addr := 0, words := [] }).words.length) = some 2 := by decide

/-- LAUNCH of a record that is taken, and of one that is refused (its first word is wrong). -/
theorem test_launch : (∀ v ∈ [record, 0], unsteered (launching v) ∧ GroupRuns (.launch (ga 30 2 0) {}) 7 { sr := [2, 3], sw := [30] } (launching v) ∧
    GroupRuns (.launchNb (ga 30 2 0) { sub := 1, pred := 2 }) 7 { sr := [2, 3], sw := [30], qw := [2] } (launching v) ∧ (∀ y ∈ (launching v).g.subs, y.done = 0) ∧
    SR64 (launching v) 2 % 128 = 0 ∧ mapped (launching v) .load (SR64 (launching v) 2) (wordPa + 0x200) 0 ∧ goodLine (launching v) (wordPa + 0x200) 0 128 ∧
    unwatched (launching v) ∧ noAtomics (launching v) ∧
    ((launching v).grids.cells.filter (fun c => c.2.inStore)).length + ((List.range 256).filter (launching v).mboxFull).length +
      (launching v).launchWaiters.length < 4096 ∧ FMap.wf {} (launching v).grids = true) := by
  intro v hv
  simp only [List.mem_cons, List.mem_nil_iff, or_false] at hv
  rcases hv with rfl | rfl <;>
    exact ⟨by unfold unsteered; decide, group_of (by decide), group_of (by decide), by decide, by decide, mapped_of (by decide), goodLine_of _ _ _ (by decide),
      by unfold unwatched; decide, by unfold noAtomics; decide, by decide, by decide⟩
theorem test_launch_codes : (launching record).launchCode (launchRecord (launching record) 0x200 (wordPa + 0x200) 0) = 0 ∧
    (launching 0).launchCode (launchRecord (launching 0) 0x200 (wordPa + 0x200) 0) ≠ 0 := by decide +kernel

namespace Sys2Proof.Tests
def cmd (form : Nat) (eq : Nat := 0) : GXE := { form := BitVec.ofNat 4 form, eq := BitVec.ofNat 3 eq }
def user (s : State) : State := setPart (onLaunch s (fun l => { l with asid := 5 })) (fun p => { p with owner := some 3 })
def data1 : State := block sregs [0x100, 0, 0x1000, 0, noObj]
def data2 : State := block sregs [0x100, 0, 0x1000, 0, 4088, 20]
def digest1 : State := block sregs [0x100, 0, 0x1000, 0, noObj, 0x40, 0]
end Sys2Proof.Tests

theorem test_engine_issue : barrierAt data1 (gb) 4 none ∧ barrierAt data2 (gb) 4 (some 4088) ∧ BlockRuns (.copy gb (cmd 0 1)) gb {} [0, 1, 2, 3, 4] data1 ∧
    BlockRuns (.gather gb (cmd 0)) gb {} [0, 1, 2, 3, 4, 5] data2 ∧ blk data2 gb 5 < 64 ∧ data2.Clear { vr := [blk data2 gb 5] } data2.cur.lanes ∧
    BlockRuns (.pgreq gb (cmd 0)) gb {} [0, 1, 2, 3, 4] data1 ∧ goodLength data1 gb ∧ BlockRuns (.pgtier gb (cmd 0)) gb {} [0, 1, 2, 3, 4] data1 ∧
    data1.supervisor = true ∧ barrierAt digest1 gb 4 none ∧ BlockRuns (.digest gb (cmd 0)) gb {} [0, 1, 2, 3, 4, 5, 6] digest1 ∧ goodLength digest1 gb ∧
    blk64 digest1 gb 5 % 32 = 0 ∧ digest1.g.spec.digestctl = 0 ∧
    (let s := onG digest1 (fun g => { g with spec := { g.spec with digestctl := 1 } })
     BlockRuns (.digest gb (cmd 0)) gb {} [0, 1, 2, 3, 4, 5, 6] s ∧ s.g.spec.digestctl = 1 ∧ blk64 s gb 2 % 4096 = 0) :=
  ⟨.inl (by decide), .inr (by decide), block_of (by decide), block_of (by decide), by decide, clear_of (by decide), block_of (by decide), by unfold goodLength; decide,
   block_of (by decide), by decide, .inl (by decide), block_of (by decide), by unfold goodLength; decide, by decide, by decide, block_of (by decide), by decide, by decide⟩
theorem test_engine_issue_other : (let s := block sregs [0x100, 0]
     BlockRuns (.reshard gb (cmd 0)) gb {} [0, 1] s ∧ (s.grid s.g.grid).snapped = false) ∧
    (let s := block sregs [7, 0, 0x1000, 0, 0x2000, 0]
     BlockRuns (.shoot gb (cmd 0)) gb {} [0, 2, 3, 4, 5] s ∧ s.supervisor = true ∧ blk s gb 0 < 2 ^ 16 ∧ (s.eng.ops.filter (fun o => o.kind == .shoot)).length < 16) ∧
    (let s := block sregs [65535]
     BlockRuns (.shootAll gb (cmd 1)) gb {} [0] s ∧ s.supervisor = true ∧ blk s gb 0 < 2 ^ 16) ∧
    (let s := user data1
     s.cur.stage = 0 ∧ s.cur.aslice = false ∧ s.g.guardG 7 = true ∧ s.supervisor = false ∧ s.g.spec.trapbase ≠ 0 ∧ s.cur.handler = false ∧ s.g.trap = none ∧
     (s.part s.g.partKey).owner = some (s.cur.gid + 1)) :=
  ⟨⟨block_of (by decide), by decide⟩, ⟨block_of (by decide), by decide, by decide, by decide⟩, ⟨block_of (by decide), by decide, by decide⟩, by decide⟩
theorem test_engine_queue : ([(.copy gb (cmd 0 1), data1), (.gather gb (cmd 0 2), data2), (.pgreq gb (cmd 0 3), data1), (.pgtier gb (cmd 0 4), data1),
    (.digest gb (cmd 0 5), digest1), (.reshard gb (cmd 0 6), block sregs [0x100, 0])] : List (Instr × State)).map
      (fun p => after p.1 p.2 (fun t => (t.eng.ops.map (·.queue)).sum)) = [some 1, some 2, some 3, some 4, some 5, some 6] := by decide

namespace Sys2Proof.Tests
/-- A group in a gang of its quadrant, whose tiles 1 and 2 are marked. -/
def ganged : State := onG sregs (fun g => { g with spec := { g.spec with ganginfo := 2 ^ 20 + 15 * 2 ^ 16 + 0x3210 } })
def accs (l : List Nat) (marks : List Nat := []) : State :=
  let s := block ganged l
  { s with quads := s.quads.set {} s.g.quadKey { s.quad s.g.quadKey with marks, holder := some s.g.teamKey } }
def acc (ty t : Nat) : GXE := { typea := BitVec.ofNat 4 ty, acc := BitVec.ofNat 2 t }
theorem accReady_of {s : State} (h : (s.g.spec.ganginfo / 2 ^ 20 % 2 == 1 && s.g.faults.isEmpty && ((s.quad s.g.quadKey).holder.isNone ||
    (s.quad s.g.quadKey).holder == some s.g.teamKey)) = true) : AccReady s := by
  simp only [Bool.and_eq_true, Bool.or_eq_true, beq_iff_eq, List.isEmpty_iff, Option.isNone_iff_eq_none] at h
  exact ⟨h.1.1, h.1.2, h.2⟩
/-- Members 1, 2 and 3 of the gang wait in the latch with the word being issued. -/
def member (q : Nat) : EngOp := { kind := .mma, gid := 10 + q, grid := ganged.g.grid, team := 0, num := q, latched := true, w0 := 0x12345678, w1 := 0x9ABCDEF0, gang := 2 ^ 20 + 15 * 2 ^ 16 + 0x3210, id := q, gform := 1, ktotal := 128, w := [0, 0, 0, 0, 0, 0, 0, 0] }
def latch (l : List Nat) (ops : List EngOp) : State :=
  let s := onLaunch (block ganged l) (fun l => { l with tmem := 65536 })
  { s with eng := { s.eng with ops }, nextId := 500 }
def rBlock : List Nat := [0x100, 128, 20]
def tBlock : List Nat := [0x100, 128, 0x2000, 128, 128, 128, 0]
def mm (t : Nat) : GXE := { gform := 1, typea := 12, typeb := 12, form := BitVec.ofNat 4 t }
theorem latchFree_of {s : State} (h : (s.eng.ops.all (fun o => (!o.latched || (o.quadKey != s.g.quadKey && (o.teamKey != s.g.teamKey || o.num != s.g.num))) &&
    decide (o.id < s.nextId)) && s.g.quadKey == s.g.coreKey * 4 + s.g.num % 4 && decide (s.eng.ops.map (·.id)).Nodup) = true) : LatchFree s := by
  simp only [Bool.and_eq_true, List.all_eq_true, Bool.or_eq_true, Bool.not_eq_true', bne_iff_ne, decide_eq_true_eq, beq_iff_eq] at h
  refine ⟨fun o ho hl => ?_, h.1.2, fun o ho => (h.1.1 o ho).2, h.2⟩
  rcases (h.1.1 o ho).1 with e | ⟨e1, e2⟩
  · simp [hl] at e
  · exact ⟨e1, fun ht => e2.resolve_left (fun hn => hn ht)⟩
def shortOk (s : State) (v : Nat) : Bool := (List.range 4).any (fun q => v / 2 ^ (16 + q) % 2 == 1 && v / 16 ^ q % 16 != s.g.num &&
  s.eng.ops.all (fun o => !(o.latched && o.teamKey == s.g.teamKey && o.coreKey == s.g.coreKey) || o.num != v / 16 ^ q % 16))
theorem short_of {s : State} {v : Nat} (h : shortOk s v = true) : short s v := by
  obtain ⟨q, hq, h⟩ := List.any_eq_true.mp h
  simp only [Bool.and_eq_true, beq_iff_eq, bne_iff_ne, List.all_eq_true, Bool.or_eq_true, Bool.not_eq_true'] at h
  refine ⟨q, List.mem_range.mp hq, h.1.1, h.1.2, fun o ho w => (h.2 o ho).resolve_left (fun hn => ?_)⟩
  simp [w.1, w.2.1, w.2.2] at hn
theorem gangShort_of {s : State} (h : (shortOk s s.g.spec.ganginfo && s.eng.ops.all (fun o => shortOk s o.gang)) = true) : gangShort s := by
  simp only [Bool.and_eq_true, List.all_eq_true] at h
  exact ⟨short_of h.1, fun o ho _ => short_of (h.2 o ho)⟩
end Sys2Proof.Tests

theorem test_accumulators : AccReady ganged ∧ GroupRuns (.accz {} (acc 3 1)) 7 {} ganged ∧ GroupRuns (.accz {} (acc 11 2)) 7 {} ganged ∧
    (let s := accs [0x100, 0, 512] [1, 2]
     AccReady s ∧ BlockRuns (.accld gb (acc 3 1)) gb {} [0, 1, 2] s ∧ blk64 s gb 0 % 16 = 0 ∧ blk s gb 2 % 16 = 0 ∧ rowBytes (acc 3 1) ≤ blk s gb 2) ∧
    (let s := accs [0x100, 0, 512, 4088] [1, 2]
     AccReady s ∧ BlockRuns (.accst gb (acc 3 0)) gb {} [0, 1, 2, 3] s ∧ barrierAt s gb 3 (some 4088) ∧ (∀ n ∈ tiles (acc 3 0), n ∉ (s.quad s.g.quadKey).marks ∧ n ∉ (s.quad s.g.quadKey).bad)) :=
  ⟨accReady_of (by decide), group_of (by decide), group_of (by decide),
   ⟨accReady_of (by decide), block_of (by decide), by decide, by decide, by decide⟩,
   accReady_of (by decide), block_of (by decide), .inr (by decide), by decide⟩
theorem test_accumulator_marks : after (.accz {} (acc 3 1)) (accs [] [1, 2]) (fun t => (t.quad t.g.quadKey).marks.sum) = some 2 ∧
    after (.accld gb (acc 11 1)) (accs [0x100, 0, 1024] [0, 2]) (fun t => (t.eng.ops.map (·.total)).sum) = some 0 ∧
    after (.accld gb (acc 3 1)) (accs [0x100, 0, 512] [0, 2]) (fun t => (t.eng.ops.map (·.total)).sum) = some 32 := by decide

/-- MMA.R and MMA.T while the gang is short, and as its last member. -/
theorem test_matrix_short : let s := latch rBlock []
    let u := latch tBlock [member 1]
    BlockRuns (.mmaR gb (mm 0)) gb {} (List.range 3) s ∧ Standing s ∧ AccReady s ∧ LatchFree s ∧ (∀ n ∈ tiles (mm 0), n ∉ (s.quad s.g.quadKey).marks ∧ n ∉ (s.quad s.g.quadKey).bad) ∧
    goodA s gb (mm 0) ∧ blk s gb 2 < 256 ∧ s.Clear { vr := bFoot s gb (mm 0) } s.cur.lanes ∧ gangShort s ∧
    BlockRuns (.mmaT gb (mm 1)) gb {} (List.range 7) u ∧ Standing u ∧ AccReady u ∧ LatchFree u ∧ blk u gb 4 = 128 ∧ 128 % kBlock 0 = 0 ∧ gangShort u := by
  refine ⟨block_of (by decide), standing_of (x := here) (by decide), accReady_of (by decide), latchFree_of (by decide), by decide, ⟨by decide, by decide, by decide, by decide,
    by decide⟩, by decide, clear_of (by decide), gangShort_of (by decide), block_of (by decide), standing_of (x := here) (by decide), accReady_of (by decide),
    latchFree_of (by decide), by decide, by decide, gangShort_of (by decide)⟩
theorem test_matrix_last : let s := latch rBlock [member 1, member 2, member 3]
    BlockRuns (.mmaR gb (mm 0)) gb {} (List.range 3) s ∧ Standing s ∧ AccReady s ∧ LatchFree s ∧ goodA s gb (mm 0) ∧ s.Clear { vr := bFoot s gb (mm 0) } s.cur.lanes ∧
    s.g.spec.ganginfo / 2 ^ 16 % 16 = 15 ∧ (mm 0).gform = 1 ∧ inGang s (s.g.num % 4) ∧ gangMember s (s.g.num % 4) = s.g.num ∧
    (∀ q, inGang s q → q ≠ s.g.num % 4 → gangMember s q ≠ s.g.num ∧ ∃ o ∈ s.eng.ops, waitsHere s o ∧ o.num = gangMember s q) ∧
    (∀ o ∈ s.eng.ops, o.kind = .mma ∧ o.w1 = s.cur.w1 ∧ noRegs o.w0 = noRegs s.cur.w0 ∧ o.gang = s.g.spec.ganginfo ∧ o.gform = 1) := by
  refine ⟨block_of (by decide), standing_of (x := here) (by decide), accReady_of (by decide), latchFree_of (by decide), ⟨by decide, by decide, by decide, by decide, by decide⟩,
    clear_of (by decide), by decide, by decide, ⟨by decide, by decide⟩, by decide, fun q hq hn => ?_, by decide⟩
  obtain ⟨hq, -⟩ := hq
  rcases (by omega : q = 0 ∨ q = 1 ∨ q = 2 ∨ q = 3) with rfl | rfl | rfl | rfl
  · exact absurd (by decide) hn
  · exact ⟨by decide, member 1, by decide, ⟨by decide, by decide, by decide⟩, by decide⟩
  · exact ⟨by decide, member 2, by decide, ⟨by decide, by decide, by decide⟩, by decide⟩
  · exact ⟨by decide, member 3, by decide, ⟨by decide, by decide, by decide⟩, by decide⟩
theorem test_matrix_starts : after (.mmaR gb (mm 0)) (latch rBlock [member 1, member 2, member 3]) (fun t => (t.eng.ops.filter (·.started)).length) = some 4 ∧
    after (.mmaR gb (mm 0)) (latch rBlock [member 1, member 2]) (fun t => (t.eng.ops.filter (·.latched)).length) = some 3 := by decide

namespace Sys2Proof.Tests
/-- A continuation of MMA.R (tile 2, 32 of 128 elements done), in the side buffer and at 0x200. -/
def cont : Nat := 0x14000000800000010000000200000000800000002002330000BC001000
def contOps : List Nat := (List.range 8).map (fun k => cont / 256 ^ (20 + 4 * k) % 2 ^ 32)
def continuing (a : Nat) : State :=
  let s := latch [a, 0] []
  let s := onG (pokeAt s 0x200 64 cont) (fun g => { g with side := g.side.setMany 0 0x880 (bytesOfNat 64 cont) })
  { s with quads := s.quads.set {} s.g.quadKey { s.quad s.g.quadKey with marks := [0, 2] } }
end Sys2Proof.Tests

theorem test_matrix_resume : (∀ a ∈ [0, 0x200], BlockRuns (.mres gb { gform := 1 }) gb {} [0, 1] (continuing a) ∧ Standing (continuing a) ∧ AccReady (continuing a) ∧
      LatchFree (continuing a) ∧ gangShort (continuing a)) ∧
    mapped (continuing 0x200) .load (blk64 (continuing 0x200) gb 0) (wordPa + 0x200) 0 ∧ unwatched (continuing 0x200) ∧ noAtomics (continuing 0x200) ∧
    goodLine (continuing 0x200) (wordPa + 0x200) 0 64 ∧ little (fun k => (continuing 0).g.side.get 0 (0x880 + k)) 64 = cont ∧
    little (fun k => (continuing 0x200).loadByte (continuing 0x200).g 0 (0x200 + k) ((continuing 0x200).at 0 (wordPa + 0x200 + k))) 64 = cont ∧
    (∃ y, contInstr cont = some (0, y) ∧ y.gform = 1 ∧ (continuing 0).Clear { vr := bRegs contOps y.gform.toNat y.smode.toNat y.typea.toNat } (continuing 0).cur.lanes) ∧ cont / 256 ^ 19 % 256 = 0 ∧
    cont / 256 ^ 52 = 0 ∧ cont / 256 ^ 8 % 2 ^ 32 < cont / 256 ^ 12 % 2 ^ 32 ∧ cont / 256 ^ 17 % 256 = 2 ∧
    2 ∈ ((continuing 0).quad (continuing 0).g.quadKey).marks ∧ 2 ∉ ((continuing 0).quad (continuing 0).g.quadKey).bad := by
  refine ⟨fun a ha => ?_, mapped_of (by decide), by unfold unwatched; decide, by unfold noAtomics; decide, goodLine_of _ _ _ (by decide), by decide, by decide +kernel,
    ⟨_, rfl, by decide, clear_of (by decide)⟩, by decide, by decide, by decide, by decide, by decide, by decide⟩
  simp only [List.mem_cons, List.mem_nil_iff, or_false] at ha
  rcases ha with rfl | rfl <;> exact ⟨block_of (by decide), standing_of (x := here) (by decide), accReady_of (by decide), latchFree_of (by decide),
    gangShort_of (by decide)⟩

/-! ## Waits for engines, the network's registers, and reshard status -/

namespace Sys2Proof.Tests
/-- A barrier object at 0x80 of team memory whose COUNT is n, named by s16. -/
def barObj (n : Nat) : State := onTeam (withS sregs [(16, 0x80)]) (fun t => { t with tmem := t.tmem.setMany 0 0x80 (bytesOfNat 4 n) })
def withOps (s : State) (l : List EngOp) : State := { s with eng := { s.eng with ops := l }, nextId := 500 }
def busy : State := withOps sregs [{ gid := 2, queue := 1, id := 5 }]
def withBar (s : State) (l : List (Nat × Nat)) : State :=
  { s with host := { s.host with bar0 := l.foldl (fun m c => m.set none c.1 (some (BitVec.ofNat 64 c.2))) s.host.bar0 } }
/-- The answer of a FLUSH of node 3. -/
def flushed : FabricOp := { id := 9, gid := 2, kind := 3, node := 3, replied := true, got := ⟨[(0, 7)]⟩, pc := 0 }
def flush (v : Nat) (l : List FabricOp) : State := let s := block sregs [v]; { s with mem := { s.mem with fabric := l } }
/-- The network is up; counter 3 holds SUCCESS 9, ERRORS 5 and LASTERR 7. -/
def net (l : List Nat) : State :=
  withBar (block sregs l) [(0x80000, 1), (0x90018, 0x100), (0xE0040, 2 ^ 32), (0xD0018, 0x0705000000000009)]
def req (w0 len : Nat) (w6 : Nat := 0) : List Nat := [w0 + 3 * 2 ^ 16, len, 0x100, 0, 77, 0, w6, 0]
/-- A RESHARD block at 0x200 whose progress record stands at 0x400. -/
def progress : State := pokeAt (pokeAt (block sregs [0x200, 0]) 0x230 8 0x400) 0x408 8 0x123456789ABCDEF0
end Sys2Proof.Tests

theorem test_engine_waits : (∀ n ∈ [0, 5, 0xFFFFFFFD], GroupRuns (.bwait (ga 0 16 0) {}) 7 { sr := [16] } (barObj n) ∧ (barObj n).g.faults = [] ∧
      (((barObj n).g.sreg 16).toNat + 8 ≤ (barObj n).launch.tmem) ∧ ((barObj n).g.sreg 16).toNat % 8 = 0) ∧
    (BitVec.ofNat 32 (little (fun k => (barObj 5).winByte 1 (barObj 5).g.teamKey (0x80 + k)) 4)).toInt = 5 ∧
    (BitVec.ofNat 32 (little (fun k => (barObj 0xFFFFFFFD).winByte 1 (barObj 0xFFFFFFFD).g.teamKey (0x80 + k)) 4)).toInt = -3 ∧
    GroupRuns (.qfence {} (sx 2)) 7 {} busy ∧ busy.g.faults = [] ∧ Standing busy ∧ (∀ o ∈ busy.eng.ops, o.id < busy.nextId) ∧
    (∃ o ∈ busy.eng.ops, o.gid = 2 ∧ 2 / 2 ^ o.queue % 2 = 1) ∧ (∀ o ∈ busy.eng.ops, ¬ 253 / 2 ^ o.queue % 2 = 1) := by
  refine ⟨fun n hn => ?_, by decide, by decide, group_of (by decide), by decide, standing_of (x := here) (by decide), by decide, by decide, by decide⟩
  simp only [List.mem_cons, List.mem_nil_iff, or_false] at hn
  rcases hn with rfl | rfl | rfl <;> exact ⟨group_of (by decide), by decide, by decide, by decide⟩
theorem test_flush : BlockRuns (.flushNode (gb 8) (cmd 0)) (gb 8) { sw := [8] } [0] (flush 3 []) ∧ blk (flush 3 []) (gb 8) 0 < 16 ∧
    BlockRuns (.flushPkg (gb 8) (cmd 1)) (gb 8) { sw := [8] } [0] (flush (2 ^ 31) []) ∧ 2 ^ 31 ≤ blk (flush (2 ^ 31) []) (gb 8) 0 ∧
    blk (flush (2 ^ 31) []) (gb 8) 0 % 2 ^ 31 = (flush (2 ^ 31) []).pkgid ∧
    BlockRuns (.flushNode (gb 8) (cmd 0)) (gb 8) { sw := [8] } [0] (flush 3 [flushed]) ∧
    ((flush 3 [flushed]).mem.fabric.filter (fun f => f.gid == 2 && f.pc == 0 && f.replied && f.kind != 1)) = [flushed] ∧ flushed.failed = 0 ∧
    ((flush 3 []).mem.fabric.filter (fun f => f.gid == 2 && f.pc == 0 && f.replied && f.kind != 1)) = [] :=
  ⟨block_of (by decide), by decide, block_of (by decide), by decide, by decide, block_of (by decide), by decide, by decide, by decide⟩
theorem test_engine_wait_values : after (.bwait (ga 0 16 0) {}) (barObj 5) (fun t => t.g.wake.isSome.toNat) = some 1 ∧
    after (.bwait (ga 0 16 0) {}) (barObj 0xFFFFFFFD) (fun t => t.g.wake.isSome.toNat) = some 0 ∧
    after (.flushNode (gb 8) (cmd 0)) (flush 3 [flushed]) (fun t => ((t.g.longs.flatMap (·.ss)).map (·.2.toNat)).sum) = some 7 := by decide
/-- NSEND, NGET and NPOST that are taken, and an NSEND of no bytes while the network is off, which counts an error. -/
theorem test_net : BlockRuns (.nsend gb (cmd 0)) gb {} (List.range 8) (net (req 0 5000 (2 * 2 ^ 16))) ∧ (net (req 0 5000 (2 * 2 ^ 16))).reqStatus 0 (req 0 5000 (2 * 2 ^ 16)) = 0 ∧
    BlockRuns (.npost gb (cmd 0)) gb {} (List.range 8) (net (req 0 4096)) ∧ (net (req 0 4096)).reqStatus 3 (req 0 4096) = 0 ∧
    ((net (req 0 4096)).grid (net (req 0 4096)).g.grid).snapped = false ∧ (net (req 0 4096)).net.pdcs.length + (net (req 0 4096)).net.rx.length < 2048 ∧
    BlockRuns (.nsend gb (cmd 0)) gb {} (List.range 8) (block sregs (req 0 4096)) ∧ (block sregs (req 0 4096)).reqStatus 0 (req 0 4096) ≠ 0 ∧
    BlockRuns (.nget gb (cmd 0)) gb {} (List.range 8) (block sregs (req 0 4096)) ∧ (block sregs (req 0 4096)).reqStatus 2 (req 0 4096) ≠ 0 ∧
    (List.range 8).map (blk (net (req 0 4096)) gb) = req 0 4096 :=
  ⟨block_of (by decide), by decide, block_of (by decide), by decide, by decide, by decide, block_of (by decide), by decide, block_of (by decide), by decide, by decide⟩
/-- A sending context that is not idle; every context is one. -/
def sentPacket : Packet :=
  { peer := 7, mode := 0, psn := 0, msg := 0, ord := 0, kind := 0, off := 0, len := 0, tag := 0, rkey := 0, roff := 0, rctr := none, bytes := [],
    authOk := true, supported := true, status := 0, pdc := 0, epoch := 0, key := 0 }
def usedPdc : Pdc := { peer := 7, unacked := [{ psn := 0, msg := 0, pkt := sentPacket }] }
def netFull : State := { net (req 0 4096) with net := { pdcs := List.replicate 2048 usedPdc } }
theorem netFull_pdcs : netFull.net.pdcs = List.replicate 2048 usedPdc := by simp only [netFull]
theorem test_net_full : BlockRuns (.nget gb (cmd 0)) gb {} (List.range 8) netFull ∧ netFull.reqStatus 2 (req 0 4096) = 0 ∧ ContextsFull netFull 0 0 := by
  refine ⟨block_of (by decide +kernel), by decide +kernel, ?_, fun p hp => ?_, fun r hr => absurd hr List.not_mem_nil⟩
  · rw [netFull_pdcs, List.length_replicate]; exact Nat.le_add_right _ _
  · have : ∀ p ∈ List.replicate 2048 usedPdc, State.pdcIdle netFull p = false ∧ ¬ (p.peer = 0 ∧ p.mode = 0) := fun p h => by
      rw [List.eq_of_mem_replicate h]; exact ⟨by simp [State.pdcIdle, usedPdc], by simp [usedPdc]⟩
    exact this p (netFull_pdcs ▸ hp)
theorem test_net_counts : after (.nsend gb (cmd 0)) (block sregs (req 0 4096)) (fun t => t.reg 0xD0018 / 2 ^ 48 % 256) = some 1 ∧
    after (.nsend gb (cmd 0)) (net (req 0 5000 (2 * 2 ^ 16))) (fun t => (t.net.msgs.map (·.total)).sum) = some 2 := by decide
/-- NWAIT at its target (9), past ERRORS (4 for 5), and short of both; NCTR in its three forms. -/
theorem test_nctr : (∀ l ∈ [[3, 9, 0, 5], [3, 10, 0, 4], [3, 10, 0, 5]], BlockRuns (.nwait (gb 8) (cmd 0)) (gb 8) { sw := [8] } [0, 1, 2, 3] (net l) ∧
      ((net l).grid (net l).g.grid).snapped = false ∧ blk (net l) gb 0 < 1024 ∧ blk64 (net l) gb 1 < 2 ^ 48 ∧ blk (net l) gb 3 < 256) ∧
    (net []).reg (counterAt 3) % 2 ^ 48 = 9 ∧ (net []).reg (counterAt 3) / 2 ^ 48 % 256 = 5 ∧
    BlockRuns (.nctrRd (gb 8) (cmd 0)) (gb 8) { sw := [8, 9] } [0, 1, 2] (net [3]) ∧ BlockRuns (.nctrSet gb (cmd 1)) gb {} [0, 1, 2] (net [3, 8, 0]) ∧
    BlockRuns (.nctrAdd gb (cmd 2)) gb {} [0, 1, 2] (net [3, 0xFFFFFFFF, 0]) := by
  refine ⟨fun l hl => ?_, by decide, by decide, block_of (by decide), block_of (by decide), block_of (by decide)⟩
  simp only [List.mem_cons, List.mem_nil_iff, or_false] at hl
  rcases hl with rfl | rfl | rfl <;> exact ⟨block_of (by decide), by decide, by decide, by decide, by decide⟩
theorem test_nctr_values : after (.nctrAdd gb (cmd 2)) (net [3, 0xFFFFFFFF, 0]) (fun t => t.reg 0xD0018) = some 0x0705000100000008 ∧
    after (.nctrSet gb (cmd 1)) (net [3, 8, 0]) (fun t => t.reg 0xD0018) = some 8 ∧
    after (.nwait (gb 8) (cmd 0)) (net [3, 10, 0, 4]) (fun t => ((t.g.longs.flatMap (·.ss)).map (·.2.toNat)).sum) = some 0x107 ∧
    after (.nwait (gb 8) (cmd 0)) (net [3, 10, 0, 5]) (fun t => t.g.wake.isSome.toNat) = some 1 := by decide
theorem test_rstat : BlockRuns (.rstat (gb 8) (cmd 0)) (gb 8) { sw := [8, 9] } [0, 1] progress ∧ progress.eng.ops = [] ∧ blk64 progress gb 0 = 0x200 ∧
    mapped progress .load 0x200 (wordPa + 0x200) 0 ∧ little (fun k => progress.loadByte progress.g progress.g.cut (0x230 + k) (progress.at 0 (wordPa + 0x230 + k))) 8 = 0x400 ∧
    mapped progress .load 0x400 (wordPa + 0x400) 0 ∧ goodLine progress (wordPa + 0x200) 0 64 ∧ goodLine progress (wordPa + 0x400) 0 64 ∧ unwatched progress ∧ noAtomics progress :=
  ⟨block_of (by decide), by decide, by decide, mapped_of (by decide), by decide, mapped_of (by decide), goodLine_of _ _ _ (by decide), goodLine_of _ _ _ (by decide), by unfold unwatched; decide,
   by unfold noAtomics; decide⟩
theorem test_rstat_value : after (.rstat (gb 8) (cmd 0)) progress (fun t => ((t.g.longs.flatMap (·.ss)).map (·.2.toNat)).sum) = some 0x9ABCDEF0 := by decide +kernel
theorem test_bits_forms : (Instr.andL la xb).WellFormed = true ∧ (Instr.sel la { xb with c := 8, pd := 7 }).WellFormed = true ∧
    (Instr.bfe la { ty := 2 }).WellFormed = true ∧ (Instr.bfi la { xb with c := 8 }).WellFormed = true := by decide

/-! ## The host's window, observation, and the monitor -/

namespace Sys2Proof.Tests
/-- The last gauge of die 7 runs; a ring of 32 records at 0x400; the sampler of die 0 is on. -/
def watched : State :=
  withBar sregs [(obs 7 + 0x2000 + 0x80 * 63, 2 ^ 31 + 5), (obs 0, 1 + 2 ^ 32 * 20), (ring 0 0, wordPa + 0x400), (ring 0 0 + 8, 5), (ring 0 0 + 16, 3)]
def ticking (s : State) : State := { setPart s (fun p => { p with lfsr := 0xACE1, tick := 45 }) with clock := 50 }
def masks : List (Nat × Nat) := (List.range 14).map (fun k => (mapReg 7 + 8 * k, 2 ^ (6 + 2 * k)))
/-- Map 7 is not valid, and its first mask is 0. -/
def unmapped : State := withBar base [(mapReg 7 + 0x70, 0), (mapReg 7, 0)]
def hosting : State := withBar sregs [(8, 4), (0x10, 2), (0x18, 0x30001)]
end Sys2Proof.Tests

theorem test_observation : FMap.wf none watched.host.bar0 = true ∧ gaugeRuns watched 7 63 ∧ ¬ gaugeRuns watched 0 0 ∧
    watched.recovery = false ∧ (withBar watched [(8, 0x201)]).recovery = true ∧ FMap.wf none (withBar watched [(8, 0x201)]).host.bar0 = true :=
  ⟨by decide, ⟨by decide, by decide, by decide, by decide⟩, fun h => absurd h.2.1 (by decide), by decide, by decide, by decide⟩
theorem test_sampler : watched.reg (obs 0) % 2 = 1 ∧ base.reg (obs 0) % 2 = 0 ∧ 0 < ((ticking watched).part 0).tick ∧ ((ticking watched).part 0).tick ≤ (ticking watched).clock ∧
    (ticking watched).reg (ring 0 0 + 8) % 32 = 5 ∧ (tierOf (watched.reg (ring 0 0)) = .hbmA ∨ tierOf (watched.reg (ring 0 0)) = .lpddr) ∧
    (watched.reg (ring 0 0 + 16) + 2 ^ 32 - watched.reg (ring 0 0 + 24)) % 2 ^ 32 ≠ 2 ^ 5 ∧
    (ticking (withBar sregs [(obs 0, 1)])).reg (ring 0 0 + 8) % 32 = 0 ∧ watched.reg (ring 0 0) % 64 = 0 ∧ (ticking watched).recovery = false := by decide
theorem test_stamp_room : stampRoom (ticking watched) ∧ stampRoom watched ∧ stampRoom base :=
  ⟨fun _ => FMap.get_all (P := fun v => v < 128) (by decide) (by decide) _, fun _ => FMap.get_all (P := fun v => v < 128) (by decide) (by decide) _,
   fun _ => FMap.get_all (P := fun v => v < 128) (by decide) (by decide) _⟩
theorem test_observation_values : after (.gaugeSample 7 63 9) watched (fun t => t.reg (gauge 7 63 + 16)) = some 9 ∧
    after (.ringConfigWrite 0 0 true 33) watched (fun t => t.reg (ring 0 0 + 8) + t.reg (ring 0 0 + 16)) = some 1 ∧
    after (.sampleTick 0 0 0) (ticking watched) (fun t => t.reg (ring 0 0 + 16)) = some 4 := by decide
theorem test_channel_map : (7 < 8 ∧ 13 < 14) ∧ regBit (withBar base masks) (mapReg 7 + 0x70) 1 = false ∧ masksValid (withBar base masks) 7 ∧ ¬ masksValid unmapped 7 ∧ regBit unmapped (mapReg 7 + 0x70) 1 = false ∧
    regBit (withBar base [(mapReg 7 + 0x70, 3)]) (mapReg 7 + 0x70) 1 = true ∧ regBit unmapped (mapReg 7 + 0x70) 0 = false ∧ regBit base (mapReg 7 + 0x70) 0 = true ∧ FMap.wf none base.host.bar0 = true := by
  refine ⟨by decide, by decide, ⟨by decide, by decide⟩, fun h => absurd (h.1 0 (by decide)).1 (by decide), by decide, by decide, by decide, by decide, by decide⟩
theorem test_channel_map_values : after (.mapValidSet 7) (withBar base masks) (fun t => t.reg (mapReg 7 + 0x70)) = some 1 ∧
    after (.mapValidSet 7) unmapped (fun t => t.reg (mapReg 7 + 0x70)) = some 4 ∧
    after (.maskWrite 7 13 0xFFFFFFFFFFFFFFFF) unmapped (fun t => t.reg (mapReg 7 + 8 * 13)) = some 0x7FFFFFFFC0 := by decide
theorem test_host_window : stage (withBar base [(8, 1)]) < 4 ∧ ¬ recovering (withBar base [(8, 1)]) ∧ recovering (withBar base [(8, 0x201)]) ∧ 4 ≤ stage hosting ∧
    ¬ recovering hosting ∧ secureTarget 0x4000 ∧ secureTarget 0xE7FFF ∧ ¬ secureTarget 0x3FFF ∧ ¬ secureTarget 0xE8000 ∧ ¬ pops 0x2FFF8 ∧ ¬ pops 0x30008 ∧ ¬ pops 0x38000 ∧ noScratchWait hosting ∧
    (∀ j < 256, hosting.mboxFull j = false) ∧ (∃ j < 256, (withBar hosting [(0x38, 2 ^ 63)]).mboxFull j = true) := by
  refine ⟨by decide, fun h => absurd h.2 (by decide), ⟨by decide, by decide⟩, by decide, fun h => absurd h.1 (by decide), .inl (by decide), .inr (.inr (.inr (by decide))),
    ?_, ?_, ?_, ?_, ?_, ?_, ?_, 255, by decide, by decide⟩
  · unfold secureTarget; decide
  · unfold secureTarget; decide
  · unfold pops; decide
  · unfold pops; decide
  · unfold pops; decide
  · simp [noScratchWait, show hosting.mem.feWaits = [] by decide]
  · intro j hj
    exact Bool.not_eq_true' _ |>.mp (List.all_eq_true.mp (show ((List.range 256).all (fun j => !hosting.mboxFull j)) = true by decide +kernel) j (List.mem_range.mpr hj))
theorem test_host_values : after (.hostScratchWrite (2 ^ 20 - 16) (List.replicate 20 7)) hosting (fun t => (t.mem.scratch.get 0 (3 * 2 ^ 20 - 1)).toNat) = some 7 ∧
    after (.hostScratchWrite (2 ^ 20 - 16) (List.replicate 20 7)) hosting (fun t => (t.mem.scratch.get 0 (3 * 2 ^ 20)).toNat) = some 0 ∧
    after (.mboxerrClear 0x10000) hosting (fun t => t.reg 0x18) = some 0x20001 ∧ after (.mboxbaseWrite 0xFFFF) hosting (fun t => t.reg 0x10) = some 0x1FF := by decide +kernel
/-- GO is bit 20; a report at scratch 0x8000 of die 0, and one at the last block of the last window. -/
theorem test_attestation : (BitVec.getLsbD (0x108000 : DWord) 20 = true ∧ hosting.host.attest = none) ∧ BitVec.getLsbD (0x8000 : DWord) 20 = false ∧
    (let s := { hosting with host := { hosting.host with attest := some (7, 2 ^ 26 - 256) } }
     s.host.attest = some (7, 2 ^ 26 - 256) ∧ (2 ^ 26 - 256) % 256 = 0 ∧ 0x8000 ≤ (2 ^ 26 - 256) % 2 ^ 20 ∧ noScratchWait s) :=
  ⟨by decide, by decide, rfl, by decide, by decide, by simp [noScratchWait, show hosting.mem.feWaits = [] by decide]⟩
namespace Sys2Proof.Tests
/-- A frozen core, a frozen engine operation and a frozen Assay engine. -/
def frozen : State := { withOps sregs [{ id := 7, gid := 2 }] with host := { sregs.host with frozen := [(0, 2, 0x40, 0x100), (4096 + 7, 2, 0, 5), (2 ^ 60, 0, 0, 0)] } }
end Sys2Proof.Tests
theorem test_monitor : regBit base (0x4000 + 16 * 63) 2 = false ∧ regBit (withBar base [(0x4000 + 16 * 63, 4)]) (0x4000 + 16 * 63) 2 = true ∧
    (∃ f ∈ frozen.host.frozen, f.1 = 0) ∧ (∃ f ∈ frozen.host.frozen, f.1 = 4096 + 7) ∧ (∃ f ∈ frozen.host.frozen, f.1 = 2 ^ 60) ∧
    debugged base 0x8000000000000000 = some 2 ∧ debugged base 0x800000000000003F = none ∧ debugged base 0 = none := by decide
theorem test_monitor_values : after (.dhaltWrite 0x8000000000000000) base (fun t => (t.group 2).halted.toNat) = some 1 ∧
    after (.freezeBlockReset 0) frozen (fun t => (t.grid base.g.grid).code) = some 3 ∧
    after (.regionEntryWrite 63 true 0xFFFFFFFFFFFFFFFF) base (fun t => t.reg (0x4000 + 16 * 63 + 8)) = some 0xFFFFFFFFF0000 ∧
    after (.cbudgetWrite 255 0x1234) base (fun t => t.host.cbudget.get 96 255) = some 0x234 := by decide

/-! ## Events of the cores, homes, fabric and engines -/

namespace Sys2Proof.Tests
/-- A long result of four kinds that has come back. -/
def theLong : Long := { id := 3, vs := [(5, BitVec.ofNat 128 5, vals 9 11 0), (6, L, vals 1 1 1)], ps := [(3, L, BitVec.ofNat 128 4)], ss := [(5, 7)], qs := [(2, true)], flags := 8, ready := true }
def longs : State := onG sregs (fun g => { g with longs := [theLong, { id := 4, ready := false }] })
def reserved : QEntry := { entry 6 (fun l => l) with filled := false }
def filling : State := onG sregs (fun g => { g with queues := ⟨[(0, [entry 5 (fun _ => 1), reserved, reserved])]⟩ })
/-- Trap subgroups of two groups of a partition wait for the handler set; group 2 has waited longer. -/
def waitingTrap : Trap := { cls := 3, sub := 12, lanes := BitVec.ofNat 128 5, pc := 0x44, npc := 0x48, recs := ⟨[(0, { addr := 0x123456789A })]⟩, since := 5 }
def trapping : State :=
  let s := onG sregs (fun g => { g with trap := some waitingTrap, subs := [{ lanes := BitVec.ofNat 128 (2 ^ 127), pc := 0 }] })
  s.setGroup 5 { s.g with num := 1, slot := 1, trap := some { waitingTrap with since := 6 } }
def walkReq (id core at_ va : Nat) (fl : Bool) : WalkReq := { id, die := 0, core, agent := core, root := wordPa + 0x10000, asid := 0, va, at_, inFlight := fl }
/-- Walks: two that wait, of one clock, one of a page that core 0 has, and one of VA 0x30000 through tables in memory. -/
def walking : State :=
  let s := pokeAt (pokeAt (pokeAt (pokeAt sregs 0x10000 8 (wordPa + 0x20001)) 0x20000 8 (wordPa + 0x30001)) 0x30000 8 (wordPa + 0x40001)) 0x40018 8 (wordPa + 0x51725)
  { s with xlat := { s.xlat with walks := [walkReq 1 3 9 0x100 false, walkReq 2 2 9 0x50000 false, walkReq 3 0 4 0x100 true, walkReq 4 5 4 0x30000 true] } }
/-- An atomic of lane 2 on the word at 0x100 (5), a returning one. -/
def atomicOp (kind : Nat) : HomeOp :=
  { id := 7, gid := 2, kind, width := 4, n := 6, long := some 3, lanes := [{ lane := 2, va := 0x100, pa := wordPa + 0x100, loc := wordPa + 0x100, a := 9, b := 4 }] }
def homes (kind : Nat) : State :=
  onG { sregs with mem := { sregs.mem with homeOps := [atomicOp kind] } } (fun g => { g with longs := [{ id := 3, vs := [(5, BitVec.ofNat 128 4, {})], ready := false }] })
def committed (va : Nat) (v : Byte) : CByte := { va, pa := wordPa + va, loc := wordPa + va, val := v }
def theCommit (notices : List Nat) : Commit :=
  { id := 7, gid := 2, installed := true, notices, bytes := [committed 0x100 5, committed 0x120 6], covers := ⟨[(0x100, some 5), (0x120, some 6)]⟩ }
def committing (notices : List Nat) : State :=
  { sregs with nextId := 20, mem := { sregs.mem with commits := [theCommit notices], dir := ⟨[((wordPa + 0x100) / 64, [3, 4])]⟩ } }
end Sys2Proof.Tests

theorem test_long_event : (longs.group 2).longs.find? (fun y => y.id == 3 && y.ready) = some theLong ∧ (theLong.vs.map (·.1)).Nodup ∧ (theLong.ps.map (·.1)).Nodup ∧
    (theLong.ss.map (·.1)).Nodup ∧ (theLong.qs.map (·.1)).Nodup ∧
    queueOf (filling.group 2) 0 = [entry 5 (fun _ => 1)] ++ reserved :: [reserved] ∧ (∀ y ∈ [entry 5 (fun _ => 1)], y.filled = true) ∧ reserved.filled = false := by decide
theorem test_enter_event : (trapping.part trapping.g.partKey).owner = none ∧ firstServed trapping trapping.g.partKey 2 waitingTrap ∧
    (handling.part handling.g.partKey).owner ≠ none := by
  refine ⟨by decide, ⟨by decide, by decide, by decide, by decide, by decide, fun c hc hn y hy _ _ _ => ?_⟩, by decide⟩
  have : ∀ c ∈ trapping.groups.cells, c.1 ≠ 2 → c.2.trap = some { waitingTrap with since := 6 } := by decide
  rw [this c hc hn] at hy
  cases hy; exact .inl (by decide)
theorem test_walk_event : walkReq 2 2 9 0x50000 false ∈ walking.xlat.walks ∧
    (∀ y ∈ walking.xlat.walks, y.die = 0 → y.inFlight = false → y = walkReq 2 2 9 0x50000 false ∨ 9 < y.at_ ∨ 9 = y.at_ ∧ 2 < y.core) ∧
    (walking.xlat.walks.filter (fun y => y.die == 0 && y.inFlight)).length < 1024 ∧
    walking.xlat.walks.find? (fun y => y.id == 3 && y.inFlight) = some (walkReq 3 0 4 0x100 true) ∧ (walking.tlbFind 0 0 0x100).isSome = true ∧
    walking.xlat.walks.find? (fun y => y.id == 4 && y.inFlight) = some (walkReq 4 5 4 0x30000 true) ∧ canonical 0x30000 = true ∧ walking.tlbFind 5 0 0x30000 = none ∧
    walking.walk (wordPa + 0x10000) 0x30000 = .leaf (wordPa + 0x51725) (wordPa + 0x40018) 16 ∧ pteRes (wordPa + 0x51725) = 0 ∧ 5 < 4104 := by decide +kernel
theorem test_core_event_values : after (.longResultWrite 2 3) longs (lane 5 2) = some 11 ∧ after (.longResultWrite 2 3) longs (fun t => t.g.longs.length) = some 1 ∧
    after (.queueEntryFill 2 0) filling (fun t => ((queueOf t.g 0).filter (·.filled)).length) = some 2 ∧
    after (.handlerEnter trapping.g.partKey) trapping (fun t => (t.part trapping.g.partKey).owner.getD 0) = some 2 := by decide +kernel
theorem test_home_event : (atomicOp 0).lanes.all (fun h => !h.tagged) = true ∧ (∀ k ∈ [0, 1, 2, 3, 4], ((atomicOp k).lanes.map (·.lane)).Nodup ∧ (homes k).mem.homeOps.find? (fun x => x.id == 7) = some (atomicOp k) ∧
      (atomicOp k).lanes.filter (fun x => !x.performed) = (atomicOp k).lanes ∧ ((homes k).gridOf 2).launch.mode ≠ 2 ∧ (atomicOp k).aop % 8 ≤ 2 ∧
      (homes k).retentionOk (bytesAt (wordPa + 0x100) 4 0) = true) ∧
    (committing [3, 4]).mem.commits.find? (fun x => x.notices.contains 3) = some (theCommit [3, 4]) ∧
    (committing []).mem.commits.find? (fun x => x.id == 7) = some (theCommit []) ∧ ((committing []).gridOf 2).launch.mode ≠ 2 ∧
    (theCommit []).installed = true ∧ (theCommit []).tags = [] ∧ (committing []).retentionOk (theCommit []).cells = true ∧ ((theCommit []).bytes.map (·.loc)).Nodup ∧
    ((committing [3, 4]).mem.commits.map (·.id)).Nodup ∧
    (committing [3]).mem.commits.find? (fun x => x.id == 7) = some (theCommit [3]) ∧ (theCommit [3]).notices ≠ [] := by decide
theorem test_home_event_values : after (.homeAtomic 7) (homes 0) (fun t => t.newestN (wordPa + 0x100) 4) = some 9 ∧
    after (.homeAtomic 7) (homes 4) (fun t => t.newestN (wordPa + 0x100) 4) = some 0 ∧ after (.homeAtomic 7) (homes 2) (fun t => t.newestN (wordPa + 0x100) 4) = some 5 ∧
    after (.commitVisible 7) (committing []) (fun t => (t.newest (wordPa + 0x120)).toNat) = some 6 ∧
    after (.commitVisible 7) (committing [3]) (fun t => (t.newest (wordPa + 0x120)).toNat) = some 0 := by decide

namespace Sys2Proof.Tests
/-- An access of two lanes to node 3 (kind 0 load, 1 store, 2 atomic), and a FLUSH of a node or of this package. -/
def access (kind : Nat) : FabricOp := { id := 9, gid := 2, kind, node := 3, bytes := 4, lanes := [(0, 0x100, 7, 0), (2, 0x104, 8, 0)] }
def flushOp (akind : Nat) : FabricOp := { id := 9, gid := 2, kind := 3, node := 3, akind, aop := 5 }
/-- The access under way, with node 3 in a state (1 up, 2 down, 3 reset seen). -/
def fabric (o : FabricOp) (st : Nat) : State :=
  withBar { sregs with mem := { sregs.mem with fabric := [o] } } [(0x20418, st), (0x20000, 2)]
def lostAt (s : State) : State := { s with mem := { s.mem with nodes := s.mem.nodes.set {} 3 { s.node 3 with lost := [2] } } }
/-- Package 0's group 2 holds name index 1, generation 1. -/
def theName : Nat := 2 ^ 8 + 1
def delivery : Delivery := { id := 7, gid := 2, grid := 1, num := 0, target := theName, reg := 31, data := vals 1 2 3, pkg := 0 }
def delivering (target : Nat) : State :=
  { onG sregs (fun g => { g with holds := ⟨[(31, 2)]⟩ }) with
    names := { sregs.names with holder := ⟨[(1, 3)]⟩, gens := ⟨[]⟩ }, eng := { sregs.eng with deliveries := [{ delivery with target }] } }
def mcast : McPacket := { die := 7, off := 2 ^ 26 - 32, bytes := List.replicate 32 5, op := none }
/-- COPY of two rows of 32 bytes from team memory 0 to scratch 64 of the group's die, and a GATHER by v20. -/
def team1 : Tlr := { kind := 1, etype := 0, rank := 2, dims := [8, 2, 1, 1], strides := [64, 0, 0] }
def scr1 : Tlr := { kind := 2, etype := 0, rank := 2, place := 8, base := 64, dims := [8, 2, 1, 1], strides := [32, 0, 0] }
def copyOp (obj : Option Nat) : EngOp :=
  { id := 7, gid := 2, grid := sregs.g.grid, kind := .copy, queue := 1, started := true, total := 2, src := team1, dst := scr1, obj, left := 64, lanes := L }
def gatherOp : EngOp := { copyOp none with kind := .gather, regs := [vals 1 0 0], dst := { scr1 with dims := [8, 128, 1, 1] } }
theorem turn_of {s : State} {k : Nat} {o : EngOp} (h : (s.eng.ops == [o] && o.id == k && (s.group o.gid).status == .running && s.isFrozen o.master == false) = true) : Turn s k o := by
  simp only [Bool.and_eq_true, beq_iff_eq] at h
  obtain ⟨⟨⟨e, i⟩, g⟩, f⟩ := h
  exact ⟨by simp [e, i], by simp [e], by simp [e], fun x hx hl => by simp [e] at hx; simp [hx] at hl, g, f⟩
theorem noWaits_of {s : State} (h : s.mem.feWaits.isEmpty = true) : noWaits s := by simpa [noWaits] using h
end Sys2Proof.Tests

theorem test_fabric : (∀ k ∈ [0, 1, 2], ∀ st ∈ [1, 2, 3], (fabric (access k) st).mem.fabric.find? (fun x => x.id == 9) = some (access k) ∧
      (fabric (access k) st).nstate 3 = st ∧ (fabric (access k) st).portDown 0 = false ∧ (fabric (access k) st).portWaits 0 = false ∧ ((access k).lanes.map (·.1)).Nodup ∧
      (∀ l ∈ (access k).lanes, l.2.1 + 4 ≤ ((fabric (access k) st).node 3).ddr ∧ ((fabric (access k) st).node 3).windows = []) ∧ (fabric (access k) st).eng.mcasts = []) ∧
    (withBar (fabric (access 0) 1) [(0x20000, 1)]).portWaits 0 = true ∧
    ((fabric (access 0) 1).gridOf 2).launch.mode ≠ 2 ∧ (access 2).aop % 8 ≤ 2 ∧ (fabric (flushOp 0) 1).nstate 3 = 1 ∧ (fabric (flushOp 0) 1).portDown 0 = false ∧ (fabric (flushOp 0) 1).portWaits 0 = false ∧ 2 ∉ ((fabric (flushOp 0) 1).node 3).lost ∧
    2 ∈ ((lostAt (fabric (flushOp 0) 1)).node 3).lost ∧ (flushOp 1).bytes = (fabric (flushOp 1) 1).pkgid ∧ (fabric (flushOp 1) 1).eng.deliveries = [] ∧
    (fabric (flushOp 1) 1).eng.ops = [] := by decide
theorem test_fabric_values : after (.fabricLoadReply 9) (fabric (access 1) 1) (fun t => (t.nodeByte 3 0x104).toNat) = some 8 ∧
    after (.fabricLoadReply 9) (fabric (access 0) 3) (fun t => (t.mem.fabric.map (·.failed)).sum) = some 2 ∧
    after (.fabricLoadReply 9) (lostAt (fabric (flushOp 0) 1)) (fun t => (t.mem.fabric.map (·.failed)).sum) = some 5 := by decide
theorem test_arrivals : (mcast.die < 8 ∧ mcast.off + mcast.bytes.length ≤ 2 ^ 26) ∧ noScratchWait sregs ∧
    (delivering theName).eng.deliveries.find? (fun x => x.id == 7) = some delivery ∧ ((delivering theName).grid 1).steer.ops = [] ∧ (delivering theName).mem.commits = [] ∧
    delivery.pkg = (delivering theName).pkgid ∧ theName % 2 ^ 8 = 1 ∧ theName / 2 ^ 8 % 2 ^ 18 = 1 ∧ (delivering theName).names.holder.get 0 1 = 2 + 1 ∧
    (delivering theName).names.gens.get 0 1 + 1 = 1 ∧ ((delivering theName).group 2).status = .running ∧ 31 < 32 + 16 * ((delivering theName).group 2).budget ∧
    (delivering (2 ^ 9 + 1)).names.holder.get 0 2 = 0 ∧ (2 ^ 9 + 1) / 2 ^ 8 % 2 ^ 18 = 2 :=
  ⟨by decide, by simp [noScratchWait, show sregs.mem.feWaits = [] by decide], by decide, by decide, by decide, by decide, by decide, by decide, by decide, by decide,
   by decide, by decide, by decide, by decide⟩
/-- A canonical name in the sender's grid, a name of a package outside the pod, and this package's copy of its own run. -/
theorem test_arrival_forms : (let s := steered (onG (delivering (2 ^ 8)) (fun g => { g with nameIdx := 1 })) 1
     let d := { delivery with target := 2 ^ 8, grid := sregs.g.grid }
     (s.grid d.grid).free = false ∧ s.member d.grid ((2 ^ 8 / 2 ^ 8 % 2 ^ 18 - 1) / 16) ((2 ^ 8 / 2 ^ 8 % 2 ^ 18 - 1) % 16) = some 2 ∧ (s.group 2).nameIdx ≠ 0 ∧
       (s.group 2).status = .running ∧ d.target % 2 ^ 8 = 0 ∧ d.target / 2 ^ 8 % 2 ^ 18 ≠ 0) ∧
    (5 ≠ (delivering theName).pkgid ∧ 5 ∉ (delivering theName).host.pod ∧ ((delivering theName).group 2).status ≠ .gone) ∧
    (let x : Mcast := { op := 6, gid := 2, node := 3, die := mcast.die, off := mcast.off, bytes := mcast.bytes }
     let s := { sregs with eng := { sregs.eng with mcasts := [x] } }
     s.eng.mcasts.find? (fun y => y.op == 6 && y.die == mcast.die && y.off == mcast.off && y.bytes == mcast.bytes) = some x ∧
       s.eng.mcasts.find? (fun y => y.gid == x.gid && y.node == x.node) = some x) := by decide +kernel
theorem test_arrival_values : after (.deliveryArrive 7 none) (delivering theName) (lane 31 127) = some 3 ∧
    after (.deliveryArrive 7 none) (delivering theName) (fun t => t.g.holds.get 0 31) = some 1 ∧
    after (.deliveryArrive 7 none) (delivering (2 ^ 9 + 1)) (fun t => t.g.undelivered.get 0 0) = some 1 ∧
    after (.multicastStoreArrive mcast) sregs (fun t => (t.mem.scratch.get 0 (8 * 2 ^ 26 - 1)).toNat) = some 5 := by decide +kernel
theorem test_copy : Turn (withOps sregs [copyOp none]) 7 (copyOp none) ∧ noWaits (withOps sregs [copyOp none]) ∧ (withOps sregs [copyOp none]).mem.badWords = [] ∧ (withOps sregs [copyOp none]).eng.mcasts = [] ∧ rowOf (copyOp none) 0 64 ∧
    rowOf { copyOp none with next := 1 } 64 96 ∧ (copyOp none).next < (copyOp none).total ∧ 64 + rowLen team1 ≤ 2 ^ 26 ∧ 0 < rowLen team1 ∧
    Turn (withOps sregs [gatherOp]) 7 gatherOp ∧ rowOf gatherOp 64 64 ∧
    Turn (withOps (barObj 5) [copyOp (some 0x80)]) 7 (copyOp (some 0x80)) ∧ ((withOps (barObj 5) [copyOp (some 0x80)]).team (sregs.g.grid * 2 ^ 24)).live = true :=
  ⟨turn_of (by decide), noWaits_of (by decide), by decide, by decide, .inl (by decide), .inl (by decide), by decide, by decide, by decide, turn_of (by decide),
   .inr ⟨by decide, 0, vals 1 0 0, by decide, rfl, by decide, by decide, by decide, by decide⟩, turn_of (by decide), by decide⟩
theorem test_copy_values : after (.engineWritePerformed 7) (withOps sregs [copyOp none]) (fun t => (t.winByte 2 0 (64 + 17)).toNat) = some 2 ∧
    after (.engineWritePerformed 7) (withOps sregs [{ copyOp none with next := 1 }]) (fun t => t.eng.ops.length) = some 0 ∧
    after (.engineWritePerformed 7) (withOps (barObj 40) [copyOp (some 0x80)]) (fun t => (t.winByte 1 t.g.teamKey 0x80).toNat) = some 8 := by decide +kernel

namespace Sys2Proof.Tests
def accOp (kind : EngKind) (ty : Nat) : EngOp :=
  { id := 7, gid := 2, grid := sregs.g.grid, kind, queue := 1, started := true, form := 1, total := 32, ty, tile := 1, w := [0, 0, 512, 0], lanes := L }
def accState (o : EngOp) : State :=
  let s := withOps (onLaunch sregs (fun l => { l with tmem := 65536 })) [o]
  { s with quads := s.quads.set {} s.g.quadKey { s.quad s.g.quadKey with acc := ⟨[(4096, 0x3F800000), (4097, 0x3FC00000), (8192, 9)]⟩, holder := some s.g.teamKey } }
def resOp (kind : EngKind) (w : List Nat) : EngOp :=
  { id := 7, gid := 2, grid := sregs.g.grid, kind, queue := 1, started := true, w, lanes := L }
end Sys2Proof.Tests

theorem test_accumulator_events : Turn (accState (accOp .accz 3)) 7 (accOp .accz 3) ∧ noWaits (accState (accOp .accz 3)) ∧
    FMap.wf 0 ((accState (accOp .accz 3)).quad (accOp .accz 3).quadKey).acc = true ∧ (accState (accOp .accld 3)).mem.badWords = [] ∧ (accState (accOp .accld 3)).eng.mcasts = [] ∧ Turn (accState (accOp .accld 3)) 7 (accOp .accld 3) ∧
    Turn (accState (accOp .accst 9)) 7 (accOp .accst 9) ∧ 0 + 128 * (Fp.widthOf 3 / 8) ≤ ((accState (accOp .accld 3)).grid sregs.g.grid).launch.tmem ∧
    0 < Fp.widthOf 9 / 8 :=
  ⟨turn_of (by decide), noWaits_of (by decide), by decide, by decide, by decide, turn_of (by decide), turn_of (by decide), by decide, by decide⟩
theorem test_accumulator_values : after (.engineWritePerformed 7) (accState (accOp .accz 3)) (fun t => ((t.quad (accOp .accz 3).quadKey).acc.cells.map (·.1)).sum) = some 8192 ∧
    after (.engineWritePerformed 7) (accState (accOp .accst 9)) (fun t => little (fun k => t.winByte 1 t.g.teamKey k) 4) = some 0x3E003C00 := by decide +kernel

/-! ## Matrix, residency and reshard commands at their turns -/

namespace Sys2Proof.Tests
/-- An entry of a TLB is there, and everything that a translation through it reads is as in `s`: the translation passes. -/
theorem steady_of {s u : State} {agent root asid va pa : Nat} {a : Acc} (hx : u.xlat = s.xlat) (hs : u.secureAt pa = false)
    (h : (canonical va && match s.tlbFind agent asid va with
      | none => false
      | some e => permitted a e.pte && pteTier e.pte == 1 && pteWorld e.pte == false && pteRes e.pte == 0 && pteD e.pte &&
          pa == pteFrame e.pte + va56 va % 2 ^ e.size) = true) : steadily u agent root asid a va pa 0 := by
  have hf : u.tlbFind agent asid va = s.tlbFind agent asid va := by simp [State.tlbFind, hx]
  simp only [Bool.and_eq_true] at h
  obtain ⟨hc, h⟩ := h
  split at h
  · simp at h
  · rename_i e he
    simp only [Bool.and_eq_true, beq_iff_eq] at h
    obtain ⟨⟨⟨⟨⟨h1, h2⟩, h3⟩, h4⟩, h5⟩, h6⟩ := h
    subst h6
    simp [steadily, State.translate, State.leafFor, State.leafSecure, State.markDirty, hf, he, hc, h1, h2, h3, h4, h5, hs]
/-- No region entry is enabled: every address is non-secure. -/
theorem secure_of {u : State} {pa : Nat} (h : ∀ i < 64, u.reg (0x4000 + 16 * i) % 2 = 0) : u.secureAt pa = false := by
  have hf : (List.range 64).find? (fun i => let b := u.reg (0x4000 + 16 * i); let l := u.reg (0x4008 + 16 * i)
      b % 2 == 1 && bits b 51 16 ≤ pa / 65536 && pa / 65536 ≤ bits l 51 16) = none := by
    rw [List.find?_eq_none]
    intro i hi
    simp [h i (List.mem_range.mp hi)]
  unfold State.secureAt
  rw [hf]
theorem noRegions (s : State) (h : (List.range 64).all (fun i => s.reg (0x4000 + 16 * i) % 2 == 0) = true) :
    ∀ i < 64, s.reg (0x4000 + 16 * i) % 2 = 0 := fun i hi => by simpa using List.all_eq_true.mp h i (List.mem_range.mpr hi)
/-- Under the default hash a byte's place is numbered by its address. -/
theorem at_of {s : State} {cm : Nat} (h : s.hashed cm = true) (pa : Nat) : s.at cm pa = pa := by simp [State.at, h]
/-- The page at VA 0 is in the TLBs of the TAE of core 0, the network, the RESHARD and the Assay engines. -/
def engines (s : State) : State :=
  let e : TlbEntry := { asid := 0, va := 0, size := 16, pte := wordPte false, pteAddr := 0 }
  { s with xlat := { s.xlat with tlbs := [2048, 4096, 4097, 4098].foldl (fun m k => m.set [] k [e]) s.xlat.tlbs } }
/-- Two members of an MMA.R over 64 of K, of groups 2 and 5 in quadrants 0 and 1, of which 32 are done. -/
def mmaOp (id gid num : Nat) : EngOp := { id, gid, num, grid := sregs.g.grid, kind := .mma, started := true, members := [7, 8], ty := 3, kdone := 32, ktotal := 64, tile := 1, op0 := 0xBC001000, op1 := 0x02330000, w := [0x100, 128, 20, 0, 0, 0, 0, 0], regs := (List.range 64).map (fun _ => vals 1 2 3) }
def gang (split : Bool) : State :=
  withOps (sregs.setGroup 5 { sregs.g with num := 1, slot := 1 }) [{ mmaOp 7 2 0 with split }, { mmaOp 8 5 1 with split }]
/-- A command of group 2 of core 0. -/
def resident (kind : EngKind) (w : List Nat) (f : EngOp → EngOp := id) : EngOp := f (resOp kind w)
def resState (o : EngOp) : State := withOps (engines sregs) [o]
def pageTables : State := pokeAt (pokeAt (pokeAt (pokeAt sregs 0x10000 8 (wordPa + 0x20001)) 0x20000 8 (wordPa + 0x30001)) 0x30000 8 (wordPa + 0x40001)) 0x40018 8 (wordPa + 0x51725)
def tierState (o : EngOp) : State := withOps (onLaunch pageTables (fun l => { l with root := wordPa + 0x10000 })) [o]
/-- PGTIER of the page at VA 0x30000 from the LPDDR tier to region A, after each of its steps. -/
def tierOp (step : Nat) : EngOp :=
  { resOp .pgtier [0x30000, 0, 0x20000, 0] with started := true, step, next := wordPa + 0x40018, total := 65536, left := 65536, ktotal := wordPa + 0x51725 }
def shootOp : EngOp := { resOp .shoot [0, 0, 0x1000, 0, 0x2000, 0] with open_ := [0, 2048, 4097] }
def reshardOp : EngOp := { resOp .reshard [0x200, 0] with total := 3, next := 1, ktotal := 0x400, plan := [{}, { space := 1, place := sregs.g.teamKey, runs := [(16, 0x800, 8)] }, {}] }
end Sys2Proof.Tests

theorem test_matrix_performed : (gang false).eng.ops.find? (fun x => x.id == 7) = some (mmaOp 7 2 0) ∧
    (mmaOp 7 2 0).members.map (gang false).engOp = [mmaOp 7 2 0, mmaOp 8 5 1].map some ∧ ((gang false).eng.ops.map (·.id)).Nodup ∧ (mmaOp 7 2 0).members.Nodup ∧
    (∀ m ∈ [mmaOp 7 2 0, mmaOp 8 5 1], Turn (gang false) m.id m ∧ m.form = 0 ∧ m.kdone = 32 ∧ m.ktotal = 64 ∧ m.smode = 0 ∧ m.members = [7, 8]) ∧ (gang false).mem.badWords = [] ∧ 64 ≤ 8192 ∧
    ([mmaOp 7 2 0, mmaOp 8 5 1].map (·.quadKey)).Nodup ∧ 64 % kBlock 0 = 0 ∧ 32 % kBlock 0 = 0 ∧
    ((gang true).eng.ops.find? (fun x => x.id == 7)).map (·.split) = some true ∧ (∀ k ∈ [2, 5], ((gang true).group k).status = .running) := by
  refine ⟨by decide, by decide, by decide, by decide, fun m hm => ?_, by decide, by decide, by decide, by decide, by decide, by decide, by decide⟩
  simp only [List.mem_cons, List.mem_nil_iff, or_false] at hm
  rcases hm with rfl | rfl <;> exact ⟨⟨by decide, by decide, by decide, by decide, by decide, by decide⟩, by decide⟩
theorem test_residency : (let o := resOp .pgreq [0x100, 0, 0x1000, 0]
     Turn (resState { o with started := false }) 7 { o with started := false } ∧ canonical 0x100 = true ∧
     ∃ e, (resState o).tlbFind o.agent 0 0x100 = some e ∧ pteRes e.pte = 0) ∧
    (∀ n ∈ [0, 1, 2, 3], Turn (tierState (tierOp n)) 7 (tierOp n) ∧ (tierState (tierOp n)).mem.commits = [] ∧ (tierState (tierOp n)).mem.homeOps = [] ∧
      (tierState (tierOp n)).mem.vers = {}) ∧
    (tierState (tierOp 0)).walk (wordPa + 0x10000) 0x30000 = .leaf (wordPa + 0x51725) (wordPa + 0x40018) 16 ∧ pteRes (wordPa + 0x51725) = 0 ∧
    pteTier (wordPa + 0x51725) = 1 ∧ movable (pteFrame (wordPa + 0x51725)) 65536 = true ∧ movable 0x20000 65536 = true ∧
    (∀ n ∈ [0, 3], (tierState (tierOp n)).pteRoom (wordPa + 0x40018) = true) ∧ FMap.wf 0 (tierState (tierOp 3)).mem.base = true ∧
    FMap.wf {} (tierState (tierOp 3)).groups = true ∧ (tierState (tierOp 3)).xlat.reqs = [] ∧ (∀ x ∈ (tierState (tierOp 3)).eng.ops, x.kind ≠ .pgreq) := by
  refine ⟨⟨turn_of (by decide), by decide, _, rfl, by decide⟩, fun n hn => ?_, by decide +kernel, by decide, by decide, by decide, by decide, fun n hn => ?_, by decide, by decide,
    by decide, by decide⟩
  · simp only [List.mem_cons, List.mem_nil_iff, or_false] at hn
    rcases hn with rfl | rfl | rfl | rfl <;> exact ⟨turn_of (by decide), by decide, by decide, by decide⟩
  · simp only [List.mem_cons, List.mem_nil_iff, or_false] at hn
    rcases hn with rfl | rfl <;> decide +kernel
/-- No byte of the page keeps a superseded version, and its bytes lie apart from those of its destination and from its PTE. -/
theorem test_residency_apart : (∀ i < 65536, keptOf (tierState (tierOp 2)).mem.horizon ((tierState (tierOp 2)).versOf
      ((tierState (tierOp 2)).at 0 (wordPa + 0x50000 + i))) = []) ∧ pteFrame (wordPa + 0x51725) = wordPa + 0x50000 ∧ pteCm (wordPa + 0x51725) = 0 ∧
    (∀ i < 65536, ∀ j < 65536, (tierState (tierOp 3)).at 0 (wordPa + 0x50000 + i) ≠ (tierState (tierOp 3)).at 0 (0x20000 + j)) ∧
    (∀ i < 65536, ∀ j < 65536, i ≠ j → (tierState (tierOp 3)).at 0 (wordPa + 0x50000 + i) ≠ (tierState (tierOp 3)).at 0 (wordPa + 0x50000 + j) ∧
      (tierState (tierOp 3)).at 0 (0x20000 + i) ≠ (tierState (tierOp 3)).at 0 (0x20000 + j)) ∧
    ∀ i < 65536, ∀ j < 8, (tierState (tierOp 3)).at 0 (wordPa + 0x50000 + i) ≠ (tierState (tierOp 3)).at 0 (wordPa + 0x40018 + j) ∧
      (tierState (tierOp 3)).at 0 (0x20000 + i) ≠ (tierState (tierOp 3)).at 0 (wordPa + 0x40018 + j) := by
  have h := at_of (show (tierState (tierOp 3)).hashed 0 = true by decide)
  refine ⟨fun i _ => by simp [State.versOf, show (tierState (tierOp 2)).mem.vers = {} by decide, FMap.get, FMap.find, keptOf], by decide, by decide, ?_, ?_, ?_⟩ <;>
    simp only [h, wordPa] <;> omega
theorem test_shoot : Turn (resState shootOp) 7 shootOp ∧ (∀ a ∈ [0, 2048, 4097], a ∈ shootOp.open_) ∧ (resState shootOp).mem.homeOps = [] ∧
    (resState shootOp).mem.fabric = [] ∧ (resState shootOp).mem.commits = [] ∧ shootOp.covers 0 0 16 = true ∧ shootOp.covers 0 0x3000 12 = false ∧ shootOp.covers 1 0x1000 12 = false :=
  ⟨turn_of (by decide), by decide⟩
theorem test_digest : (let o := resOp .digest [0x100, 0, 8, 0, noObj, 0x40, 0]
     Turn (resState o) 7 o ∧ steadily (resState o) o.agent 0 0 .load 0x100 (wordPa + 0x100) 0 ∧ goodLine (resState o) (wordPa + 0x100) 0 8 ∧
     unwatched (resState o) ∧ (resState o).mem.commits = [] ∧
     ∀ u : State, u.xlat = (resState o).xlat → u.host.secure = (resState o).host.secure →
       (∀ i, i < 0x18000 ∨ 0x18000 + 0x20 * 544 ≤ i → u.reg i = (resState o).reg i) → steadily u o.agent 0 0 .store 0x40 (wordPa + 0x40) 0) :=
  ⟨turn_of (by decide), steady_of rfl (secure_of (noRegions _ (by decide))) (by decide), goodLine_of _ _ _ (by decide), by unfold unwatched; decide, by decide,
   fun u hx _ hr => steady_of hx (secure_of fun i hi => by rw [hr _ (.inl (by omega))]; exact noRegions _ (by decide) i hi) (by decide)⟩
theorem test_reshard : Turn (resState reshardOp) 7 reshardOp ∧ reshardOp.next + 1 < reshardOp.total ∧ reshardOp.plan.getD 1 {} = { space := 1, place := sregs.g.teamKey, runs := [(16, 0x800, 8)] } ∧
    steadily (resState reshardOp) 4097 0 0 .store 0x800 (wordPa + 0x800) 0 ∧ steadily (resState reshardOp) 4097 0 0 .atomic 0x400 (wordPa + 0x400) 0 ∧
    (resState reshardOp).retentionOk ((List.range 8).map (fun i => ((resState reshardOp).at 0 (wordPa + 0x800 + i), 0)) ++
      (List.range 64).map (fun i => ((resState reshardOp).at 0 (wordPa + 0x400 + i), 0))) = true ∧ (resState reshardOp).mem.badWords = [] ∧
    (∀ i < 8, ∀ j < 64, (resState reshardOp).at 0 (wordPa + 0x800 + i) ≠ (resState reshardOp).at 0 (wordPa + 0x400 + j)) ∧
    (∀ i < 8, ∀ j < 8, i ≠ j → (resState reshardOp).at 0 (wordPa + 0x800 + i) ≠ (resState reshardOp).at 0 (wordPa + 0x800 + j)) :=
  ⟨turn_of (by decide), by decide, by decide, steady_of rfl (secure_of (noRegions _ (by decide))) (by decide), steady_of rfl (secure_of (noRegions _ (by decide))) (by decide),
   by decide, by decide, by simp only [at_of (show (resState reshardOp).hashed 0 = true by decide)]; omega,
   by simp only [at_of (show (resState reshardOp).hashed 0 = true by decide)]; omega⟩
theorem test_engine_turn_values : after (.matrixResume 7) (gang true) (fun t => (t.eng.ops.filter (·.split)).length) = some 0 ∧
    after (.pgtierCopy 7) (tierState (tierOp 0)) (fun t => pteRes (t.newestN (wordPa + 0x40018) 8)) = some 2 ∧
    after (.shootAck 7 2048) (resState shootOp) (fun t => (t.xlat.tlbs.get [] 2048).length) = some 0 ∧
    after (.reshardUnitCommit 7 1 [] 0) (resState reshardOp) (fun t => t.newestN (wordPa + 0x408) 8) = some 2 ∧
    after (.reshardUnitCommit 7 1 [] 0) (resState reshardOp) (fun t => t.newestN (wordPa + 0x800) 2) = some 0x201 := by decide +kernel

/-! ## Grids, teams and groups as they come and go -/

namespace Sys2Proof.Tests
/-- Mailbox slots hold `v` in the last slot, 255, whose granules are full but, where `ok` is false, for the last. -/
def mailbox (v : Nat) (ok : Bool) : State :=
  let s := { sregs with mem := { sregs.mem with scratch := sregs.mem.scratch.setMany 0 (window sregs + 128 * 255) (bytesOfNat 128 v),
                                                 sfull := ⟨(List.range (if ok then 8 else 7)).map (fun j => (slotGranule sregs 255 j, true))⟩ } }
  withBar s [(0x38, 2 ^ 63), (0x18, if ok then 0 else 2 ^ 16)]
/-- A grid of two teams of two groups each, one of them placed, which is the one launch that waits. -/
def ready2 : State :=
  sregs.setGrid 40 { status := .running, launch := { groups := 2, teams := 2, roles := [2], tmem := 4096, entry := 0x400, args := 0x500000006 }, order := 40, next := 1, started := true, cut := 7, inStore := true }
/-- The group drains: the only one of its team, or one of two. -/
def leaving (two : Bool) : State :=
  let s := onG sregs (fun g => { g with status := .draining, subs := [] })
  let s := onTeam s (fun t => { t with gids := if two then [2, 5] else [2], grid := sregs.g.grid })
  if two then s.setGroup 5 { sregs.g with num := 1, slot := 1 } else s
def posting : State := onG (leaving false) (fun g => { g with posted := 1 })
/-- The group waits at WAITV, beside another of its team; it may be evicted. -/
def evictable : State :=
  let s := onG (leaving true) (fun g => { g with status := .running, subs := [{ lanes := L, pc := 8 }], wake := some { cond := .waitv 0x100 (wordPa + 0x100) 0 0 9 } })
  { s with agenda := [] }
/-- It is evicted, and its slot is free; or its team is at the management complex. -/
def evicted (st : GStatus) : State :=
  let s := onG (leaving false) (fun g => { g with status := st, image := 0x8000010000 })
  s
def teamsOk (s : State) (k : Nat) : Bool :=
  s.groups.cells.all (fun c => c.2.status == .gone || c.2.grid != k || (s.team (k * 2 ^ 24 + c.2.team)).grid == k)
theorem going_of {s : State} {k : Nat} (h : (s.grid k).status = .running ∧ (s.grid k).stopping = false ∧ (s.grid k).ending = none)
    (g : teamsOk s k = true) : Going s k := by
  refine ⟨h.1, h.2.1, h.2.2, FMap.get_all (m := s.groups) (P := fun g => g.status ≠ .gone → g.grid = k → (s.team (k * 2 ^ 24 + g.team)).grid = k)
    (fun h => absurd rfl h) (fun c hc h1 h2 => ?_)⟩
  have := List.all_eq_true.mp g c hc
  simpa [h1, h2] using this
/-- The grid stops: group 2 runs on, at an instruction boundary. -/
def stopping (s : State) : State := s.setGrid s.g.grid { s.grid s.g.grid with stopping := true, code := 3 }
def frozenUnit : State := { sregs with host := { sregs.host with frozen := [(8195, 0, 0, 0)] } }
end Sys2Proof.Tests

theorem test_slot : sregs.isFrozen 8195 = false ∧ (mailbox record true).isFrozen 8195 = false ∧ ¬ frozenUnit.isFrozen 8195 = false ∧ (∀ ok ∈ [true, false], (mailbox record ok).mboxFull 255 = true ∧ ((mailbox record ok).grids.cells.filter (fun c => c.2.inStore)).length < 4096) ∧
    (∀ n < 255, (mailbox record true).mboxFull n = false) ∧ (∀ j < 8, (mailbox record true).mem.sfull.get false (slotGranule (mailbox record true) 255 j) = true) ∧
    (mailbox record false).mem.sfull.get false (slotGranule (mailbox record false) 255 7) = false ∧
    (mailbox record true).launchCode (slotRecord (mailbox record true) 255) = 0 ∧ (mailbox 0 true).launchCode (slotRecord (mailbox 0 true) 255) ≠ 0 ∧
    regBit (mailbox record true) 0x18 16 = false ∧ regBit (mailbox record false) 0x18 16 = true := by
  refine ⟨by decide, by decide, by decide, by decide, fun n hn => ?_, by decide, by decide, by decide +kernel, by decide +kernel, by decide, by decide⟩
  exact Bool.not_eq_true' _ |>.mp (List.all_eq_true.mp (show ((List.range 255).all (fun j => !(mailbox record true).mboxFull j)) = true by decide +kernel) n (List.mem_range.mpr hn))
theorem test_dispatch : ready2.queueOrder = [40] ∧ (ready2.grid 40).launch.mode = 0 ∧ (∀ c ∈ ready2.teams.cells, c.2.out = false) ∧ 1 < (ready2.grid 40).launch.teams ∧ (ready2.team (40 * 2 ^ 24 + 1)).live = false ∧
    (ready2.team (40 * 2 ^ 24 + 1)).retired = false ∧ (ready2.team (40 * 2 ^ 24 + 1)).stopped = false ∧
    ready2.admits (ready2.grid 40).launch 7 255 = some [0, 16] := by decide
theorem test_leaves : (∀ b ∈ [true, false], leaves (leaving b) 2 ∧ 2 ∈ ((leaving b).team sregs.g.teamKey).gids ∧ ((leaving b).team sregs.g.teamKey).grid = sregs.g.grid) ∧
    (¬ ∀ j ∈ ((leaving true).team sregs.g.teamKey).gids, j = 2 ∨ ((leaving true).group j).status = .gone) ∧
    (∀ j ∈ ((leaving false).team sregs.g.teamKey).gids, j = 2 ∨ ((leaving false).group j).status = .gone) ∧
    ((leaving false).grid sregs.g.grid).retired + 1 = ((leaving false).grid sregs.g.grid).launch.teams ∧ ((leaving false).grid sregs.g.grid).launch.doneaddr = 0 ∧
    ((leaving false).grid sregs.g.grid).ending = none ∧ ((leaving false).grid sregs.g.grid).stopping = false ∧
    ((stopping sregs).grid sregs.g.grid).stopping = true ∧ (∀ j ∈ (stopping (leaving false)).groups.cells, j.1 = 2 ∨ j.2.grid ≠ sregs.g.grid ∨ j.2.status = .gone) ∧
    (stopping sregs).g.status = .running ∧ (∀ x ∈ (stopping sregs).g.subs, x.stage = 0) ∧
    ¬ leaves posting 2 ∧ Going sregs sregs.g.grid ∧ (sregs.grid sregs.g.grid).status = .running ∧ sregs.net.bufs = [] ∧ FMap.wf {} sregs.groups = true := by
  refine ⟨fun b hb => ?_, by decide, by decide, by decide, by decide, by decide, by decide, by decide, by decide, by decide, by decide, fun h => absurd h.2.2.2.1 (by decide),
    going_of (by decide) (by decide), by decide, by decide, by decide⟩
  simp only [List.mem_cons, List.mem_nil_iff, or_false] at hb
  rcases hb with rfl | rfl <;> exact ⟨⟨by decide, by decide, by decide, by decide, by decide⟩, by decide, by decide⟩
theorem test_leaves_values : after (.slotTake 255) (mailbox record true) (fun t => (t.grids.cells.filter (fun c => c.2.inStore)).length) = some 1 ∧
    after (.teamDispatch 40 7 255) ready2 (fun t => 100 * (t.group (ready2.nextId + 1)).slot + (t.group (ready2.nextId + 1)).die) = some 1607 ∧
    after (.groupDrainEnd 2) (leaving false) (fun t => (t.grid sregs.g.grid).retired) = some 1 ∧ after (.groupDrainEnd 2) (leaving true) (fun t => (t.grid sregs.g.grid).retired) = some 0 := by decide +kernel

theorem test_evict : evictable.canEvict 2 = true ∧ evictable.g.image = 0 ∧ (∃ j ∈ (evictable.team sregs.g.teamKey).gids, j ≠ 2 ∧ (evictable.group j).status ≠ .gone ∧ (evictable.group j).status ≠ .evicted) ∧
    evictable.eng.ops = [] ∧ (∀ l < 128, (evictable.g.joins.get [] l).length ≤ 8) ∧ FMap.wf 0 evictable.mem.base = true ∧ FMap.wf [] evictable.mem.vers = true ∧
    sregs.canEvict 2 = false := ⟨by decide, by decide, ⟨5, by decide⟩, by decide, fun l _ => by rw [show evictable.g.joins = {} by decide]; exact Nat.zero_le 8, by decide, by decide, by decide⟩
theorem test_restore : ((evicted .evicted).group 2).status = .evicted ∧ ((evicted .evicted).team sregs.g.teamKey).out = false ∧ 15 / 16 = (evicted .evicted).g.num % 4 ∧
    (∀ j ∈ (evicted .evicted).resident (evicted .evicted).g.coreKey, ((evicted .evicted).group j).slot ≠ 15) ∧
    (evicted .evicted).g.budget ≤ (evicted .evicted).poolFree (partKey (evicted .evicted).g.die (evicted .evicted).g.core 15) ∧
    ((evicted .migrating).group 2).status = .migrating ∧ (evicted .migrating).eng.deliveries = [] ∧ (evicted .migrating).teamGids sregs.g.teamKey = [2] := by decide
theorem test_restore_value : after (.groupRestore 2 0 0 15) (evicted .migrating) (fun t => t.g.slot) = some 0 := by decide +kernel

namespace Sys2Proof.Tests
/-- A steered grid whose group waits at the site of a cut, or with every lane at a JOIN. -/
def theCut : SiteOp := { id := 9, cls := 2, key := 0, gid := 2, lane := 0, kind := 3, obj := 0, issue := 1, commutes := false }
def roundOf (ops : List SiteOp) : State :=
  let s := onLaunch (onG sregs (fun g => { g with joining := if ops.isEmpty then [(L, 0x40)] else [], subs := [] })) (fun l => { l with mode := 2 })
  s.setGrid s.g.grid { s.grid s.g.grid with steer := { lclock := 6, ops } }
/-- Groups 2 and 5 of a team wait at two barriers, each for the other; `then_` is group 5's RETIRED count at the last build, plus 1. -/
def theBar (k : Nat) (s : State) : Group := { s.g with status := .running, num := k, slot := k, retired := 3, wake := some { cond := .bar k 0 } }
def theCycle : List (WNode × Nat) := [((2, false), 1), ((5, false), 1)]
def cyclic (then_ : Nat) : State :=
  let s := onTeam sregs (fun t => { t with gids := [2, 5], bars := ⟨[(0, { arrived := [2] }), (1, { arrived := [5] })]⟩ })
  let s := (s.setGroup 2 (theBar 0 s)).setGroup 5 (theBar 1 s)
  { s with host := { s.host with retiredThen := ⟨[(2, 4), (5, then_)]⟩ } }
def calmOk (s : State) : Bool :=
  (FMap.wf {} s.groups && (s.grid s.g.grid).launch.mode == 2 && (s.grid s.g.grid).status == .running && !(s.grid s.g.grid).steer.resolving && s.quiescent s.g.grid) &&
    s.mem.feWaits.isEmpty && decide ((s.grid s.g.grid).launch.teams ≤ (s.grid s.g.grid).next) &&
    s.groups.cells.all (fun c => c.2.status != .draining && c.2.wake.isNone) && teamsOk s s.g.grid && (s.grid s.g.grid).stopping == false &&
    (s.grid s.g.grid).ending == none && s.isFrozen 8195 == false
end Sys2Proof.Tests

theorem test_round : (∀ l ∈ [[theCut], []], calmOk (roundOf l) = true ∧ (((roundOf l).grid sregs.g.grid).steer.ops = l)) ∧
    ((roundOf []).grid sregs.g.grid).launch.doneaddr = 0 ∧ (roundOf []).cycles = [] ∧ sregs.quiescent sregs.g.grid = false ∧ (sregs.grid sregs.g.grid).steer.resolving = false ∧
    (∀ n ∈ [4, 3], (cyclic n).cycles = [theCycle]) ∧ (∀ x ∈ theCycle, (cyclic 4).host.retiredThen.get 0 x.1.1 = ((cyclic 4).group x.1.1).retired + 1) ∧
    (¬ ∀ x ∈ theCycle, (cyclic 3).host.retiredThen.get 0 x.1.1 = ((cyclic 3).group x.1.1).retired + 1) ∧ (cyclic 4).host.deadlocks = [] := by decide
/-- What `calmOk` says of each group it says of every group number. -/
theorem test_round_groups : ∀ l ∈ [[theCut], []], ∀ k, ((roundOf l).group k).grid = sregs.g.grid → ((roundOf l).group k).status ≠ .draining ∧ ((roundOf l).group k).wake = none := by
  intro l hl k _
  simp only [List.mem_cons, List.mem_nil_iff, or_false] at hl
  rcases hl with rfl | rfl
  · exact FMap.get_all (m := (roundOf [theCut]).groups) (P := fun g => g.status ≠ .draining ∧ g.wake = none) (by decide) (by decide) k
  · exact FMap.get_all (m := (roundOf []).groups) (P := fun g => g.status ≠ .draining ∧ g.wake = none) (by decide) (by decide) k
theorem test_round_values : after (.roundEnd sregs.g.grid) (roundOf [theCut]) (fun t => t.g.lcut) = some 7 ∧
    after (.roundEnd sregs.g.grid) (roundOf []) (fun t => (t.grid sregs.g.grid).code) = some 1 ∧
    after .waitforBuild (cyclic 4) (fun t => t.reg (obs 0 + 0x200)) = some 1 ∧ after .waitforBuild (cyclic 3) (fun t => t.reg (obs 0 + 0x200)) = some 0 := by decide +kernel

/-! ## Upkeep, paging and boot -/

namespace Sys2Proof.Tests
/-- The line at VA 0x100 is weak, dirty, or cannot be corrected. -/
def theLine : Nat := (wordPa + 0x100) / 64
def lines (bad : Bool) : State :=
  { sregs with mem := { sregs.mem with weakLines := [theLine], dirty := [theLine], badLines := if bad then [theLine] else [] } }
/-- The sweeper of die 7 is at entry 5 of its frame table at VA 0x20000, which names the PTE at VA 0x40018. -/
def sweeping (entry_ pte : Nat) : State :=
  let s := withBar (pokeAt (pokeAt sregs 0x20028 8 entry_) 0x40018 8 pte) [(0x37010, wordPa + 0x20000), (0x37018, 2 ^ 16 + 4096)]
  { s with xlat := { s.xlat with sweep := ⟨[(7, 5)]⟩, coldq := ⟨[(7, [9, 8])]⟩ } }
def theFrame : Nat := 7 * 2 ^ 36 + 5 * 65536
/-- Requests of die 0: two that the driver sees, and one of a delegated address space; a group waits for page 5. -/
def paging : State :=
  let s := onG sregs (fun g => { g with wake := some { cond := .page 0 [5] } })
  { s with xlat := { s.xlat with delegated := [3], reqs := [{ asid := 3, page := 1, kind := 0, die := 0, stage := 1, dele := true }, { asid := 0, page := 5, kind := 1, die := 0, stage := 1 }, { asid := 1, page := 5, kind := 0, die := 0, stage := 2 }] } }
/-- A firmware image of version 1 with an empty body, signed by the P-256 key of RFC 6979 A.2.5 (the signature is computed
outside Lean), and the fuses that fit it. -/
def theKey : Nat := 0x60fed4ba255a9d31c961eb74c6356d68c049b8923b61fa6ce669622e60f29fb67903fe1008b8bc99a41ae9e95628bc64f2f1b20c2d7e9f5177a3c294d4462299
def theSig : Nat := 0xefd48b2aacb6a8fd1140dd9cd45e81d69d2c877b56aaf991c34d0ea84eaf3716b9a2c8fede9e70cf2455591628ba33ccadccdb7dbcb94cbc9a6c60082ee5462e
def image : List Byte := bytesOfNat 4 0x39504857 ++ bytesOfNat 4 1 ++ bytesOfNat 4 0 ++ Sha.sha256 [] ++ (bytesOfNat 64 theSig).reverse ++
  (bytesOfNat 64 theKey).reverse ++ List.replicate 84 0
def fused : Boot := { primary := image, minver := 1, roothash := bigNat (Sha.sha256 (bytesOfNat 64 theKey).reverse) }
def booting (n : Nat) : State := withBar sregs [(8, n)]
end Sys2Proof.Tests

theorem test_upkeep : (∀ b ∈ [true, false], channelOf (theLine * 64) = some (512 + lpddrChannel (wordPa + 0x100)) ∧ (lines b).badByte (theLine * 64) = b ∧
      theLine ∈ (lines b).mem.weakLines ∧ theLine ∈ (lines b).mem.dirty) ∧ theLine ∉ sregs.mem.weakLines ∧ theLine ∉ sregs.mem.dirty ∧ sregs.badByte (theLine * 64) = false ∧
    sregs.resident 0 ≠ [] ∧ sregs.resident 1 = [] ∧ (sregs.quad 8191).duty ≤ 12 ∧ sregs.host.plimit = 4400 ∧
    ([(8191, 1)] : List (Nat × Nat)).find? (fun x => x.1 == 8191) = some (8191, 1) := by decide
theorem test_sweep : (∀ p ∈ [theFrame + 0x1705, theFrame + 0x1F05], let s := sweeping (wordPa + 0x40018 + 1) p
      s.reg 0x37018 / 2 ^ 16 % 2 = 1 ∧ (s.xlat.coldq.get [] 7).length < min (s.reg 0x37018 % 2 ^ 16) 8192 ∧ s.xlat.sweep.get 0 7 = 5 ∧
      little (fun k => s.newest (s.reg 0x37010 / 2 ^ 16 % 2 ^ 36 * 65536 + 8 * 5 + k)) 8 = wordPa + 0x40018 + 1 ∧
      little (fun k => s.newest (wordPa + 0x40018 + k)) 8 = p ∧ pteV p = true ∧ pteLeaf p = true ∧ badLeaf 0 p = false ∧ pteRes p = 0 ∧ pteFrame p = theFrame) ∧
    (theFrame + 0x1F05) / 2 ^ 11 % 2 = 1 ∧ (theFrame + 0x1705) / 2 ^ 11 % 2 = 0 ∧ (wordPa + 0x40018 + 1) / 2 ^ 3 % 2 ^ 49 * 8 = wordPa + 0x40018 ∧
    (wordPa + 0x40018 + 1) / 2 % 2 ^ 2 = 0 ∧ (wordPa + 0x40018 + 1) / 2 ^ 52 = 0 ∧ (wordPa + 0x40018) % 2 ^ 16 < 4096 ∧
    (∀ x ∈ sregs.xlat.tlbs.cells, ∀ y ∈ x.2, y.pteAddr = wordPa + 0x40018 → y.size = 16) ∧ (wordPa + 0x40018 + 1) % 2 = 1 ∧ (wordPa + 0x40018 + 3) / 2 % 2 = 1 ∧ sregs.xlat.coldq.get [] 7 = [] ∧ FMap.wf [] sregs.xlat.tlbs = true := by decide
theorem test_sweep_values : after (.sweepVisit 7) (sweeping (wordPa + 0x40018 + 1) (theFrame + 0x1F05)) (fun t => t.newestN (wordPa + 0x40018) 8) = some (theFrame + 0x1705) ∧
    after (.sweepVisit 7) (sweeping (wordPa + 0x40018 + 1) (theFrame + 0x1705)) (fun t => (t.xlat.coldq.get [] 7).sum) = some 22 ∧
    after (.sweepVisit 7) (sweeping (wordPa + 0x40018 + 3) (theFrame + 0x1705)) (fun t => (t.xlat.coldq.get [] 7).sum) = some 17 := by decide +kernel
theorem test_paging : (paging.xlat.reqs.find? (fun r => r.die == 0 && r.stage == 1 && !r.dele) = some { asid := 0, page := 5, kind := 1, die := 0, stage := 1 }) ∧
    pagesOk paging 0 ∧ (∀ r ∈ sregs.xlat.reqs, (r.die == 0 && r.stage == 1 && !r.dele) = false) ∧ (∀ o ∈ paging.eng.ops, o.kind ≠ .pgreq) ∧
    FMap.wf {} paging.groups = true ∧ waitsPage paging 2 0 5 ∧ ((0x8000000000050000 : DWord).toNat % 2 ^ 16 = 0 ∧ (0x8000000000050000 : DWord).toNat / 2 ^ 16 % 2 ^ 40 = 5 ∧
    (0x8000000000050000 : DWord).getLsbD 63 = true) ∧ ¬ recovering paging ∧ sliceWaitsPage (onG paging (fun g => { g with a := { g.a with wait := .page 0 [5] } })) 2 0 5 ∧ 3 ∈ paging.xlat.delegated ∧ 0 ∉ paging.xlat.delegated ∧ (∀ r ∈ paging.xlat.reqs, ¬ (r.asid = 0 ∧ r.page = 6)) :=
  ⟨by decide, ⟨by decide, by decide⟩, by decide, by decide, by decide, ⟨_, _, rfl, rfl, by decide⟩, by decide, fun h => absurd h.1 (by decide), ⟨_, rfl, by decide⟩, by decide, by decide, by decide⟩
theorem test_paging_values : after (.pinqRead 0) paging (fun t => (t.xlat.reqs.map (·.stage)).sum) = some 5 ∧
    after (.pindoneWrite 0 0x8000000000050000) paging (fun t => t.xlat.failed.length) = some 1 ∧
    after (.pindoneWrite 0 0x50000) paging (fun t => t.xlat.failed.length + 10 * t.xlat.reqs.length) = some 20 := by decide
theorem test_image : imageFault fused image = 0 ∧ imageFault { fused with minver := 2 } image = 4 := by decide +kernel
theorem test_image_faults : imageFault { fused with roothash := 0 } image = 3 ∧ imageFault fused (image.set 172 1) = 1 ∧ imageFault fused (image.set 107 0) = 2 := by
  decide +kernel
theorem test_boot : (∀ n ∈ [1, 2, 3, 4], stage (booting n) = n) ∧ imageFault {} ({} : Boot).primary ≠ 0 ∧ imageFault {} ({} : Boot).backup ≠ 0 ∧
    FMap.wf none (booting 3).host.bar0 = true ∧ FMap.wf 0 sregs.mem.base = true ∧ FMap.wf [] sregs.mem.vers = true ∧ (1 : Nat) ≠ 0 := by decide
theorem test_boot_values : after .bootStageChange (booting 3) (fun t => t.reg 8) = some 4 ∧ after .bootStageChange (booting 3) (fun t => t.reg 0x4000) = some 0x8000000007 ∧
    after .bootStageChange (booting 1) (fun t => t.reg 8) = some 0x111 := by decide

/-! ## The Assay engine and writes of registers -/

namespace Sys2Proof.Tests
/-- A record of a steered launch at PA `wordPa` + 0x800, and a control block at 0x8000 of the window that names it: one
range of a page at VA 0x1000, three prefix entries at VA 0x600, and a result area at VA 0x2000. -/
def steerRecord : Nat := record + 2 * 2 ^ 208
def theBlock : List Byte := bytesOfNat 8 (wordPa + 0x800) ++ bytesOfNat 8 0x600 ++ bytesOfNat 4 3 ++ bytesOfNat 4 1 ++ bytesOfNat 1 8 ++ bytesOfNat 7 0 ++
  bytesOfNat 4 9 ++ bytesOfNat 4 1 ++ bytesOfNat 8 0x2000 ++ bytesOfNat 8 96 ++ bytesOfNat 8 0 ++ bytesOfNat 8 0x1000 ++ bytesOfNat 8 4096
def going : State :=
  let s := engines (pokeAt sregs 0x800 128 steerRecord)
  withBar { s with mem := { s.mem with scratch := s.mem.scratch.setMany 0 (window s + 0x8000) theBlock } } [(0x2000, 0x80)]
/-- An engine whose run has ended: it digests 8 bytes at VA 0x1000 and reports at VA 0. -/
def assayed (f : Assay → Assay) (steer : Steer) : State :=
  let s := engines sregs
  let s := { s with assay := f { phase := .ended, gid := s.g.grid, rec_ := some steerRecord, ranges := [(0x1000, 8)], result := 0, rcap := 0x1000, soff := 0x1000, runs := 1, wsize := 8, budget := 9 } }
  s.setGrid s.g.grid { s.grid s.g.grid with status := .done, code := 0, steer }
def theMark : List Byte := Sha.chunked ((List.range 8).map (fun i => sregs.newest (sregs.at 0 (wordPa + 0x1000 + i))))
def theChoice : Choice := { cls := 1, cands := [3, 4], idx := 0, entry := 0 }
def chose : Steer := { taken := [theChoice], feet := ⟨[(3, some { w := [1] })]⟩ }
theorem assay_page {s : State} {l : Launch} {a : Acc} {va pa : Nat} (hr : (List.range 64).all (fun i => s.reg (0x4000 + 16 * i) % 2 == 0) = true)
    (h : (canonical va && match s.tlbFind 4098 l.asid va with
      | none => false
      | some e => permitted a e.pte && pteTier e.pte == 1 && pteWorld e.pte == false && pteRes e.pte == 0 && pteD e.pte &&
          pa == pteFrame e.pte + va56 va % 2 ^ e.size) = true) : assayPage s l a va pa 0 :=
  fun u hx _ hi => steady_of hx (secure_of fun i h64 => by rw [hi _ (by omega) (by unfold isCounter; omega)]; exact noRegions _ hr i h64) h
end Sys2Proof.Tests

theorem test_assay_go : going.assay.phase = .idle ∧ 0x8000 ≤ going.reg 0x2000 % 2 ^ 12 * 256 ∧ SmallBlock (controlBlock going) (wordPa + 0x800) 0x600 3 1 8 9 0x2000 96 0x1000 4096 ∧
    tierOf (wordPa + 0x800) = .lpddr ∧ going.secureAt (wordPa + 0x800) = false ∧ (∀ i < 128, going.badByte (going.at 0 (wordPa + 0x800 + i)) = false) ∧
    (let l := parseLaunch (little (fun k => going.newest (going.at 0 (wordPa + 0x800 + k))) 128)
     l.mode = 2 ∧ assayPage going l .load 0x1000 (wordPa + 0x1000) 0 ∧ assayPage going l .store 0x2000 (wordPa + 0x2000) 0 ∧ assayPage going l .load 0x600 (wordPa + 0x600) 0) ∧
    going.launchCode (little (fun k => going.newest (going.at 0 (wordPa + 0x800 + k))) 128) = 0 ∧ (going.grids.cells.filter (fun c => c.2.inStore)).length < 4096 ∧
    (∀ i < 6, going.badByte (going.at 0 (wordPa + 0x600 + i)) = false) ∧ sregs.reg 0x2000 % 2 ^ 12 * 256 < 0x8000 :=
  ⟨by decide, by decide, ⟨by decide +kernel, by decide +kernel, by decide +kernel, by decide +kernel, by decide +kernel, by decide +kernel, by decide +kernel, by decide +kernel, by decide +kernel, by decide +kernel, by decide +kernel⟩, by decide,
   secure_of (noRegions _ (by decide)), by decide +kernel, ⟨by decide +kernel, assay_page (by decide) (by decide +kernel), assay_page (by decide) (by decide +kernel), assay_page (by decide) (by decide +kernel)⟩,
   by decide +kernel, by decide, by decide, by decide⟩

theorem assay_store {s u : State} (ht : s.xlat.tlbs.get [] 4098 = [{ asid := 0, va := 0, size := 16, pte := wordPte false, pteAddr := 0 }]) (hx : u.xlat = s.xlat)
    (hs : ∀ pa, u.secureAt pa = false) (root o : Nat) (ho : o < 2 ^ 16) : steadily u 4098 root 0 .store (0 + o) (wordPa + o) 0 := by
  refine steady_of hx (hs _) ?_
  have h1 : o / 2 ^ 55 = 0 := Nat.div_eq_of_lt (by omega)
  have h2 : o % 2 ^ 56 = o := Nat.mod_eq_of_lt (by omega)
  have h3 : o / 2 ^ 16 = 0 := Nat.div_eq_of_lt ho
  have h4 : o % 2 ^ 16 = o := Nat.mod_eq_of_lt ho
  have hc : canonical (0 + o) = true := by rw [Nat.zero_add]; unfold canonical; rw [h1]; rfl
  have hf : s.tlbFind 4098 0 (0 + o) = some { asid := 0, va := 0, size := 16, pte := wordPte false, pteAddr := 0 } := by
    unfold State.tlbFind va56; rw [ht, Nat.zero_add, h2]
    simp only [List.find?, h3]; rfl
  have h6 : (permitted .store (wordPte false) && pteTier (wordPte false) == 1 && pteWorld (wordPte false) == false && pteRes (wordPte false) == 0 && pteD (wordPte false)) = true := by decide
  have h5 : pteFrame (wordPte false) = wordPa := by decide
  rw [hc, hf]; simp only [Bool.true_and]; rw [h6, h5]; unfold va56; rw [Nat.zero_add, h2, h4]; simp
theorem test_assay_end : (∀ p ∈ [AssayPhase.running, .ended, .checking], (assayed (fun a => { a with phase := p }) {}).assay.phase = p) ∧
    ((assayed id {}).grid sregs.g.grid).status = .done ∧ ((assayed id {}).grid (assayed id {}).assay.gid).code ≠ 2 ∧ (assayed (fun a => { a with runs := 2 }) {}).assay.runs ≠ 1 ∧
    (let s := (assayed id {}).setGrid sregs.g.grid { sregs.grid sregs.g.grid with status := .done, code := 1 }
     s.assay.runs = 1 ∧ (s.grid s.assay.gid).code = 1 ∧ (s.grid s.assay.gid).flags / 2 % 2 = 0) := by decide
theorem test_touchmark_new : let s := assayed (fun a => { a with abort := true }) chose
    s.assay.abort = true ∧ theMark ∉ s.assay.tms ∧ s.runRecord.entries = [0] ∧ 48 * 1 + 8 ≤ s.assay.soff ∧ s.assay.soff ≤ 2 ^ 16 ∧ s.assay.result % 2 ^ 16 = 0 ∧ theMark.length = 32 ∧
    assayPage s (parseLaunch steerRecord) .load 0x1000 (wordPa + 0x1000) 0 ∧ (∀ i < 8, s.badByte (s.at 0 (wordPa + 0x1000 + i)) = false) ∧ (parseLaunch steerRecord).asid = 0 ∧
    (∀ o < 2 ^ 16, ∀ u : State, u.xlat = s.xlat → u.host.secure = s.host.secure → (∀ i, ¬ isCounter i → u.reg i = s.reg i) → steadily u 4098 (parseLaunch steerRecord).root 0 .store (0 + o) (wordPa + o) 0) ∧
    (∀ i < 2 ^ 16, ∀ j < 2 ^ 16, s.at 0 (wordPa + i) = s.at 0 (wordPa + j) → i = j) :=
  ⟨by decide, by decide, by decide, by decide, by decide, by decide, by decide +kernel, assay_page (by decide) (by decide +kernel), by decide, by decide +kernel,
   fun o ho _ hx _ hr => assay_store (s := assayed (fun a => { a with abort := true }) chose) (by decide) hx (fun _ => secure_of fun i h64 => by rw [hr _ (by unfold isCounter; omega)]; exact noRegions _ (by decide) i h64) _ o ho,
   by simp only [at_of (show (assayed (fun a => { a with abort := true }) chose).hashed 0 = true by decide)]; omega⟩
theorem test_touchmark_old : (let s := assayed (fun a => { a with tms := [theMark] }) {}
     s.assay.abort = false ∧ theMark ∈ s.assay.tms ∧ s.assay.stack = [] ∧ s.assay.w0 ≤ s.assay.j ∧ (s.grid s.assay.gid).steer.taken.length ≤ s.assay.w0) ∧
    (let s := assayed (fun a => { a with tms := [theMark], snaps := ⟨[(0, some { at_ := 3 })]⟩ }) chose
     theMark ∈ s.assay.tms ∧ s.assay.stack = [] ∧ 0 < s.assay.wsize ∧ s.assay.j ≤ s.assay.w0 ∧ s.assay.runs < s.assay.budget ∧ (s.grid s.assay.gid).steer.taken.length = s.assay.w0 + 1 ∧
     (s.grid s.assay.gid).steer.taken[s.assay.w0]? = some theChoice ∧ theChoice.idx = 0 ∧ theChoice.cands.length = 2 ∧
     theChoice.cands.map ((s.grid s.assay.gid).steer.feet.get none) = [some { w := [1] }, none] ∧ s.assay.snaps.get none 0 = some { at_ := 3 }) :=
  ⟨⟨rfl, List.mem_singleton.mpr rfl, rfl, by decide, by decide⟩, List.mem_singleton.mpr rfl, rfl, by decide, by decide, by decide, by decide, by decide, by decide, by decide, by decide, by decide⟩
theorem test_assay_values : after .assayGo going (fun t => (t.assay.gid, t.reg 0x2010).2) = some (2 ^ 63 + 2 ^ 24) ∧
    after .assayAbort (assayed (fun a => { a with phase := .checking }) {}) (fun t => t.reg 0x2010 % 256) = some 5 ∧
    after .assayTouchmark (assayed (fun a => { a with tms := [theMark], snaps := ⟨[(0, some { at_ := 3 })]⟩ }) chose) (fun t => t.assay.runs) = some 2 ∧
    after .assayTouchmark (assayed (fun a => { a with tms := [theMark] }) {}) (fun t => t.reg 0x2010 % 256) = some 0 := by decide +kernel
/-- The hypotheses on registers' offsets at their bounds, and on who writes. -/
theorem test_register_write : mayWrite base true 0x4000 ∧ mayWrite base false 0x2000 ∧ ¬ recovering base ∧ secureTarget 0x4000 ∧ 0x4000 % 8 = 0 ∧ recovering (booting 0x201) ∧
    (127 < 128 ∧ 15 < 16 ∧ 3 < 4 ∧ 0x83FF < 0x8400 ∧ 63 < 64 ∧ 7 < 8 ∧ 13 < 14) ∧ (1 : DWord).toNat % 4 = 1 ∧
    regBit (withBar base [(0x1800, 1)]) 0x1800 0 = true ∧ regBit base 0x1800 63 = false ∧ FMap.wf {} base.groups = true := by
  have h : ¬ recovering base := fun h => absurd h.1 (by decide)
  refine ⟨.inl rfl, .inr ⟨h, ?_⟩, h, .inl (by decide), by decide, ⟨by decide, by decide⟩, by decide, by decide, by decide, by decide, by decide⟩
  unfold secureTarget; decide
theorem test_register_values : after (.registerWrite false 0x2000 0xFFFFFFFFFFFFFFFF) base (fun t => t.reg 0x2000) = some 0xFFF ∧
    after (.registerWrite false (0x90000 + 8 * 0x83FF) 7) base (fun t => t.reg (0x90000 + 8 * 0x83FF)) = some 7 ∧
    after (.registerWrite true (0x4008 + 16 * 63) 0xFFFFFFFFFFFFFFFF) base (fun t => t.reg (0x4008 + 16 * 63)) = some 0xFFFFFFFFF0000 ∧
    after (.registerWrite false 0x4000 7) base (fun t => t.reg 0x4000 + t.host.monlog.length) = some 1 ∧
    after (.registerWrite false (0xB0018 + 32 * 4095) 5) base (fun t => t.net.rkeys.get 0 4095) = some (5 * 2 ^ 192) ∧
    after (.registerWrite false 0x1008 0) (withBar base [(0x1800, 1)]) (fun t => t.reg 0x1800 + t.host.msix.length) = some 1 := by decide

/-! ## Links, ports and nodes -/

namespace Sys2Proof.Tests
def tx (n : Nat) : TxFlit := { seq := n, ty := 1, payload := [] }
/-- Port 15 with a PSTAT, which connects to node 15. -/
def link (pstat_ : Nat) (x : Port) : State :=
  let s := { sregs with host := { sregs.host with podNodes := 16, ports := sregs.host.ports.set {} 15 x } }
  withBar s [(0x20000 + 0x40 * 15, pstat_)]
def naking (n : Nat) : Port := { seq := 7, replay := [tx 4, { tx 5 with replays := n }, tx 6], xmit := 2 ^ 32 - 3, held := some 5 }
def flit (seq kg : Nat) (tagOk : Bool) : Flit := { seq, xmit := 9, kg, ty := 1, ackseq := 4, payload := [], tagOk }
def receiving (since : Nat) : Port := { naking 0 with rxGen := 5, rxSeq := 3, rxSince := since }
/-- Accesses of each kind to node 15 are in flight, and a delivery relayed by it. -/
def busyLink (pstat_ fails : Nat) : State :=
  let s := withBar (link pstat_ { fails }) [(0x20008 + 0x40 * 15, 1)]
  { s with mem := { s.mem with fabric := [0, 1, 2].map (fun k => { access k with id := 9 + k, node := 15 }) }, eng := { s.eng with deliveries := [{ delivery with relay := 16 }] } }
def loadLink (pstat_ fails : Nat) : State :=
  { busyLink pstat_ fails with mem := { sregs.mem with fabric := [{ access 0 with node := 15 }] } }
/-- The same in no pod. -/
def alone (s : State) : State := { s with host := { s.host with podNodes := 0 } }
theorem plain_of {s : State} (h : (FMap.wf {} s.groups && decide ((s.mem.fabric.map (·.id)).Nodup) && decide ((s.eng.deliveries.map (·.id)).Nodup) && s.eng.mcasts.isEmpty &&
    s.mem.fabric.all (fun o => decide (o.kind < 3) && (s.grid (s.group o.gid).grid).steer.ops.all (fun x => x.kind != 6))) = true) : plainFabric s := by
  simp only [Bool.and_eq_true, decide_eq_true_eq, List.all_eq_true, List.isEmpty_iff, bne_iff_ne] at h
  exact ⟨h.1.1.1.1, h.1.1.1.2, h.1.1.2, h.1.2, fun o ho => ⟨(h.2 o ho).1, (h.2 o ho).2⟩⟩
end Sys2Proof.Tests

theorem test_flit_send : linkState (link 2 { xmit := 0xF0000000 - 1 }) 15 = 2 ∧ (link 2 { xmit := 0xF0000000 - 1 }).port 15 = { xmit := 0xF0000000 - 1 } ∧ linkState (link 1 {}) 15 ≠ 2 ∧
    2 ^ 32 - 1 ≤ ((link 2 { xmit := 2 ^ 32 - 1 }).port 15).xmit ∧ ((link 2 { replay := List.replicate 511 (tx 4) }).port 15).replay.length < 512 ∧
    512 ≤ ((link 2 { replay := List.replicate 512 (tx 4) }).port 15).replay.length := by
  refine ⟨by decide, by decide, by decide, by decide, ?_, ?_⟩
  · rw [show ((link 2 { replay := List.replicate 511 (tx 4) }).port 15).replay = List.replicate 511 (tx 4) from rfl, List.length_replicate]; decide
  · exact Nat.le_of_eq (by rw [show ((link 2 { replay := List.replicate 512 (tx 4) }).port 15).replay = List.replicate 512 (tx 4) from rfl, List.length_replicate])
theorem test_nak : (∀ n ∈ [6, 7], (naking n).replay.dropWhile (fun f => f.seq != 5) = [{ tx 5 with replays := n }, tx 6] ∧ ((naking n).replay.map (·.seq)).Nodup ∧
      (naking n).xmit + 2 < 2 ^ 32 ∧ (link 2 (naking n)).port 15 = naking n ∧ (naking n).replay.length ≤ 512) ∧ 7 ≤ ({ tx 5 with replays := 7 } : TxFlit).replays ∧
    (∀ f ∈ [{ tx 5 with replays := 6 }, tx 6], ¬ 7 ≤ f.replays) ∧ (naking 6).replay.dropWhile (fun f => f.seq != 9) = [] ∧ (naking 0).held = some 5 ∧ ({} : Port).held = none := by decide
theorem test_flit_receive : linkState (link 2 (receiving 4096)) 15 = 2 ∧ (link 2 (receiving 4096)).port 15 = receiving 4096 ∧
    (0 < (receiving 4096).rxGen ∧ (flit 3 0 true).kg % 4 = ((receiving 4096).rxGen + 3) % 4 ∧ 4096 ≤ (receiving 4096).rxSince) ∧ ¬ 4096 ≤ (receiving 4095).rxSince ∧
    ((flit 3 1 false).tagOk = false ∧ (flit 3 3 true).kg % 4 = ((receiving 0).rxGen + 2) % 4 ∧ (flit 2 1 true).seq ≠ (receiving 0).rxSeq) ∧
    (flit 3 2 true).kg % 4 = ((receiving 0).rxGen + 1) % 4 ∧ (flit 3 1 true).kg % 4 = (receiving 0).rxGen % 4 ∧
    (∀ q ∈ [2, 3], ∀ k ∈ [0, 1, 2], ¬ ((flit q k true).tagOk = false ∨ (flit q k true).kg % 4 = ((receiving 0).rxGen + 2) % 4 ∨ ((receiving 0).rxGen = 0 ∧ (flit q k true).kg % 4 = 3))) := by decide
theorem test_link_values : after (.flitSend 15 3 [7]) (link 2 { xmit := 0xF0000000 - 1 }) (fun t => t.reg 0x203C0 / 2 ^ 40) = some 1 ∧
    after (.nakReceive 15 5) (link 2 (naking 7)) (fun t => linkState t 15 + 10 * retrains t 15 + 100 * replays t 15) = some 211 ∧
    after (.keyswap 15) (link (2 + 2 ^ 40) (naking 0)) (fun t => (t.port 15).xmit + 10 * (t.port 15).txGen + 100 * (keydue t 15).toNat) = some 12 ∧
    after (.flitReceive 15 (flit 3 0 true)) (link 2 (receiving 4096)) (fun t => linkState t 15) = some 1 ∧
    after (.flitReceive 15 (flit 3 2 true)) (link 2 (receiving 0)) (fun t => (t.port 15).rxGen + 10 * (t.port 15).replay.length) = some 26 ∧
    after (.flitReceive 15 (flit 2 2 true)) (link 2 (receiving 9)) (fun t => (t.port 15).rxGen + 10 * (t.port 15).rxSince + 100 * (t.port 15).naks.length) = some 106 := by decide
theorem test_ports : (∀ f ∈ [0, 1, 2], ∀ st ∈ [1, 2, 17, 18], linkState (busyLink st f) 15 = st % 16 ∧ nodeOf (busyLink st f) 15 = 15 ∧ ((busyLink st f).port 15).fails = f ∧
      (busyLink st f).reg 0x203C8 % 2 = 1 ∧ retrains (busyLink st f) 15 = st / 16) ∧ inPod (busyLink 2 0) ∧ ¬ inPod (alone (busyLink 17 2)) ∧ linkState (alone (busyLink 17 2)) 15 = 1 ∧
    plainFabric (alone (busyLink 17 2)) ∧ plainFabric (busyLink 17 2) ∧ plainFabric (busyLink 2 0) ∧ plainFabric sregs ∧
    (∀ k ∈ [0, 1, 2], inFlight (busyLink 2 0) 15 { access k with id := 9 + k, node := 15 }) ∧ (link 0 {}).reg 0x203C8 % 2 ≠ 1 ∧ linkState (link 3 {}) 15 = 3 ∧
    (∀ j < 16, nodeOf (link 3 {}) j = 15 → linkState (link 3 {}) j = 0 ∨ linkState (link 3 {}) j = 3) ∧
    (∀ st ∈ [1, 2], ∃ j < 16, nodeOf (busyLink st 0) j = 15 ∧ linkState (busyLink st 0) j = st) ∧ ¬ ∃ j < 16, nodeOf (busyLink 1 0) j = 15 ∧ linkState (busyLink 1 0) j = 2 :=
  ⟨by decide, by unfold inPod; decide, by unfold inPod; decide, by decide, plain_of (by decide), plain_of (by decide), plain_of (by decide), plain_of (by decide), fun k hk => by
    simp only [List.mem_cons, List.mem_nil_iff, or_false] at hk
    rcases hk with rfl | rfl | rfl <;> exact ⟨by decide, by decide, by decide⟩, by decide, by decide, by decide,
    fun st hs => ⟨15, by revert st; decide⟩, by decide⟩
theorem test_port_values : after (.portTrainingComplete 15 false) (loadLink 17 2) (fun t => linkState t 15 + 10 * t.reg (0x20400 + 8 * 15)) = some 23 ∧
    after (.portTrainingComplete 15 false) (busyLink 1 1) (fun t => linkState t 15 + 10 * retrains t 15 + 100 * (t.port 15).fails) = some 11 ∧
    after (.portDown 15) (loadLink 2 0) (fun t => (t.mem.fabric.map (·.failed)).sum + 10 * t.eng.deliveries.length) = some 1 ∧
    after (.nodeResetReport 15) (loadLink 2 0) (fun t => (t.mem.fabric.map (·.failed)).sum + 10 * (t.node 15).epoch) = some 12 ∧
    after (.portDown 15) (alone (loadLink 2 0)) (fun t => linkState t 15 + (t.mem.fabric.map (·.failed)).sum) = some 0 ∧
    after (.nstateReopen 15) (busyLink 1 0) (fun t => t.reg (0x20400 + 8 * 15)) = some 1 ∧ after (.nstateReopen 15) (link 3 {}) (fun t => t.reg (0x20400 + 8 * 15)) = some 0 := by decide +kernel

/-! ## Packets of the Ultra Ethernet engine -/

namespace Sys2Proof.Tests
/-- Command 7 sends 5000 bytes from VA 0x100 to peer 77 by PDC 3; a buffer of 4096 bytes is posted for peer 77 and tag 5 by command 8. -/
def netOp : EngOp := { id := 7, gid := 2, grid := sregs.g.grid, kind := .net, form := 0, started := true, w := [3 * 2 ^ 16, 5000, 0x100, 0, 77, 0, 0, 0] }
def postOp : EngOp := { netOp with id := 8, form := 3, queue := 1, w := [3 * 2 ^ 16, 4096, 0x100, 0, 77, 5, 0, 0] }
def pk (psn : Nat) (f : Packet → Packet := id) : Packet :=
  f { peer := 77, mode := 0, psn, msg := 7, ord := 0, kind := 0, off := 0, len := 8, tag := 5, rkey := 0, roff := 0, rctr := some 4, bytes := [1, 2, 3, 4, 5, 6, 7, 8], authOk := true, supported := true, status := 0,
      pdc := 3, epoch := 6, key := 11 }
def un (psn : Nat) : Unacked := { psn, msg := 7, pkt := pk psn }
/-- Security domain 0 is at epoch 6; the epoch before had key 10. -/
def rx9 : RxPdc := { id := 9, peer := 77, spdc := 3, cum := 4, got := [6], since := 8 }
def netOf (m : NetMsg) (p : Pdc) (l : List (Nat × Nat) := []) : State :=
  let s := withBar (engines (withOps sregs [netOp, postOp])) ([(0x80000, 1 + 2 ^ 4 * 2 + 2 ^ 24 * 3 + 2 ^ 32 * 2), (0x80010, 0), (0x80008, 2 ^ 32 * 65536 + 4096), (0xE0040, 2 ^ 32 + 6)] ++ l)
  { s with net := { s.net with msgs := [{ m with id := 7, pdc := 3 }], pdcs := [{ p with id := 3, peer := 77 }],
                               rx := [rx9], keys := FMap.set (0, 0, none) {} 0 (11, 12, some 10), bufs := [{ op := 8, peer := 77, tag := 5, laddr := 0x100, len := 4096 }] } }
/-- The entry 4095 of the remote key table: 4096 bytes at VA 0x800, read and write. -/
def keyed (flags : Nat) : State :=
  let s := netOf {} {}
  { s with net := { s.net with rkeys := FMap.set 0 {} 4095 (0x800 + 2 ^ 64 * 4096 + 2 ^ 192 * (flags * 2 ^ 16)) } }
theorem net_page {s : State} {root va pa : Nat} {a : Acc} (hr : (List.range 64).all (fun i => s.reg (0x4000 + 16 * i) % 2 == 0) = true)
    (h : (canonical va && match s.tlbFind 4096 0 va with
      | none => false
      | some e => permitted a e.pte && pteTier e.pte == 1 && pteWorld e.pte == false && pteRes e.pte == 0 && pteD e.pte &&
          pa == pteFrame e.pte + va56 va % 2 ^ e.size) = true) : netPage s root 0 a va pa 0 :=
  fun u hx hh _ _ => steady_of hx (secure_of fun i h64 => by
    have := noRegions _ hr i h64
    simpa [State.reg, hh] using this) h
theorem netTurn_of {s : State} {k : Nat} {o : EngOp} {m : NetMsg} {p : Pdc}
    (h : decide (s.eng.ops.find? (fun x => x.id == k) = some o ∧ s.net.msgs.find? (fun x => x.id == k) = some m ∧ s.net.pdcs.find? (fun x => x.id == m.pdc) = some p ∧
      ((s.eng.ops.map (·.id)).Nodup ∧ (s.net.msgs.map (·.id)).Nodup ∧ (s.net.pdcs.map (·.id)).Nodup) ∧ o.kind = .net) = true) : NetTurn s k o m p := by
  obtain ⟨a, b, c, d, e⟩ := of_decide_eq_true h
  exact ⟨a, b, c, d, e⟩
/-- The engine runs, and every byte has its address as its place and is good. -/
theorem netRuns_of {s : State} (h : decide (s.reg 0x80000 % 2 = 1 ∧ s.isFrozen 8192 = false) = true) : running s := by unfold running; exact of_decide_eq_true h
theorem storable_of {s : State} {pa : Nat} {l : List Byte} (h : s.hashed 0 = true) (hr : s.retentionOk (s.stored 0 pa l) = true) : storable s 0 pa l :=
  ⟨fun i _ j _ hij => by simp only [at_of h] at hij; omega, hr⟩
/-- Its VA is not canonical. -/
def farOp : EngOp := { netOp with w := netOp.w.set 3 (2 ^ 24) }
def half : NetMsg := { id := 7, pdc := 3, formed := 1, total := 2 }
def full : NetMsg := { id := 7, pdc := 3, formed := 2, total := 2 }
def pdc3 : Pdc := { id := 3, peer := 77, psn := 9 }
def waiting : Pdc := { pdc3 with mode := 2, unacked := [un 6, un 7, un 9] }
end Sys2Proof.Tests

/-- The last packet of a message goes out, dropped or not, or its page is not mapped; the engine may not run. -/
theorem test_packet_form : NetTurn (netOf half pdc3) 7 netOp half pdc3 ∧ running (netOf half pdc3) ∧ ¬ running (netOf half pdc3 [(0x80000, 0)]) ∧ half.formed < half.total ∧ pdc3.unacked = [] ∧
    NetTurn (netOf half pdc3 [(0x80000, 0)]) 7 netOp half pdc3 ∧
    (∀ x ∈ (netOf half pdc3).eng.ops, x.gid = 2 → x.queue = 0 → 7 ≤ x.id) ∧
    min 4096 (5000 - 4096) = 904 ∧ (0x100 + 4096) % 2 ^ 16 + 904 ≤ 2 ^ 16 ∧ netPage (netOf half pdc3) 0 0 .load (0x100 + 4096) (wordPa + 0x1100) 0 ∧
    goodLine (netOf half pdc3) (wordPa + 0x1100) 0 904 ∧ (netOf half pdc3).reg 0x80010 / 2 ^ 32 % 2 ≠ 1 ∧
    (let s := netOf half pdc3 [(0x80010, 9 + 2 ^ 32 + 77 * 2 ^ 36)]
     NetTurn s 7 netOp half pdc3 ∧ running s ∧ s.reg 0x80010 / 2 ^ 32 % 2 = 1 ∧ s.reg 0x80010 / 2 ^ 36 % 2 ^ 12 = 77 ∧ s.reg 0x80010 / 2 ^ 34 % 4 = 0 ∧ s.reg 0x80010 % 2 ^ 32 = 9) ∧
    (let s := { netOf half pdc3 with eng := { (netOf half pdc3).eng with ops := [farOp, postOp] } }
     NetTurn s 7 farOp half pdc3 ∧ running s ∧ s.translate 4096 0 0 .load (2 ^ 56 + 0x100 + 4096) = (.fault 2, s) ∧
     farOp.w.getD 2 0 + 2 ^ 32 * farOp.w.getD 3 0 + 4096 = 2 ^ 56 + 0x100 + 4096) ∧
    NetTurn (netOf half waiting) 7 netOp half waiting ∧ waiting.mode = 2 :=
  ⟨netTurn_of (by decide), netRuns_of (by decide), fun h => absurd h.1 (by decide), by decide, rfl, netTurn_of (by decide), by decide, by decide, by decide, net_page (by decide) (by decide),
   goodLine_of _ _ _ (by decide), by decide, ⟨netTurn_of (by decide), netRuns_of (by decide), by decide⟩,
   ⟨netTurn_of (by decide), netRuns_of (by decide), by rfl, by decide⟩, netTurn_of (by decide), rfl⟩

namespace Sys2Proof.Tests
def away : List (Nat × Nat) := [(0x90000 + 32 * 77, 5)]
/-- Peer 77 is this package: what it has sent is on its way. -/
def withReply (s : State) (r : NetReply) : State := { s with net := { s.net with replies := [r] } }
def withWire (s : State) (p : Packet) : State := { s with net := { s.net with wire := [p] } }
def waiting0 : Pdc := { pdc3 with unacked := [un 6, un 7, un 9] }
def one7 : Pdc := { pdc3 with unacked := [un 7] }
def rnr (n : Nat) : NetMsg := { full with notReady := true, rnr := n }
theorem away_of {s : State} {r : NetReply} {p : Pdc} (h : s.selfPeer p.peer = false) : answerTaken s s p r := by simp [answerTaken, h]
theorem self_of {s : State} {r : NetReply} {p : Pdc} (h : s.selfPeer p.peer = true) (hr : s.net.replies = [r]) :
    answerTaken s { s with net := { s.net with replies := s.net.replies.erase r } } p r := by simp [answerTaken, h, hr]
theorem pawn_of {s : State} {p : Packet} (h : s.selfPeer p.peer = false) : packetTaken s s p := by simp [packetTaken, h]
theorem pself_of {s : State} {p : Packet} (h : s.selfPeer p.peer = true) (hr : s.net.wire = [p]) :
    packetTaken s { s with net := { s.net with wire := s.net.wire.erase p } } p := by simp [packetTaken, h, hr]
end Sys2Proof.Tests

/-- Acknowledgements of a message's last packet and of an earlier one, and a SACK of PSN 7 with 9 in its bitmap, of which 6 is late. -/
theorem test_acknowledge : NetTurn (netOf full one7 away) 7 netOp full one7 ∧ running (netOf full one7 away) ∧ netOp.form ≠ 2 ∧ full.formed = full.total ∧ answerTaken (netOf full one7 away) (netOf full one7 away) one7 (.ack 3 7) ∧
    (∃ w ∈ one7.unacked, w.psn = 7) ∧ (∀ w ∈ one7.unacked, w.psn = 7 → w.msg = 7) ∧ (∀ w ∈ one7.unacked, w.psn ≠ 7 → w.msg ≠ 7) ∧
    NetTurn (netOf full waiting0 away) 7 netOp full waiting0 ∧ running (netOf full waiting0 away) ∧ (¬ ∀ w ∈ waiting0.unacked, w.psn ≠ 7 → w.msg ≠ 7) ∧ (∀ w ∈ waiting0.unacked, w.psn ≠ 8) ∧
    (let s := withReply (netOf full one7) (.ack 3 7)
     NetTurn s 7 netOp full one7 ∧ running s ∧ answerTaken s { s with net := { s.net with replies := s.net.replies.erase (.ack 3 7) } } one7 (.ack 3 7)) :=
  ⟨netTurn_of (by decide), netRuns_of (by decide), by decide, by decide, away_of (by decide), by decide, by decide, by decide, netTurn_of (by decide), netRuns_of (by decide), by decide, by decide,
   netTurn_of (by decide), netRuns_of (by decide), self_of (by decide) rfl⟩
theorem test_sack : let s := netOf full waiting0 away
    let has (x : Nat) : Bool := decide (2 ^ 31 ≤ past 7 x) || (decide (past 7 x < 64) && BitVec.getLsbD (5 : DWord) (past 7 x))
    NetTurn s 7 netOp full waiting0 ∧ running s ∧ answerTaken s s waiting0 (.sack 3 7 (5 : DWord).toNat) ∧ (∀ w ∈ waiting0.unacked, w.pkt.peer = 77) ∧ has 6 = true ∧ has 7 = true ∧ has 9 = true ∧ has 8 = false ∧
    NetTurn (netOf half waiting0 away) 7 netOp half waiting0 ∧ running (netOf half waiting0 away) ∧
    (∀ w ∈ waiting0.unacked, has w.psn = true → ∀ y, (netOf half waiting0 away).netMsg w.msg = some y → y.formed ≠ y.total ∨ ∃ z ∈ waiting0.unacked, z.msg = w.msg ∧ has z.psn = false) := by
  refine ⟨netTurn_of (by decide), netRuns_of (by decide), away_of (by decide), by decide, by decide, by decide, by decide, by decide, netTurn_of (by decide), netRuns_of (by decide), fun w hw _ y hy => .inl ?_⟩
  have : ∀ w ∈ waiting0.unacked, ∀ y ∈ (netOf half waiting0 away).netMsg w.msg, y.formed ≠ y.total := by decide
  exact this w hw y hy
theorem test_retry : running (netOf full one7 away) ∧ (∀ m ∈ [full, rnr 1, rnr 2], ∀ n ∈ [1, 2], NetTurn (netOf m { one7 with fails := n }) 7 netOp m { one7 with fails := n } ∧
      (netOf m { one7 with fails := n }).net.msgs.filter (fun x => x.pdc == 3) = [m] ∧ running (netOf m { one7 with fails := n })) ∧ (∀ w ∈ one7.unacked, w.msg = 7 ∧ w.pkt.peer = 77) ∧ one7.unacked ≠ [] ∧ pdc3.unacked = [] ∧
    (netOf full one7).reg 0x80000 / 2 ^ 24 % 2 ^ 8 = 3 ∧ (netOf full one7).reg 0x80000 / 2 ^ 32 % 2 ^ 8 = 2 ∧
    answerTaken (netOf full one7 away) (netOf full one7 away) one7 (.notReady 3 7) := by
  refine ⟨netRuns_of (by decide), fun m hm n hn => ?_, by decide, by decide, rfl, by decide, by decide, away_of (by decide)⟩
  simp only [List.mem_cons, List.mem_nil_iff, or_false] at hm hn
  rcases hm with rfl | rfl | rfl <;> rcases hn with rfl | rfl <;> exact ⟨netTurn_of (by decide), by decide, netRuns_of (by decide)⟩
theorem test_send_values : after (.packetForm 7) (netOf half pdc3) (fun t => t.net.wire.length + 10 * (t.net.msgs.map (·.formed)).sum) = some 21 ∧
    after (.packetForm 7) (netOf half pdc3 [(0x80010, 9 + 2 ^ 32 + 77 * 2 ^ 36)]) (fun t => t.net.wire.length + 10 * (t.reg 0x80018)) = some 10 ∧
    after (.ackReceive 3 7) (netOf full one7 away) (fun t => t.reg (counterAt 3)) = some 1 ∧
    after (.sackReceive 3 8 0) (netOf half waiting0 away) (fun t => (t.net.pdcs.flatMap (·.unacked)).length) = some 1 ∧
    after (.rtoExpiry 3) (netOf full { one7 with fails := 1 }) (fun t => t.net.wire.length + 10 * t.reg (counterAt 3)) = some 1 ∧
    after (.rtoExpiry 3) (netOf full { one7 with fails := 2 }) (fun t => t.reg (counterAt 3)) = some 0x0101000000000000 ∧
    after (.rtoExpiry 3) (netOf (rnr 2) one7) (fun t => t.reg (counterAt 3)) = some 0x0201000000000000 := by decide +kernel

/-- Packets that arrive: off, unsupported, not authentic, a duplicate, a send that fits its buffer, one too long, one with none, and RMA writes and reads. -/
theorem test_packet_receive : (let s := netOf {} {} away
      running s ∧ ¬ running sregs ∧ packetTaken s s (pk 4) ∧ (s.net.rx.find? (fun x => x.peer == 77 && x.mode == 0) = some rx9 ∧ rx9.spdc = (pk 4).pdc) ∧
      s.net.rxMsgs = [] ∧ s.net.bufs.filter (fun b => b.peer == 77 && b.tag == 5 && b.taken.isNone) = [{ op := 8, peer := 77, tag := 5, laddr := 0x100, len := 4096 }] ∧
      s.eng.ops.find? (fun x => x.id == 8) = some postOp ∧ (s.net.bufs.map (·.op)).Nodup ∧ s.net.msgs.all (fun x => x.id != 8) = true ∧ 4 ≠ lctr postOp ∧
      (postOp.w.getD 2 0 + 2 ^ 32 * postOp.w.getD 3 0) % 2 ^ 16 + 8 ≤ 2 ^ 16 ∧ storable s 0 (wordPa + 0x100) (pk 4).bytes ∧ (pk 4).bytes.length = (pk 4).len) ∧
    netPage (netOf {} {} away) 0 0 .store 0x100 (wordPa + 0x100) 0 ∧
    (let s := withWire (netOf {} {}) (pk 4)
     s.selfPeer 77 = true ∧ running s ∧ packetTaken s { s with net := { s.net with wire := s.net.wire.erase (pk 4) } } (pk 4) ∧
      s.net.bufs.filter (fun b => b.peer == 77 && b.tag == 6 && b.taken.isNone) = []) ∧
    past rx9.cum (pk 4).psn < 2 ^ 31 ∧ 4 ∉ rx9.got ∧ ¬ past rx9.cum (pk 3).psn < 2 ^ 31 ∧ 6 ∈ rx9.got ∧ (4096 < (pk 4 (fun p => { p with len := 4097 })).len) ∧
    past (2 ^ 32 - 1) 0 = 1 ∧ past 0 (2 ^ 32 - 1) = 2 ^ 32 - 1 := by
  refine ⟨⟨netRuns_of (by decide), fun h => absurd h.1 (by decide), pawn_of (by decide), by decide, by decide, by decide, by decide, by decide, by decide, by decide, by decide,
      storable_of (by decide) (by decide), by decide⟩, net_page (by decide) (by decide),
    ⟨by decide, netRuns_of (by decide), pself_of (by decide) rfl, by decide⟩, by decide, by decide, by decide, by decide, by decide, by decide, by decide⟩
/-- Key 11 of epoch 6 and key 10 of epoch 5 authenticate, and no other. -/
theorem test_authentic : authentic (netOf {} {} away) (pk 4) ∧ authentic (netOf {} {} away) (pk 4 (fun p => { p with epoch := 5, key := 10 })) ∧
    ¬ authentic (netOf {} {} away) (pk 4 (fun p => { p with epoch := 4, key := 10 })) ∧ ¬ authentic (netOf {} {} away) (pk 4 (fun p => { p with key := 10 })) ∧
    ¬ authentic (netOf {} {} away) (pk 4 (fun p => { p with authOk := false })) ∧ ¬ authentic (netOf {} {} (away ++ [(0xE0040, 6)])) (pk 4) := by
  unfold authentic; decide
theorem test_rma : permits (keyed 7) 4095 4088 8 true ∧ permits (keyed 7) 4095 4088 8 false ∧ ¬ permits (keyed 3) 4095 0 8 true ∧ ¬ permits (keyed 7) 4095 4089 8 false ∧
    netPage (keyed 7) 0 0 .store (0x800 + 4088) (wordPa + 0x800 + 4088) 0 ∧ netPage (keyed 7) 0 0 .load (0x800 + 4088) (wordPa + 0x800 + 4088) 0 ∧
    goodLine (keyed 7) (wordPa + 0x800 + 4088) 0 8 ∧ storable (keyed 7) 0 (wordPa + 0x800 + 4088) (pk 4).bytes ∧ remoteKey (keyed 7) 4095 2 = 0 ∧ remoteKey (keyed 7) 4095 0 = 0x800 ∧
    running (keyed 7) ∧ authentic (keyed 7) (pk 4) ∧ (keyed 7).net.rx.find? (fun x => x.peer == 77 && x.mode == 0) = some rx9 ∧
    (let p := pk 4 (fun p => { p with kind := 2, rkey := 4095, roff := 4088 })
     let s := withWire (keyed 7) p
     packetTaken s { s with net := { s.net with wire := s.net.wire.erase p } } p) :=
  ⟨by unfold permits; decide, by unfold permits; decide, by unfold permits; decide, by unfold permits; decide, net_page (by decide) (by decide), net_page (by decide) (by decide),
   goodLine_of _ _ _ (by decide), storable_of (by decide) (by decide), by decide, by decide, netRuns_of (by decide), by unfold authentic; decide, by decide, pself_of (by decide) rfl⟩
theorem test_receive_values : after (.packetReceive (pk 4)) (netOf {} {} away) (fun t => t.newestN (wordPa + 0x100) 2) = some 0x201 ∧
    after (.packetReceive (pk 4)) (netOf {} {} away) (fun t => t.reg (counterAt 3) + t.reg (counterAt 4)) = some 2 ∧
    after (.packetReceive (pk 4 (fun p => { p with len := 4097 }))) (netOf {} {} away) (fun t => t.reg (counterAt 4)) = some 0x0501000000000000 ∧
    after (.packetReceive (pk 4 (fun p => { p with tag := 6 }))) (withWire (netOf {} {}) (pk 4 (fun p => { p with tag := 6 }))) (fun t => t.net.replies.length) = some 1 ∧
    after (.rmaReadRequest (pk 4 (fun p => { p with kind := 2, rkey := 4095, roff := 4088 }))) (withWire (keyed 7) (pk 4 (fun p => { p with kind := 2, rkey := 4095, roff := 4088 })))
      (fun t => t.net.wire.length + 10 * t.net.replies.length) = some 21 ∧
    after (.packetReceive (pk 4 (fun p => { p with epoch := 4 }))) (netOf {} {} away) (fun t => t.reg 0x80018) = some (2 ^ 48) := by decide +kernel
theorem test_sack_and_keys : (netOf {} {}).net.rx.find? (fun x => x.id == 9) = some rx9 ∧ (netOf {} {}).selfPeer 77 = true ∧ (netOf {} {} away).selfPeer 77 = false ∧ rx9.mode ≠ 2 ∧ 8 ≤ rx9.since ∧
    (let s := withBar sregs [(0xE0040 + 128 * 255, 2 ^ 33)]
     regBit s (0xE0040 + 128 * 255) 33 = true) ∧ regBit sregs (0xE0040 + 128 * 255) 33 = false := by decide
theorem test_sack_and_key_values : after (.sackPacketCount 9) (netOf {} {}) (fun t => if t.net.replies = [.sack 3 4 4] then 1 else 0) = some 1 ∧
    after (.keyRoll 255) (withBar sregs [(0xE0040 + 128 * 255, 2 ^ 33)]) (fun t => t.reg (0xE0040 + 128 * 255)) = some (2 ^ 32 + 1) ∧
    after (.keyRoll 0) (netOf {} {} [(0xE0040, 3 * 2 ^ 32 + 6)]) (fun t => if t.net.keys.get (0, 0, none) 0 = (12, 0, some 11) then 1 else 0) = some 1 := by decide

/-! ## The step, and the canonical form -/

namespace Sys2Proof.Tests
/-- The machine at reset with a word, or two, to be fetched next, and the subgroup that issues it. -/
def placed (n w : Nat) : State := State.reset.withFetchWord n w
def whole : Sub := { lanes := Mask.full, pc := 0, since := 1, cand := true }
def issuing (s : State) : State := chosen (begun s []) 2 whole
theorem fetched {u : State} {va w : Nat} (h : (u.fetchWord va).1 = .ok w) : Fetches u va w (u.fetchWord va).2 := by
  simp only [Fetches, ← h]
theorem decodes_of {ε : Type} {x : Except ε (Instr × Nat)} {p : Instr × Nat} (h : (match x with | .ok q => decide (q = p) | .error _ => false) = true) : x = .ok p := by
  match x, h with
  | .ok q, h => rw [of_decide_eq_true h]
/-- The subgroup is within a microprogram of one IADD; the A-slice is ready. -/
def inside : Sub := { lanes := L, pc := 0, micro := some (1, 0), maux := 10 }
def inMicro : State := { onG micros (fun g => { g with subs := [inside] }) with agenda := [.issue 2 0 false] }
def insideNow : Sub := { inside with since := micros.clock + 1, cand := true }
def sliceReady : State :=
  let s := placed 32 0x0E055500
  { s.setGroup 2 { s.group 2 with sliced := true, a := { (s.group 2).a with pc := 0 } } with agenda := [.issue 2 0 true] }
end Sys2Proof.Tests

theorem test_step_candidate : ∀ s ∈ [placed 32 0x0E055500, placed 32 (0x7F * 2 ^ 18), placed 64 0x001000005E10A28C, placed 64 0x0010000050104000], s.powered = true ∧ s.offline = false ∧
    s.agenda = [.issue 2 0 false] ∧ ((begun s []).group 2).offers.find? (fun y => y.pc == 0 && (begun s []).subReady 2 y) = some whole := by decide
/-- A word without extension, one that decodes to nothing, a word and its extension, and such a word of guard p0, which is 0. -/
theorem test_step_fetch : (Fetches (issuing (placed 32 0x0E055500)) 0 0x0E055500 ((issuing (placed 32 0x0E055500)).fetchWord 0).2 ∧ hasExt 0x0E055500 = false ∧
      decodeBytes (bytesOfWord 0x0E055500) = .ok (.mov { guard := 7, d := 21, a := 20 }, 4)) ∧
    (Fetches (issuing (placed 32 (0x7F * 2 ^ 18))) 0 (0x7F * 2 ^ 18) ((issuing (placed 32 (0x7F * 2 ^ 18))).fetchWord 0).2 ∧ hasExt (0x7F * 2 ^ 18) = false ∧
      ∃ r, decodeWords (0x7F * 2 ^ 18) 0 = .error r) ∧
    (let u := issuing (placed 64 0x001000005E10A28C)
     let v := (u.fetchWord 0).2
     Fetches u 0 0x5E10A28C v ∧ hasExt 0x5E10A28C = true ∧ (withWords v 0x5E10A28C v.cur.w1 8).wordLanes 0x5E10A28C ≠ 0 ∧
      Fetches (withWords v 0x5E10A28C v.cur.w1 8) 4 0x00100000 ((withWords v 0x5E10A28C v.cur.w1 8).fetchWord 4).2 ∧
      decodeBytes (bytesOfWord 0x5E10A28C ++ bytesOfWord 0x00100000) = .ok (.iadd { s := true, hold := 1, guard := 7, d := 10, a := 10, b := 12 } { ty := 1 }, 8)) ∧
    (let u := issuing (placed 64 0x0010000050104000)
     let v := (u.fetchWord 0).2
     Fetches u 0 0x50104000 v ∧ hasExt 0x50104000 = true ∧ v.cur.stage = 0 ∧ (withWords v 0x50104000 v.cur.w1 8).wordLanes 0x50104000 = 0) :=
  ⟨⟨fetched (by rfl), by decide, decodes_of (by decide +kernel)⟩, ⟨fetched (by rfl), by decide, _, rfl⟩, ⟨fetched (by rfl), by decide, by decide, fetched (by rfl), decodes_of (by decide +kernel)⟩, fetched (by rfl), by decide, by decide, by decide⟩
theorem test_step_micro : inMicro.powered = true ∧ ((begun inMicro []).group 2).offers.find? (fun y => y.pc == 0 && (begun inMicro []).subReady 2 y) = some insideNow ∧
    ((chosen (begun inMicro []) 2 insideNow).microOps 1)[0]? = some (0x0E10A28C, 0x00100000, true) := by decide
theorem test_step_slice : sliceReady.agenda = [.issue 2 0 true] ∧ (begun sliceReady []).aReady 2 = true ∧
    Fetches (chosenA (begun sliceReady []) 2) 0 0x0E055500 ((chosenA (begun sliceReady []) 2).fetchWord 0).2 := ⟨by decide, by decide, fetched (by rfl)⟩
theorem test_step_stops : ({ State.reset with powered := false }).powered = false ∧ ({ State.reset with offline := true }).offline = true ∧ State.reset.agenda = [] ∧ halts { State.reset with offline := true } ∧
    (Instr.overtemp 0).isInstruction = false := ⟨rfl, rfl, rfl, fun _ => (List.cons_ne_nil _ _).symm, rfl⟩
/-- The first instruction after reset is the one that was placed: its destination, and the address after it. -/
theorem test_step_values : (match step (placed 64 0xFFFFFFFB89200000) with | .next t => some ((t.group 2).subs.map (·.pc)) | _ => none) = some [8] := by decide +kernel
/-- A state of which `CanonicalKept` speaks, with a step from it. -/
theorem test_canonical : Canonical (placed 32 0x0E055500) ∧ (match step (placed 32 0x0E055500) with | .next _ => true | _ => false) = true :=
  ⟨⟨by decide, by decide, by decide, by decide, by decide, by decide, by decide, by decide, by decide, by decide, by decide, by decide⟩, by decide +kernel⟩

/-! ## Well-formedness: an ill-formed term for each check (13 R240: 2 for a field that must be 0, 3 for a value) -/

namespace Sys2Proof.Tests
def refusedWith (l : List (Instr × Nat)) : Bool := l.all (fun p => p.1.wfCode == p.2)
end Sys2Proof.Tests

theorem test_ill_arith : refusedWith [(.iadd {} { ty := 1, na := true }, 2), (.iadd {} { ty := 1, nb := true }, 2), (.iadd {} { ty := 1, nc := true }, 2), (.iadd {} { ty := 1, abs := true }, 2),
    (.iadd {} { ty := 1, rnd := 1 }, 2), (.iadd {} { ty := 1, pd := 1 }, 2), (.iabs { b := 1 } { ty := 1 }, 2), (.iabs {} { ty := 1, c := 1 }, 2), (.iadd { b := 1 } { ty := 1, c := 1 }, 2),
    (.imulh {} { ty := 1, sat := true }, 2), (.iadd {} { ty := 1, imm := 1 }, 2), (.fsqrt {} { ty := 3, nb := true }, 2), (.fadd {} { ty := 3, nc := true }, 2), (.iadd {} { ty := 3 }, 3),
    (.iset {} { ty := 1, pd := 7 }, 3), (.iadd {} { ty := 1, c := 2 }, 3), (.hadd2 {} { ty := 9, c := 1 }, 3), (.dadd { d := 1 } { ty := 11 }, 3), (.dadd { a := 1 } { ty := 11 }, 3), (.dadd { b := 1 } { ty := 11 }, 3),
    (.dfma {} { ty := 11, c := 1 }, 3), (.lea { d := 1 } { ty := 6 }, 3), (.fclass { a := 1 } { ty := 11 }, 3), (.iset { d := 16 } { ty := 1 }, 2), (.iset { d := 6 } { ty := 1 }, 3), (.fset { d := 8 } { ty := 3 }, 3),
    (.dset { d := 8 } { ty := 11 }, 3), (.sel {} { c := 1, pd := 0 }, 2), (.cvt {} { ty := 3, imm := 17 }, 2), (.cvt {} { ty := 0, imm := 1 }, 3), (.cvt {} { ty := 3, imm := 0 }, 3), (.cvt {} { ty := 3, imm := 1, sat := true }, 3),
    (.cvt { d := 1 } { ty := 11, imm := 3 }, 3), (.cvt { a := 1 } { ty := 3, imm := 11 }, 3), (.qnt {} { ty := 12, imm := 1 }, 3), (.dqnt {} { ty := 11, imm := 3 }, 3), (.scle {} { ty := 3 }, 3), (.pack {} { ty := 9, imm := 12 }, 3),
    (.unpk { d := 1 } { ty := 11, imm := 9 }, 3), (.unpk {} { ty := 3, imm := 3 }, 3)] = true := by decide
theorem test_ill_lane : refusedWith [(.nop { hold := 1 }, 2), (.nop { d := 1 }, 2), (.nop { a := 1 }, 2), (.nop { b := 1 }, 2), (.mov { b := 3 }, 3), (.mov { d := 16, b := 1 }, 3), (.mov { a := 16, b := 2 }, 3), (.movi { a := 1 } 0, 2),
    (.movi { b := 1 } 0, 2), (.pset { d := 1 } { c := 1 }, 2), (.pset { a := 1 } { c := 1 }, 2), (.pset { b := 1 } { c := 1 }, 2), (.pset {} { c := 1, imm := 1024 }, 2), (.pset {} { c := 0 }, 3), (.pset {} { c := 1, pd := 7 }, 3),
    (.vote { a := 1 } { c := 1 }, 2), (.vote { b := 1 } { c := 1 }, 2), (.vote {} { c := 1, imm := 256 }, 2), (.vote {} { c := 1, imm := 64 }, 2), (.vote { d := 1 } { c := 1 }, 2), (.vote {} { c := 1, imm := 16, pd := 1 }, 2),
    (.vote {} { c := 0 }, 3), (.vote {} { c := 1, imm := 40, pd := 0 }, 3), (.vote {} { c := 1, pd := 7 }, 3), (.redux { b := 1 } { ty := 1, c := 1 }, 2), (.redux {} { ty := 1, c := 1, imm := 8 }, 2), (.scan {} { ty := 1, c := 1, imm := 16 }, 2),
    (.redux {} { ty := 1, c := 1, rnd := 1 }, 2), (.redux {} { ty := 1, c := 0 }, 3), (.redux {} { ty := 0, c := 1, imm := 6 }, 3), (.redux {} { ty := 0, c := 1 }, 3), (.redux {} { ty := 1, c := 1, imm := 3 }, 3),
    (.fenceW { d := 1 }, 2), (.fenceTm { a := 1, b := 1 }, 2), (.fenceW { b := 1 }, 3), (.fenceTm {}, 3), (.fenceGl { b := 3 }, 3), (.movs { b := 1 }, 2)] = true := by decide
theorem test_ill_memory : refusedWith [(.ld { b := 1 } { width := 2 }, 2), (.ld {} { width := 2, aop := 1 }, 2), (.ld {} { width := 2, rp := 1 }, 2), (.ld {} { width := 2, sgn := true }, 2), (.ld {} { width := 2, fe := 1 }, 3), (.ld {} { space := 1, width := 2, fe := 3 }, 3),
    (.ld { d := 1 } { width := 3 }, 3), (.ld { d := 2 } { width := 4 }, 3), (.ld {} { space := 5 }, 3), (.ld {} { width := 5 }, 3), (.ld { a := 1 } {}, 3), (.st { d := 1 } {}, 2), (.st {} { sgn := true }, 2), (.st {} { space := 4 }, 3), (.st {} { space := 1, fe := 1 }, 3),
    (.st { b := 1 } { width := 3 }, 3), (.ldr { b := 1 } {}, 2), (.ldr {} { rp := 7 }, 3), (.ldr {} { fe := 1 }, 3), (.ldr {} { space := 1 }, 3), (.pref { d := 1 } {}, 2), (.pref { b := 1 } {}, 2), (.pref {} { width := 1 }, 2), (.pref {} { fe := 1 }, 2), (.pref {} { space := 1 }, 3),
    (.atom { d := 1 } { width := 2 }, 2), (.atom {} { width := 2, rp := 1 }, 2), (.atom {} { width := 2, fe := 1 }, 3), (.atom {} { width := 2, aop := 7 }, 3), (.atomf {} { width := 2, aop := 3 }, 3), (.atom { b := 1 } { width := 3 }, 3), (.atom { d := 1 } { width := 3, aop := 8 }, 3),
    (.atom {} { width := 1 }, 3), (.atom {} { space := 3, width := 2 }, 3), (.cas {} { width := 2, aop := 1 }, 2), (.cas { d := 1 } { width := 3 }, 3), (.atld { b := 1 } { width := 2 }, 2), (.atld {} { space := 1, width := 2 }, 3)] = true := by decide
theorem test_ill_branch : refusedWith [(.bra { z := true }, 2), (.join { u := true }, 2), (.exit { off := 1 }, 2), (.jset { u := true }, 2), (.brx {} { rsv := 1 }, 2), (.jmpr {} { n := 1 }, 2), (.ret { off := 1 } {}, 2), (.calli { z := true } {}, 2), (.jmpr {} { a := 1 }, 3),
    (.call {} { a := 1 }, 3), (.bpt { z := true }, 2)] = true := by decide
theorem test_ill_group : refusedWith [(.smov { x := 1 }, 2), (.smov { i := true }, 3), (.smovImm { a := 1, i := true }, 2), (.smovImm {}, 3), (.smovi { a := 1 } 0, 2), (.smovi { x := 1 } 0, 2), (.sadd { x := 64 }, 2), (.sset { d := 1 } { ty := 1 }, 2), (.sset { x := 64 } { ty := 1 }, 2),
    (.sset {} { ty := 1, queue := 1 }, 2), (.sset {} { ty := 1, imm := 1 }, 2), (.sset {} { ty := 1, sub := 6 }, 3), (.sset {} { ty := 1, pred := 7 }, 3), (.sset {} { ty := 3 }, 3), (.ssel {} { pred := 7 }, 3), (.ssel {} { sub := 1 }, 2), (.slea {} { pred := 1 }, 2), (.slea {} { ty := 7 }, 3), (.slea { d := 1 } {}, 3),
    (.slea { a := 1 } {}, 3), (.sld { x := 1 } {}, 2), (.sld {} { aop := 1 }, 2), (.sld {} { rp := 1 }, 2), (.sld {} { width := 2, sgn := true }, 2), (.sld {} { space := 4 }, 3), (.sld {} { width := 4 }, 3), (.sld {} { fe := 1 }, 3), (.sld { a := 1 } {}, 3), (.sld { d := 1 } { width := 3 }, 3), (.sst { d := 1 } {}, 2), (.sst { i := true } {}, 2),
    (.sst { x := 1 } { width := 3 }, 3), (.sbra { d := 1 } 0, 2), (.sloop { a := 1 } 0, 2), (.sread { a := 1 } {}, 2), (.sread {} { ty := 1 }, 2), (.sread {} { imm := 0x17 }, 3), (.sread { d := 1 } { imm := 0x0B }, 3), (.swrite { d := 1 } { imm := 0x11 }, 2), (.swrite {} { imm := 0x10 }, 3), (.swrite { a := 1 } { imm := 0x12 }, 3)] = true := by decide
theorem test_ill_system : refusedWith [(.phase { d := 1 } {}, 2), (.phase {} { sub := 1 }, 3), (.phaseRel {} {}, 3), (.phaseAcq {} { sub := 3 }, 3), (.bar {} { imm := 512 }, 2), (.bar {} { imm := 272 }, 3), (.bar { a := 1 } {}, 2), (.arrive { d := 1 } {}, 2), (.arrive { a := 1 } {}, 3), (.arrive {} { sub := 1 }, 2), (.waitlow { a := 1 } {}, 2),
    (.waitlow { x := 64 } {}, 2), (.waitlow {} { imm := 1 }, 2), (.trigger { x := 1 }, 2), (.waitv {} { sub := 6, ty := 1 }, 3), (.waitv {} { ty := 3 }, 3), (.waitv { a := 1 } { ty := 1 }, 3), (.waitv { d := 1 } { ty := 1 }, 2), (.xacq { d := 1, i := true }, 2), (.xacq {}, 3), (.xrel { i := true, x := 3 }, 3), (.hold { a := 1 } {}, 2), (.hold {} { imm := 256 }, 2),
    (.name { a := 1 }, 2), (.rstv {} { imm := 64 }, 2), (.gang { d := 1 } {}, 2), (.gang {} { queue := 1 }, 2), (.qpush { d := 1 } {}, 2), (.qpush {} { queue := 6 }, 3), (.qpop { a := 1 } {}, 2), (.qpop {} { queue := 6 }, 3), (.aqld { x := 1 } {}, 2), (.aqst { d := 1 } {}, 2), (.aqld {} { aop := 1 }, 2), (.aqld {} { rp := 2 }, 2),
    (.aqst {} { sgn := true }, 2), (.aqld {} { space := 3 }, 3), (.aqld {} { width := 3 }, 3), (.aqld {} { fe := 1 }, 3), (.aqld { a := 1 } {}, 3), (.aqld { d := 4 } {}, 3), (.qslip { x := 64 }, 2), (.mcall { d := 1 } {}, 2), (.mcall {} { parb := 1 }, 2), (.mcall {} { npar := 1, parc := 1 }, 2), (.mcall {} { npar := 2, pard := 1 }, 2), (.mcload { a := 1 } 0, 2),
    (.trap { a := 1, i := true, d := 1 }, 2), (.trap { d := 1 }, 3), (.trap { i := true }, 3), (.trap { i := true, x := 14, d := 1 }, 3), (.trap { i := true, x := 0, d := 7 }, 3), (.rftRetry { d := 1, i := true }, 2), (.rftRetry {}, 3), (.rftNext { i := true }, 3), (.rftJump { i := true, x := 1 }, 3)] = true := by decide
theorem test_ill_engine : refusedWith [(.launch { x := 1 } {}, 2), (.launch {} { pred := 1 }, 2), (.launch {} { sub := 1 }, 3), (.launch { a := 1 } {}, 3), (.launchNb {} { sub := 0 }, 3), (.launchNb {} { sub := 1, pred := 7 }, 3), (.copy { x := 1 } {}, 2), (.copy { d := 1 } {}, 2), (.copy {} { rsv := 1 }, 2), (.copy {} { bsel := 1 }, 2), (.copy {} { gform := 1 }, 2),
    (.copy {} { smode := 1 }, 2), (.copy {} { typea := 1 }, 2), (.copy {} { typeb := 1 }, 2), (.copy {} { acc := 1 }, 2), (.copy {} { form := 1 }, 3), (.copy { a := 57 } {}, 3), (.nctrRd { d := 1 } {}, 3), (.nwait {} { eq := 1 }, 2), (.accz { a := 1 } { typea := 3 }, 2), (.mres {} { gform := 3 }, 3), (.bwait { d := 1 } {}, 2), (.qfence {} { imm := 256 }, 2),
    (.qfence { a := 1 } {}, 2), (.mmaR {} { gform := 0, typea := 12, typeb := 12 }, 3), (.mmaR {} { gform := 1, typea := 3, typeb := 3 }, 3), (.mmaR {} { gform := 1, typea := 11, typeb := 11 }, 3), (.mmaT {} { form := 1, gform := 1, typea := 11, typeb := 11, acc := 1 }, 3), (.mmaR {} { gform := 1, smode := 2, typea := 9, typeb := 9 }, 3),
    (.mmaR {} { gform := 1, smode := 3, typea := 12, typeb := 12 }, 3), (.mmaR {} { gform := 1, typea := 12, typeb := 12, bsel := 1 }, 3), (.mmaT {} { gform := 1, typea := 12, typeb := 12 }, 3), (.accld {} { form := 3, typea := 3 }, 3), (.accld {} { typea := 9 }, 3), (.accst {} { typea := 12 }, 3), (.accz {} { typea := 11, acc := 1 }, 3)] = true := by decide
theorem test_ill_events : refusedWith [(.handlerEnter 32768, 3), (.walkStart 8, 3), (.supersededNotice 2048, 3), (.multicastStoreArrive { mcast with die := 8 }, 3), (.multicastStoreArrive { mcast with off := 2 ^ 26 - 31 }, 3), (.slotTake 256, 3), (.teamDispatch 0 8 0, 3), (.teamDispatch 0 0 256, 3), (.groupRestore 0 8 0 0, 3), (.groupRestore 0 0 256 0, 3),
    (.groupRestore 0 0 0 64, 3), (.overtemp 8, 3), (.sweepVisit 8, 3), (.sampleTick 8 0 0, 3), (.sampleTick 0 256 0, 3), (.sampleTick 0 0 16, 3), (.gaugeSample 8 0 0, 3), (.gaugeSample 0 64 0, 3), (.hostScratchWrite 0x100000 [0], 3), (.hostScratchRead 0xFFFFF 2, 3), (.regionEntryWrite 64 false 0, 3), (.cbudgetWrite 2048 0, 3), (.pinqRead 8, 3),
    (.pindoneWrite 8 0, 3), (.coldqRead 8, 3), (.sampleEnable 8 0, 3), (.ringConfigWrite 8 0 false 0, 3), (.ringConfigWrite 0 4 false 0, 3), (.pselWrite 8 0, 3), (.gaugeConfigWrite 8 0 0, 3), (.gaugeConfigWrite 0 64 0, 3), (.gaugeFreezeWrite 8 true, 3), (.gaugeClear 8, 3), (.mapValidSet 8, 3), (.mapValidClear 8, 3), (.mapLockSet 8, 3), (.mapErrClear 8, 3),
    (.maskWrite 8 0 0, 3), (.maskWrite 0 14 0, 3), (.keyswap 16, 3), (.portRetrainCmd 16, 3), (.portEnable 16 true, 3), (.nstateReopen 16, 3), (.flitSend 16 0 [], 3), (.flitReceive 16 (flit 0 0 true), 3), (.nakReceive 16 0, 3), (.linkRetrain 16, 3), (.portDown 16, 3), (.nodeResetReport 16, 3), (.engineKeyLoad 256 0, 3), (.engineKeynextLoad 256 0, 3),
    (.keyRoll 256, 3), (.mgmtPortReceive 2 0 [], 3), (.registerWrite true 0x100000 0, 3), (.registerWrite true 4 0, 3), (.portTrainingComplete 16 true, 3), (.pagingDelegation 65536 true, 3), (.corePowerGating 2048 true, 3)] = true := by decide
/-- A payload is at most 224 bytes (02 R36). -/
theorem test_ill_flit : (Instr.flitSend 0 0 (List.replicate 225 0)).wfCode = 3 ∧ (Instr.flitSend 0 0 (List.replicate 224 0)).wfCode = 0 := by decide +kernel

/-! ## The assembler and the loader (12 R223, R224, 13 R243 to R246) -/

section
open Horas

/-- A statement of the listing, with its note N30. -/
theorem test_horas_line : parseLine "loop: (p1)  ST.b32!   [v10 + 512], v9  ; N30".toList =
    some { label := some "loop".toList, guard := some (false, 1), mnemonic := "st".toList, suffixes := ["b32".toList], marker := true,
           operands := ["[v10 + 512]".toList, "v9".toList] } ∧
    parseLine "(p7) NOP".toList = none ∧ parseLine (List.replicate 1025 ' ') = none := by decide +kernel
/-- Registers, parameters with a hold bit and memory operands. -/
theorem test_horas_operands : parseOperand "V63*".toList = some (.reg .v 63 true) ∧ parseOperand "%1*".toList = some (.par 1 true) ∧
    parseOperand "[s1 - 4]".toList = some (.mem .s 1 (some (.bin .sub (.num 0) (.num 4)))) ∧ regOf "v64".toList = none ∧
    regOf "oq3".toList = some (.queue, 3) ∧ symOk ["nop".toList] "v1".toList = false ∧ symOk ["nop".toList] "NOP".toList = false := by decide +kernel
/-- C precedence over 64-bit values; division truncates toward zero, and by zero is an error (R243). -/
theorem test_horas_expr : ((parseExpr "1 + 2 * 0x3 << 0b1 | 1".toList).bind (·.eval (fun _ => none))).map (·.v) = some 15 ∧
    ((parseExpr "-7 / 2".toList).bind (·.eval (fun _ => none))).map (·.v.toInt) = some (-3) ∧
    ((parseExpr "7 / (2 - 2)".toList).bind (·.eval (fun _ => none))) = none := by decide +kernel
/-- Reals round RN to FP32 (R243). -/
theorem test_horas_real : ["1.5", "-0.25", "0.1", "3e1", "-inf", "nan", "1e-50", "0.5.5"].map (fun x => parseReal x.toList) =
    [some 0x3FC00000, some 0xBE800000, some 0x3DCCCCCD, some 0x41F00000, some 0xFF800000, some 0x7FC00000, some 0, none] := by decide +kernel
/-- The listing's loop: SLOOP's offset back to `cloop` is −4, from its own word (13). -/
theorem test_horas_branch : (assemble [] [.label ['c'], .code 0xFA910000 0x01000000 true none, .code 0xBB000000 0x2040C9C2 true none,
      .code 0xB9310000 0 true (some (.branch false (.sym ['c'])))] []).map (fun o => o.text.drop 16) =
    some (bytesOfWord 0xB9310000 ++ bytesOfWord 0xFFFFFFFC) := by decide +kernel
/-- A branch to the other section, and W32, are relocated; an address above 32 bits is a load error (R244). -/
theorem test_horas_reloc :
    let o := assemble [] [.code 0x0F800000 0 false (some (.branch true (.sym ['d'])))] [.label ['d'], .items 4 (.lit (.sym ['d'])) 1]
    (o.bind (·.load (fun s => if s = .text then 0x10000 else 0x20000))) =
      some [(0x10000, bytesOfWord 0x0F804000), (0x20000, bytesOfWord 0x20000)] ∧
    (o.bind (·.load (fun s => if s = .text then 2 ^ 40 else 2 ^ 40 + 0x10000))) = none := by decide +kernel
/-- The kernel of the listing: its record is well formed, with a sliced role and a plain one (05 R73). -/
def scaleacc : Kernel :=
  { team := 2, roles := [{ groups := 1, sliced := true, off := 0, aoff := some 0 }, { groups := 1, off := 31 }], tmem := 1024,
    qdepth := [4, 0, 0, 0, 0, 0], slip := 4, mode := 1, energy := 2, entry := 0x10020, aentry := some 0x10000 }
theorem test_horas_record : scaleacc.ok ∧ (recordOf scaleacc { teams := 1 } 0x30000 7 (0, 0) 0x4000).length = 128 ∧
    (let v := natOfBytes (recordOf scaleacc { teams := 1 } 0x30000 7 (0, 0) 0x4000)
     State.reset.launchCode v = 0 ∧ (parseLaunch v).roles = [0x401, 0x1F0001, 0, 0] ∧ (parseLaunch v).storage = 3072) := by decide +kernel
/-- `.netdrop` is written before the launch, then granules 0 to 6 of the slot, then granule 7 (04 R65); without a later
launch it is an error. -/
theorem test_horas_loader :
    ((runAll [scaleacc] [.netdrop 6 0 1, .launch 0 { teams := 1 }] {}).map (fun l => l.map (fun a => match a with
      | .write (.reg off v) => (off, v) | .write (.scratch off l) => (off, l.length) | .await n => (n, 0) | _ => (0, 0)))) =
      some [(0x80010, 6 * 2 ^ 36 + 2 ^ 32 + 1), (0, 112), (112, 16), (0, 0)] ∧
    runAll [scaleacc] [.netdrop 6 0 1] {} = none ∧ runAll [scaleacc] [.steer 0 [1]] {} = none := by decide +kernel
/-- Two operations of two words each: NOPSM1 1, NWORDS 4 (17 R338); a word that R240 refuses is no statement. -/
theorem test_horas_micro : ((microImage [encode (.ffma { d := 60, a := 61, b := 62 } { c := 60, ty := 3 }),
      encode (.fmax { d := 63, a := 63, b := 61 } { ty := 3 })]).map (·.headD 0)) = some 0x104 ∧
    accepts false 0x0E10A28C 3 = false ∧ accepts true 0xD020C381 0 = false ∧ accepts true 0xB8208205 0 = true := by decide +kernel

end

/-! ## Decoding: words written out from the fields of 13 R228 to R234 and the opcode tables R238, R239 -/
theorem test_decode_lane_moves_integer_0 :
    [(32, 0x680115C0),
     (32, 0x7206A170),
     (64, 0x0D243A163C09455E),
     (64, 0x732B86620C0CD95A),
     (64, 0x0DD0504330130F91),
     (64, 0xD4C008A31014AFD9),
     (64, 0x50B5BCDE2018FCDE),
     (64, 0x397EC34C0C1EA037)].map (fun x => decodeTableWord x.1 x.2) =
    [some (.nop { s := true, hold := 2, guard := 4, d := 17, a := 23, b := 0 }),
     some (.mov { s := true, hold := 3, guard := 1, d := 42, a := 5, b := 48 }),
     some (.movi { s := false, hold := 3, guard := 6, d := 20, a := 21, b := 30 }
       0xd243a16),
     some (.sel { s := false, hold := 0, guard := 6, d := 13, a := 37, b := 26 }
       { c := 28, rnd := 3, ty := 2, na := true, nb := false, nc := true, abs := true, sat := true, pd := 0, imm := 1634 }),
     some (.iadd { s := false, hold := 3, guard := 0, d := 48, a := 62, b := 17 }
       { c := 3, rnd := 1, ty := 13, na := false, nb := false, nc := false, abs := false, sat := false, pd := 5, imm := 67 }),
     some (.isub { s := false, hold := 1, guard := 0, d := 10, a := 63, b := 25 }
       { c := 53, rnd := 0, ty := 12, na := false, nb := false, nc := false, abs := false, sat := false, pd := 0, imm := 2211 }),
     some (.imul { s := false, hold := 2, guard := 0, d := 15, a := 51, b := 30 }
       { c := 20, rnd := 0, ty := 11, na := false, nb := true, nc := false, abs := true, sat := true, pd := 3, imm := 3294 }),
     some (.imulh { s := false, hold := 0, guard := 6, d := 42, a := 0, b := 55 }
       { c := 14, rnd := 1, ty := 7, na := true, nb := true, nc := true, abs := false, sat := true, pd := 4, imm := 844 })] := by decide

theorem test_decode_lane_moves_integer_1 :
    [(64, 0x7CD3A94A0C236FEC),
     (64, 0x5441696A202465A1),
     (64, 0x4493656928292F63),
     (64, 0x41207E9D7A2CC1A3),
     (64, 0x0F9413304433D848),
     (64, 0xBDE611807037E183),
     (64, 0x5C271AAE7238A604)].map (fun x => decodeTableWord x.1 x.2) =
    [some (.imad { s := false, hold := 0, guard := 6, d := 54, a := 63, b := 44 }
       { c := 31, rnd := 0, ty := 13, na := false, nb := false, nc := true, abs := true, sat := true, pd := 2, imm := 2378 }),
     some (.imin { s := false, hold := 2, guard := 0, d := 6, a := 22, b := 33 }
       { c := 21, rnd := 0, ty := 4, na := false, nb := false, nc := false, abs := true, sat := false, pd := 6, imm := 2410 }),
     some (.imax { s := false, hold := 2, guard := 4, d := 18, a := 61, b := 35 }
       { c := 17, rnd := 0, ty := 9, na := false, nb := false, nc := true, abs := true, sat := false, pd := 6, imm := 1385 }),
     some (.iabs { s := true, hold := 3, guard := 5, d := 12, a := 6, b := 35 }
       { c := 16, rnd := 1, ty := 2, na := false, nb := false, nc := false, abs := false, sat := false, pd := 7, imm := 3741 }),
     some (.ineg { s := true, hold := 0, guard := 2, d := 61, a := 33, b := 8 }
       { c := 3, rnd := 3, ty := 9, na := false, nb := true, nc := false, abs := false, sat := false, pd := 1, imm := 816 }),
     some (.lea { s := true, hold := 3, guard := 0, d := 62, a := 6, b := 3 }
       { c := 47, rnd := 1, ty := 14, na := false, nb := true, nc := true, abs := false, sat := false, pd := 1, imm := 384 }),
     some (.iset { s := true, hold := 3, guard := 1, d := 10, a := 24, b := 4 }
       { c := 23, rnd := 0, ty := 2, na := false, nb := true, nc := true, abs := true, sat := false, pd := 1, imm := 2734 })] := by decide

theorem test_decode_lane_bits_0 :
    [(64, 0xC74537132043BE53),
     (64, 0xBC0A08340044F24A),
     (64, 0xD48CA99A0E4A008D),
     (64, 0x30ABDCC51A4F3026),
     (64, 0xEFEB52F0525239BB),
     (64, 0x44AD0D7F205586EE),
     (64, 0x91222A835A58CEC0),
     (64, 0xB686204D0C5F2C51)].map (fun x => decodeTableWord x.1 x.2) =
    [some (.andL { s := false, hold := 2, guard := 0, d := 59, a := 57, b := 19 }
       { c := 49, rnd := 3, ty := 4, na := false, nb := true, nc := false, abs := true, sat := false, pd := 3, imm := 1811 }),
     some (.orL { s := false, hold := 0, guard := 0, d := 15, a := 9, b := 10 }
       { c := 47, rnd := 0, ty := 0, na := true, nb := false, nc := true, abs := false, sat := false, pd := 0, imm := 2100 }),
     some (.xorL { s := false, hold := 0, guard := 7, d := 32, a := 2, b := 13 }
       { c := 53, rnd := 0, ty := 8, na := true, nb := true, nc := false, abs := false, sat := true, pd := 2, imm := 2458 }),
     some (.andnL { s := false, hold := 1, guard := 5, d := 51, a := 0, b := 38 }
       { c := 12, rnd := 0, ty := 10, na := true, nb := false, nc := true, abs := true, sat := true, pd := 5, imm := 3269 }),
     some (.notL { s := true, hold := 1, guard := 1, d := 35, a := 38, b := 59 }
       { c := 59, rnd := 3, ty := 14, na := true, nb := false, nc := true, abs := true, sat := false, pd := 5, imm := 752 }),
     some (.shl { s := false, hold := 2, guard := 0, d := 24, a := 27, b := 46 }
       { c := 17, rnd := 0, ty := 10, na := true, nb := true, nc := false, abs := true, sat := false, pd := 0, imm := 3455 }),
     some (.shr { s := true, hold := 1, guard := 5, d := 12, a := 59, b := 0 }
       { c := 36, rnd := 1, ty := 2, na := false, nb := false, nc := true, abs := false, sat := false, pd := 2, imm := 2691 }),
     some (.sar { s := false, hold := 0, guard := 6, d := 50, a := 49, b := 17 }
       { c := 45, rnd := 2, ty := 8, na := false, nb := true, nc := true, abs := false, sat := false, pd := 2, imm := 77 })] := by decide

theorem test_decode_lane_bits_1 :
    [(64, 0x8A4CAB1F4863DD8B),
     (64, 0xE9A260522A6435CC),
     (64, 0xCFD0C7E82E6AF1EF),
     (64, 0x0C6DE127506EA716),
     (64, 0xA145647C3673AEC5),
     (64, 0x86B8C34D7E75733F),
     (64, 0x9E73DA57067BB3E0),
     (64, 0x688E6DA3047DA2C6)].map (fun x => decodeTableWord x.1 x.2) =
    [some (.rotl { s := true, hold := 0, guard := 4, d := 61, a := 54, b := 11 }
       { c := 34, rnd := 2, ty := 4, na := true, nb := true, nc := false, abs := false, sat := true, pd := 2, imm := 2847 }),
     some (.popc { s := false, hold := 2, guard := 5, d := 3, a := 23, b := 12 }
       { c := 58, rnd := 1, ty := 10, na := false, nb := false, nc := true, abs := false, sat := false, pd := 6, imm := 82 }),
     some (.clz { s := false, hold := 2, guard := 7, d := 47, a := 7, b := 47 }
       { c := 51, rnd := 3, ty := 13, na := false, nb := false, nc := false, abs := false, sat := true, pd := 4, imm := 2024 }),
     some (.brev { s := true, hold := 1, guard := 0, d := 42, a := 28, b := 22 }
       { c := 3, rnd := 0, ty := 6, na := true, nb := true, nc := false, abs := true, sat := true, pd := 6, imm := 295 }),
     some (.bfe { s := false, hold := 3, guard := 3, d := 58, a := 59, b := 5 }
       { c := 40, rnd := 1, ty := 4, na := false, nb := true, nc := false, abs := true, sat := false, pd := 6, imm := 1148 }),
     some (.bfi { s := true, hold := 3, guard := 7, d := 23, a := 12, b := 63 }
       { c := 33, rnd := 2, ty := 11, na := true, nb := false, nc := false, abs := false, sat := true, pd := 4, imm := 845 }),
     some (.prmt { s := false, hold := 0, guard := 3, d := 59, a := 15, b := 32 }
       { c := 39, rnd := 2, ty := 7, na := false, nb := false, nc := true, abs := true, sat := true, pd := 5, imm := 2647 }),
     some (.pset { s := false, hold := 0, guard := 2, d := 26, a := 11, b := 6 }
       { c := 26, rnd := 0, ty := 8, na := true, nb := true, nc := true, abs := false, sat := false, pd := 6, imm := 3491 })] := by decide

theorem test_decode_lane_float_0 :
    [(64, 0x62D3C93406813D6E),
     (64, 0xD2BD13C872847B5C),
     (64, 0x2B8440407E8829F7),
     (64, 0x8D2A4F21068F8370),
     (64, 0x2CDA7D377A93B1FD),
     (64, 0x8587A52E40964E0A),
     (64, 0x908B4D376A9BD2A9),
     (64, 0x6931794D389F0E45)].map (fun x => decodeTableWord x.1 x.2) =
    [some (.fadd { s := false, hold := 0, guard := 3, d := 19, a := 53, b := 46 }
       { c := 24, rnd := 2, ty := 13, na := false, nb := false, nc := true, abs := true, sat := true, pd := 4, imm := 2356 }),
     some (.fsub { s := true, hold := 3, guard := 1, d := 7, a := 45, b := 28 }
       { c := 52, rnd := 2, ty := 11, na := true, nb := true, nc := false, abs := true, sat := false, pd := 1, imm := 968 }),
     some (.fmul { s := true, hold := 3, guard := 7, d := 2, a := 39, b := 55 }
       { c := 10, rnd := 3, ty := 8, na := false, nb := true, nc := false, abs := false, sat := false, pd := 4, imm := 64 }),
     some (.ffma { s := false, hold := 0, guard := 3, d := 56, a := 13, b := 48 }
       { c := 35, rnd := 1, ty := 2, na := true, nb := false, nc := true, abs := false, sat := false, pd := 4, imm := 3873 }),
     some (.fmin { s := true, hold := 3, guard := 5, d := 59, a := 7, b := 61 }
       { c := 11, rnd := 0, ty := 13, na := true, nb := false, nc := true, abs := false, sat := false, pd := 7, imm := 3383 }),
     some (.fmax { s := true, hold := 0, guard := 0, d := 36, a := 56, b := 10 }
       { c := 33, rnd := 1, ty := 8, na := false, nb := true, nc := true, abs := true, sat := true, pd := 2, imm := 1326 }),
     some (.fset { s := true, hold := 2, guard := 5, d := 61, a := 10, b := 41 }
       { c := 36, rnd := 0, ty := 8, na := true, nb := false, nc := true, abs := true, sat := false, pd := 4, imm := 3383 }),
     some (.fclass { s := false, hold := 3, guard := 4, d := 48, a := 57, b := 5 }
       { c := 26, rnd := 1, ty := 3, na := false, nb := false, nc := false, abs := true, sat := false, pd := 7, imm := 2381 })] := by decide

theorem test_decode_lane_float_1 :
    [(64, 0x305E3FC634A142E2),
     (64, 0x2E817FFF38A7B7F3),
     (64, 0x72785ED90CAB2A91),
     (64, 0xADB563EA5EAC0E60),
     (64, 0xCDDD437014B025C9)].map (fun x => decodeTableWord x.1 x.2) =
    [some (.frcp { s := false, hold := 3, guard := 2, d := 20, a := 11, b := 34 }
       { c := 12, rnd := 0, ty := 5, na := true, nb := true, nc := true, abs := false, sat := false, pd := 3, imm := 4038 }),
     some (.fsqrt { s := false, hold := 3, guard := 4, d := 59, a := 31, b := 51 }
       { c := 11, rnd := 2, ty := 8, na := false, nb := false, nc := false, abs := true, sat := false, pd := 7, imm := 4095 }),
     some (.frsq { s := false, hold := 0, guard := 6, d := 50, a := 42, b := 17 }
       { c := 28, rnd := 2, ty := 7, na := true, nb := false, nc := false, abs := false, sat := false, pd := 5, imm := 3801 }),
     some (.fex2 { s := true, hold := 1, guard := 7, d := 0, a := 57, b := 32 }
       { c := 43, rnd := 1, ty := 11, na := false, nb := true, nc := false, abs := true, sat := false, pd := 6, imm := 1002 }),
     some (.flg2 { s := false, hold := 1, guard := 2, d := 2, a := 23, b := 9 }
       { c := 51, rnd := 1, ty := 13, na := true, nb := true, nc := false, abs := true, sat := false, pd := 4, imm := 880 })] := by decide

theorem test_decode_lane_double_half_0 :
    [(64, 0x3232C65D1EC2102F),
     (64, 0x0708C24E20C5E298),
     (64, 0x6E1B483B56C8B30A),
     (64, 0xA8808B2A00CEE292),
     (64, 0xA3F38F1416D12EBB),
     (64, 0xDA5C1BC01ED54F0E),
     (64, 0xD1C7A65D28D8F8F8),
     (64, 0xD60B087500DEA23A)].map (fun x => decodeTableWord x.1 x.2) =
    [some (.dadd { s := false, hold := 1, guard := 7, d := 33, a := 0, b := 47 }
       { c := 12, rnd := 2, ty := 3, na := false, nb := false, nc := true, abs := false, sat := true, pd := 4, imm := 1629 }),
     some (.dmul { s := false, hold := 2, guard := 0, d := 30, a := 10, b := 24 }
       { c := 1, rnd := 3, ty := 0, na := true, nb := false, nc := false, abs := false, sat := true, pd := 4, imm := 590 }),
     some (.dfma { s := true, hold := 1, guard := 3, d := 11, a := 12, b := 10 }
       { c := 27, rnd := 2, ty := 1, na := true, nb := false, nc := true, abs := true, sat := false, pd := 4, imm := 2107 }),
     some (.dmin { s := false, hold := 0, guard := 0, d := 46, a := 10, b := 18 }
       { c := 42, rnd := 0, ty := 8, na := false, nb := false, nc := false, abs := false, sat := true, pd := 0, imm := 2858 }),
     some (.dmax { s := false, hold := 1, guard := 3, d := 18, a := 58, b := 59 }
       { c := 40, rnd := 3, ty := 15, na := false, nb := false, nc := true, abs := true, sat := true, pd := 0, imm := 3860 }),
     some (.dset { s := false, hold := 1, guard := 7, d := 20, a := 60, b := 14 }
       { c := 54, rnd := 2, ty := 5, na := true, nb := true, nc := false, abs := false, sat := false, pd := 1, imm := 3008 }),
     some (.drcp { s := false, hold := 2, guard := 4, d := 15, a := 35, b := 56 }
       { c := 52, rnd := 1, ty := 12, na := false, nb := true, nc := true, abs := true, sat := true, pd := 2, imm := 1629 }),
     some (.dsqrt { s := false, hold := 0, guard := 0, d := 42, a := 8, b := 58 }
       { c := 53, rnd := 2, ty := 0, na := true, nb := false, nc := true, abs := true, sat := false, pd := 0, imm := 2165 })] := by decide

theorem test_decode_lane_double_half_1 :
    [(64, 0x6B3A996750E22C86),
     (64, 0x5CBF6AEA50E7C534),
     (64, 0xC2C75C524AE9878F),
     (64, 0x9EE5DAEC22EE5236),
     (64, 0x6475297102F07E6B)].map (fun x => decodeTableWord x.1 x.2) =
    [some (.hadd2 { s := true, hold := 1, guard := 0, d := 34, a := 50, b := 6 }
       { c := 26, rnd := 3, ty := 3, na := true, nb := false, nc := true, abs := false, sat := true, pd := 1, imm := 2407 }),
     some (.hmul2 { s := true, hold := 1, guard := 0, d := 60, a := 20, b := 52 }
       { c := 23, rnd := 0, ty := 11, na := true, nb := true, nc := true, abs := true, sat := false, pd := 6, imm := 2794 }),
     some (.hfma2 { s := true, hold := 0, guard := 5, d := 24, a := 30, b := 15 }
       { c := 48, rnd := 2, ty := 12, na := false, nb := true, nc := true, abs := true, sat := false, pd := 5, imm := 3154 }),
     some (.hmin2 { s := false, hold := 2, guard := 1, d := 37, a := 8, b := 54 }
       { c := 39, rnd := 2, ty := 14, na := false, nb := true, nc := false, abs := true, sat := true, pd := 5, imm := 2796 }),
     some (.hmax2 { s := false, hold := 0, guard := 1, d := 7, a := 57, b := 43 }
       { c := 25, rnd := 0, ty := 7, na := false, nb := true, nc := false, abs := true, sat := false, pd := 2, imm := 2417 })] := by decide

theorem test_decode_lane_convert_0 :
    [(64, 0xC91ABE501100269D),
     (64, 0x029047041B06F8C6),
     (64, 0x7DA01AE73B0BA371),
     (64, 0x1F68361E210CE194),
     (64, 0xDC084A1A4111AFE9),
     (64, 0xC1300A825D14908F)].map (fun x => decodeTableWord x.1 x.2) =
    [some (.cvt { s := false, hold := 1, guard := 0, d := 2, a := 26, b := 29 }
       { c := 50, rnd := 1, ty := 1, na := true, nb := false, nc := true, abs := false, sat := true, pd := 3, imm := 3664 }),
     some (.qnt { s := false, hold := 1, guard := 5, d := 47, a := 35, b := 6 }
       { c := 0, rnd := 2, ty := 9, na := false, nb := false, nc := false, abs := false, sat := false, pd := 4, imm := 1796 }),
     some (.dqnt { s := false, hold := 3, guard := 5, d := 58, a := 13, b := 49 }
       { c := 31, rnd := 1, ty := 10, na := false, nb := false, nc := false, abs := false, sat := false, pd := 1, imm := 2791 }),
     some (.scle { s := false, hold := 2, guard := 0, d := 14, a := 6, b := 20 }
       { c := 7, rnd := 3, ty := 6, na := true, nb := false, nc := false, abs := false, sat := false, pd := 3, imm := 1566 }),
     some (.pack { s := true, hold := 0, guard := 0, d := 26, a := 63, b := 41 }
       { c := 55, rnd := 0, ty := 0, na := true, nb := false, nc := false, abs := false, sat := false, pd := 4, imm := 2586 }),
     some (.unpk { s := true, hold := 1, guard := 6, d := 9, a := 2, b := 15 }
       { c := 48, rnd := 1, ty := 3, na := false, nb := false, nc := false, abs := false, sat := false, pd := 0, imm := 2690 })] := by decide

theorem test_decode_lane_cross_lane_0 :
    [(64, 0x9AFD5B831F2016EC),
     (64, 0xEA6323232527A4FF),
     (64, 0x346CD4B94D28979B),
     (64, 0xBFBB2D25032FFFF7),
     (64, 0x714A678C053130FB),
     (32, 0x51341340),
     (32, 0x2F344101),
     (32, 0x13366242)].map (fun x => decodeTableWord x.1 x.2) =
    [some (.shfl { s := false, hold := 1, guard := 7, d := 1, a := 27, b := 44 }
       { c := 38, rnd := 2, ty := 15, na := true, nb := true, nc := false, abs := true, sat := false, pd := 5, imm := 2947 }),
     some (.vote { s := false, hold := 2, guard := 2, d := 58, a := 19, b := 63 }
       { c := 58, rnd := 2, ty := 6, na := false, nb := false, nc := true, abs := true, sat := false, pd := 2, imm := 803 }),
     some (.redux { s := true, hold := 0, guard := 6, d := 9, a := 30, b := 27 }
       { c := 13, rnd := 0, ty := 6, na := true, nb := true, nc := false, abs := false, sat := true, pd := 5, imm := 1209 }),
     some (.scan { s := false, hold := 0, guard := 1, d := 63, a := 63, b := 55 }
       { c := 47, rnd := 3, ty := 11, na := true, nb := false, nc := true, abs := true, sat := false, pd := 2, imm := 3365 }),
     some (.matchL { s := false, hold := 0, guard := 2, d := 19, a := 3, b := 59 }
       { c := 28, rnd := 1, ty := 4, na := true, nb := false, nc := true, abs := false, sat := false, pd := 6, imm := 1932 }),
     some (.fenceW { s := true, hold := 1, guard := 0, d := 1, a := 13, b := 0 }),
     some (.fenceTm { s := false, hold := 2, guard := 7, d := 4, a := 4, b := 1 }),
     some (.fenceGl { s := false, hold := 1, guard := 1, d := 38, a := 9, b := 2 })] := by decide

theorem test_decode_lane_cross_lane_1 :
    [(32, 0x61389B8B),
     (64, 0x3FEFBA89573F0629)].map (fun x => decodeTableWord x.1 x.2) =
    [some (.movs { s := true, hold := 2, guard := 0, d := 9, a := 46, b := 11 }),
     some (.rdlane { s := true, hold := 1, guard := 3, d := 48, a := 24, b := 41 }
       { c := 15, rnd := 3, ty := 14, na := true, nb := true, nc := true, abs := true, sat := true, pd := 3, imm := 2697 })] := by decide

theorem test_decode_lane_memory_0 :
    [(64, 0x235D08685D416EA3),
     (64, 0x637F77F24547A037),
     (64, 0x2ADFCD1C1F4ADEDC),
     (64, 0x40F3DFB07F4CB938),
     (64, 0x70A334FE4B5183F2),
     (64, 0x8324ECAF7D5776AC),
     (64, 0x2ED519A42959A735),
     (64, 0x4395D6A56B5C82F6)].map (fun x => decodeTableWord x.1 x.2) =
    [some (.ld { s := true, hold := 1, guard := 6, d := 22, a := 58, b := 35 }
       { space := 1, width := 0, fe := 3, aop := 5, sgn := true, rp := 5, off := 2152 }),
     some (.st { s := true, hold := 0, guard := 2, d := 58, a := 0, b := 55 }
       { space := 3, width := 0, fe := 3, aop := 7, sgn := true, rp := 7, off := 30706 }),
     some (.ldr { s := false, hold := 1, guard := 7, d := 45, a := 59, b := 28 }
       { space := 1, width := 2, fe := 2, aop := 13, sgn := true, rp := 7, off := 52508 }),
     some (.atom { s := true, hold := 3, guard := 7, d := 11, a := 36, b := 56 }
       { space := 2, width := 0, fe := 0, aop := 15, sgn := false, rp := 3, off := 57264 }),
     some (.atomf { s := true, hold := 0, guard := 5, d := 24, a := 15, b := 50 }
       { space := 3, width := 4, fe := 0, aop := 10, sgn := false, rp := 3, off := 13566 }),
     some (.cas { s := true, hold := 3, guard := 6, d := 55, a := 26, b := 44 }
       { space := 4, width := 0, fe := 3, aop := 2, sgn := false, rp := 4, off := 60591 }),
     some (.atld { s := false, hold := 2, guard := 4, d := 26, a := 28, b := 53 }
       { space := 1, width := 3, fe := 2, aop := 13, sgn := false, rp := 5, off := 6564 }),
     some (.pref { s := true, hold := 2, guard := 5, d := 8, a := 11, b := 54 }
       { space := 2, width := 0, fe := 3, aop := 9, sgn := false, rp := 5, off := 54949 })] := by decide

theorem test_decode_lane_control_0 :
    [(32, 0x0D835B31),
     (64, 0x7F2607B339848801),
     (64, 0x62520DE37388B500),
     (64, 0x36692C7F658DEBFC),
     (64, 0xC14CD4DA71905629),
     (64, 0xD3C827574D943DF6),
     (32, 0x1999EAC0),
     (32, 0x099C5BD7)].map (fun x => decodeTableWord x.1 x.2) =
    [some (.bra { s := false, u := false, z := false, guard := 6, off := 219953 }),
     some (.brx { s := false, u := true, z := true, guard := 4, off := 34817 }
       { a := 31, rsv := 12896, n := 1971 }),
     some (.jmpr { s := true, u := true, z := true, guard := 1, off := 46336 }
       { a := 24, rsv := 9504, n := 3555 }),
     some (.call { s := true, u := true, z := false, guard := 2, off := 125948 }
       { a := 13, rsv := 9874, n := 3199 }),
     some (.calli { s := true, u := true, z := true, guard := 0, off := 22057 }
       { a := 48, rsv := 5325, n := 1242 }),
     some (.ret { s := true, u := false, z := false, guard := 6, off := 15862 }
       { a := 52, rsv := 15490, n := 1879 }),
     some (.jset { s := false, u := false, z := true, guard := 4, off := 125632 }),
     some (.join { s := false, u := false, z := false, guard := 4, off := 23511 })] := by decide

theorem test_decode_lane_control_1 :
    [(32, 0x65A32925),
     (32, 0x51A4F327)].map (fun x => decodeTableWord x.1 x.2) =
    [some (.exit { s := true, u := true, z := false, guard := 2, off := 207141 }),
     some (.bpt { s := true, u := false, z := true, guard := 0, off := 62247 })] := by decide

theorem test_decode_group_scalar_0 :
    [(32, 0xA007C673),
     (32, 0xD8058FDF),
     (64, 0xD84962CEF81C8521),
     (32, 0xE8264BFA),
     (32, 0xC8378C6A),
     (32, 0xE045B83F),
     (32, 0xB851CBF2),
     (32, 0xF86CD7BE)].map (fun x => decodeTableWord x.1 x.2) =
    [some (.smov { s := false, guard := 4, d := 31, a := 6, i := false, x := 115 }),
     some (.smovImm { s := true, guard := 3, d := 22, a := 15, i := true, x := 95 }),
     some (.smovi { s := true, guard := 7, d := 50, a := 5, i := false, x := 33 }
       0xd84962ce),
     some (.sadd { s := true, guard := 5, d := 25, a := 11, i := true, x := 122 }),
     some (.ssub { s := true, guard := 1, d := 30, a := 12, i := false, x := 106 }),
     some (.smul { s := true, guard := 4, d := 22, a := 56, i := false, x := 63 }),
     some (.smin { s := false, guard := 7, d := 7, a := 11, i := true, x := 114 }),
     some (.smax { s := true, guard := 7, d := 51, a := 23, i := true, x := 62 })] := by decide

theorem test_decode_group_scalar_1 :
    [(32, 0xD077FC83),
     (32, 0x888BDEFC),
     (32, 0x9094BBE2),
     (32, 0xB8A9E278),
     (32, 0xF8BC31B9),
     (32, 0xB0CDEE94),
     (64, 0x011C2D57B8D89545),
     (64, 0x333C2D9C90E66AB2)].map (fun x => decodeTableWord x.1 x.2) =
    [some (.sand { s := true, guard := 2, d := 31, a := 60, i := true, x := 3 }),
     some (.sor { s := false, guard := 1, d := 47, a := 30, i := true, x := 124 }),
     some (.sxor { s := false, guard := 2, d := 18, a := 59, i := true, x := 98 }),
     some (.sshl { s := false, guard := 7, d := 39, a := 34, i := false, x := 120 }),
     some (.sshr { s := true, guard := 7, d := 48, a := 49, i := true, x := 57 }),
     some (.ssar { s := false, guard := 6, d := 55, a := 46, i := true, x := 20 }),
     some (.sset { s := false, guard := 7, d := 34, a := 21, i := false, x := 69 }
       { sub := 0, pred := 1, queue := 1, ty := 12, imm := 11607 }),
     some (.ssel { s := false, guard := 2, d := 25, a := 42, i := true, x := 50 }
       { sub := 6, pred := 3, queue := 3, ty := 12, imm := 11676 })] := by decide

theorem test_decode_group_scalar_2 :
    [(64, 0x7D8A1B3AD0FCD638)].map (fun x => decodeTableWord x.1 x.2) =
    [some (.slea { s := true, guard := 2, d := 51, a := 22, i := false, x := 56 }
       { sub := 15, pred := 5, queue := 8, ty := 10, imm := 6970 })] := by decide

theorem test_decode_group_memory_control_0 :
    [(64, 0x0BB34878F90951E8),
     (64, 0x14136CBEC11A1338),
     (64, 0x1DF8019E81281DDE),
     (64, 0x98500177C13BBC9C),
     (64, 0x0CCF2B53D942FE44),
     (64, 0xFD2907EBA95AF737)].map (fun x => decodeTableWord x.1 x.2) =
    [some (.sld { s := true, guard := 7, d := 37, a := 17, i := true, x := 104 }
       { space := 0, width := 2, fe := 3, aop := 11, sgn := false, rp := 3, off := 18552 }),
     some (.sst { s := true, guard := 0, d := 40, a := 19, i := false, x := 56 }
       { space := 0, width := 5, fe := 0, aop := 1, sgn := false, rp := 3, off := 27838 }),
     some (.sbra { s := false, guard := 0, d := 32, a := 29, i := true, x := 94 }
       0x1df8019e),
     some (.sloop { s := true, guard := 0, d := 46, a := 60, i := true, x := 28 }
       0x98500177),
     some (.sread { s := true, guard := 3, d := 11, a := 62, i := false, x := 68 }
       { sub := 1, pred := 4, queue := 12, ty := 15, imm := 11091 }),
     some (.swrite { s := false, guard := 5, d := 43, a := 55, i := false, x := 55 }
       { sub := 31, pred := 5, queue := 2, ty := 9, imm := 2027 })] := by decide

theorem test_decode_group_phase_0 :
    [(64, 0x01CA0245E985AEC6),
     (64, 0x0A925FF4C1831812),
     (64, 0x156FEE78E18E986F),
     (64, 0xFFC8ADD59997C428),
     (64, 0xF4431E1B99A8C314),
     (64, 0xF7A8BB61A9BDA133),
     (32, 0xB1C131D6),
     (64, 0x6406E858E9D6EDCA)].map (fun x => decodeTableWord x.1 x.2) =
    [some (.phase { s := true, guard := 5, d := 22, a := 46, i := true, x := 70 }
       { sub := 0, pred := 1, queue := 12, ty := 10, imm := 581 }),
     some (.phaseRel { s := true, guard := 0, d := 12, a := 24, i := false, x := 18 }
       { sub := 1, pred := 2, queue := 9, ty := 2, imm := 24564 }),
     some (.phaseAcq { s := true, guard := 4, d := 58, a := 24, i := false, x := 111 }
       { sub := 2, pred := 5, queue := 6, ty := 15, imm := 61048 }),
     some (.bar { s := false, guard := 3, d := 31, a := 4, i := false, x := 40 }
       { sub := 31, pred := 7, queue := 12, ty := 8, imm := 44501 }),
     some (.arrive { s := false, guard := 3, d := 35, a := 3, i := false, x := 20 }
       { sub := 30, pred := 4, queue := 4, ty := 3, imm := 7707 }),
     some (.waitlow { s := false, guard := 5, d := 54, a := 33, i := false, x := 51 }
       { sub := 30, pred := 7, queue := 10, ty := 8, imm := 47969 }),
     some (.trigger { s := false, guard := 6, d := 4, a := 49, i := true, x := 86 }),
     some (.waitv { s := true, guard := 5, d := 27, a := 45, i := true, x := 74 }
       { sub := 12, pred := 4, queue := 0, ty := 6, imm := 59480 })] := by decide

theorem test_decode_group_admission_0 :
    [(32, 0x9A0EB54E),
     (32, 0xCA109C5A),
     (64, 0xE8CEE8D7AA29AD80),
     (32, 0xDA3C3ED1),
     (64, 0xF004741CCA4A16FA),
     (64, 0xEC54558CDA59D5EB)].map (fun x => decodeTableWord x.1 x.2) =
    [some (.xacq { s := false, guard := 3, d := 58, a := 53, i := false, x := 78 }),
     some (.xrel { s := true, guard := 1, d := 2, a := 28, i := false, x := 90 }),
     some (.hold { s := false, guard := 5, d := 38, a := 45, i := true, x := 0 }
       { sub := 29, pred := 0, queue := 12, ty := 14, imm := 59607 }),
     some (.name { s := true, guard := 3, d := 48, a := 62, i := true, x := 81 }),
     some (.rstv { s := true, guard := 1, d := 40, a := 22, i := true, x := 122 }
       { sub := 30, pred := 0, queue := 0, ty := 4, imm := 29724 }),
     some (.gang { s := true, guard := 3, d := 39, a := 21, i := true, x := 107 }
       { sub := 29, pred := 4, queue := 5, ty := 4, imm := 21900 })] := by decide

theorem test_decode_group_queue_0 :
    [(64, 0x93FE54EFD286370A),
     (64, 0xA76AEFE7D29E0CA8),
     (64, 0x4E2A71ACC2AB6B4D),
     (64, 0x3BCCED9E82BBE59A),
     (32, 0x82CA1025)].map (fun x => decodeTableWord x.1 x.2) =
    [some (.qpush { s := true, guard := 2, d := 24, a := 55, i := false, x := 10 }
       { sub := 18, pred := 3, queue := 15, ty := 14, imm := 21743 }),
     some (.qpop { s := true, guard := 2, d := 56, a := 12, i := true, x := 40 }
       { sub := 20, pred := 7, queue := 6, ty := 10, imm := 61415 }),
     some (.aqld { s := true, guard := 0, d := 45, a := 43, i := false, x := 77 }
       { space := 2, width := 3, fe := 2, aop := 2, sgn := true, rp := 2, off := 29100 }),
     some (.aqst { s := false, guard := 0, d := 47, a := 37, i := true, x := 26 }
       { space := 1, width := 6, fe := 3, aop := 12, sgn := true, rp := 4, off := 60830 }),
     some (.qslip { s := false, guard := 0, d := 40, a := 16, i := false, x := 37 })] := by decide

theorem test_decode_group_program_0 :
    [(64, 0xEFFB17ACF3041DD9),
     (64, 0xEE23244EEB1098F3),
     (32, 0xFB2A4930),
     (32, 0xA331D580),
     (32, 0xCB3DA881),
     (32, 0xB33F4182),
     (64, 0x07ED1B65934AC3C0),
     (64, 0x0B962C6C8347BCB6)].map (fun x => decodeTableWord x.1 x.2) =
    [some (.mcall { s := true, guard := 6, d := 16, a := 29, i := true, x := 89 }
       { para := 59, parb := 63, parc := 44, pard := 23, npar := 2, slot := 44 }),
     some (.mcload { s := true, guard := 5, d := 2, a := 24, i := true, x := 115 }
       0xee23244e),
     some (.trap { s := true, guard := 7, d := 41, a := 9, i := false, x := 48 }),
     some (.rftRetry { s := false, guard := 4, d := 7, a := 21, i := true, x := 0 }),
     some (.rftNext { s := true, guard := 1, d := 54, a := 40, i := true, x := 1 }),
     some (.rftJump { s := false, guard := 6, d := 61, a := 1, i := true, x := 2 }),
     some (.launch { s := false, guard := 2, d := 43, a := 3, i := true, x := 64 }
       { sub := 0, pred := 7, queue := 14, ty := 13, imm := 7013 }),
     some (.launchNb { s := false, guard := 0, d := 30, a := 60, i := true, x := 54 }
       { sub := 1, pred := 3, queue := 9, ty := 6, imm := 11372 })] := by decide

theorem test_decode_group_engine_0 :
    [(64, 0x6D611AB6AB88B57E),
     (64, 0x35F064B9BB9E7309),
     (64, 0x857FB402E3AD33F5),
     (64, 0x12D8B5EABBB74715)].map (fun x => decodeTableWord x.1 x.2) =
    [some (.copy { s := false, guard := 5, d := 34, a := 53, i := false, x := 126 }
       { eq := 3, bsel := 1, gform := 2, smode := 5, typea := 8, typeb := 4, acc := 1, form := 10, rsv := 182 }),
     some (.gather { s := false, guard := 7, d := 57, a := 51, i := false, x := 9 }
       { eq := 1, bsel := 2, gform := 2, smode := 7, typea := 12, typeb := 1, acc := 2, form := 4, rsv := 185 }),
     some (.bwait { s := true, guard := 4, d := 52, a := 51, i := true, x := 117 }
       { sub := 16, pred := 5, queue := 7, ty := 15, imm := 46082 }),
     some (.qfence { s := false, guard := 7, d := 29, a := 7, i := false, x := 21 }
       { sub := 2, pred := 2, queue := 13, ty := 8, imm := 46570 })] := by decide

theorem test_decode_group_matrix_0 :
    [(64, 0xFF88D03AE40CE8B6),
     (64, 0x85EEC17DAC0AA70B),
     (64, 0x0C0E5B5AA419970E),
     (64, 0x0E54BFF5D426A091),
     (64, 0x12FFAE11C43BA6FE),
     (64, 0xB3008E0BA442C0B2),
     (64, 0xF69D9033FC833D3F),
     (64, 0x859401E7CC88F9E3)].map (fun x => decodeTableWord x.1 x.2) =
    [some (.mmaR { s := true, guard := 4, d := 51, a := 40, i := true, x := 54 }
       { eq := 7, bsel := 3, gform := 3, smode := 6, typea := 2, typeb := 3, acc := 1, form := 0, rsv := 58 }),
     some (.mmaT { s := false, guard := 5, d := 42, a := 39, i := false, x := 11 }
       { eq := 4, bsel := 0, gform := 2, smode := 7, typea := 11, typeb := 11, acc := 0, form := 1, rsv := 125 }),
     some (.accld { s := false, guard := 4, d := 38, a := 23, i := false, x := 14 }
       { eq := 0, bsel := 1, gform := 2, smode := 0, typea := 3, typeb := 9, acc := 1, form := 11, rsv := 90 }),
     some (.accst { s := true, guard := 2, d := 26, a := 32, i := true, x := 17 }
       { eq := 0, bsel := 1, gform := 3, smode := 1, typea := 5, typeb := 2, acc := 3, form := 15, rsv := 245 }),
     some (.accz { s := true, guard := 0, d := 46, a := 38, i := true, x := 126 }
       { eq := 0, bsel := 2, gform := 1, smode := 3, typea := 15, typeb := 14, acc := 2, form := 14, rsv := 17 }),
     some (.mres { s := false, guard := 4, d := 11, a := 0, i := true, x := 50 }
       { eq := 5, bsel := 2, gform := 1, smode := 4, typea := 0, typeb := 2, acc := 0, form := 14, rsv := 11 }),
     some (.flushNode { s := true, guard := 7, d := 12, a := 61, i := false, x := 63 }
       { eq := 7, bsel := 2, gform := 3, smode := 2, typea := 7, typeb := 6, acc := 1, form := 0, rsv := 51 }),
     some (.flushPkg { s := true, guard := 1, d := 35, a := 57, i := true, x := 99 }
       { eq := 4, bsel := 0, gform := 2, smode := 6, typea := 5, typeb := 0, acc := 0, form := 1, rsv := 231 })] := by decide

theorem test_decode_group_network_0 :
    [(64, 0xFE07235FB509319F),
     (64, 0x8B1F9316BD1137AC),
     (64, 0x44A549C1E52002AB),
     (64, 0x55BA72B1953F3BD8),
     (64, 0x13B3606D8D4A6A97),
     (64, 0x40771193B5474E35),
     (64, 0x5DDC629AA548CF0E)].map (fun x => decodeTableWord x.1 x.2) =
    [some (.nsend { s := false, guard := 6, d := 36, a := 49, i := true, x := 31 }
       { eq := 7, bsel := 3, gform := 3, smode := 0, typea := 1, typeb := 12, acc := 2, form := 3, rsv := 95 }),
     some (.nget { s := false, guard := 7, d := 4, a := 55, i := true, x := 44 }
       { eq := 4, bsel := 1, gform := 1, smode := 4, typea := 7, typeb := 14, acc := 1, form := 3, rsv := 22 }),
     some (.npost { s := true, guard := 4, d := 0, a := 2, i := true, x := 43 }
       { eq := 2, bsel := 0, gform := 2, smode := 2, typea := 9, typeb := 5, acc := 0, form := 9, rsv := 193 }),
     some (.nwait { s := false, guard := 2, d := 60, a := 59, i := true, x := 88 }
       { eq := 2, bsel := 2, gform := 2, smode := 6, typea := 14, typeb := 9, acc := 3, form := 2, rsv := 177 }),
     some (.nctrRd { s := false, guard := 1, d := 41, a := 42, i := true, x := 23 }
       { eq := 0, bsel := 2, gform := 1, smode := 6, typea := 12, typeb := 13, acc := 2, form := 0, rsv := 109 }),
     some (.nctrSet { s := false, guard := 6, d := 29, a := 14, i := false, x := 53 }
       { eq := 2, bsel := 0, gform := 0, smode := 1, typea := 13, typeb := 12, acc := 1, form := 1, rsv := 147 }),
     some (.nctrAdd { s := false, guard := 4, d := 35, a := 15, i := false, x := 14 }
       { eq := 2, bsel := 3, gform := 2, smode := 7, typea := 7, typeb := 1, acc := 2, form := 2, rsv := 154 })] := by decide

theorem test_decode_group_reshard_system_0 :
    [(64, 0xD3CD7B94A58CFFEC),
     (64, 0x7694C202A597E85A),
     (64, 0x040B5EE7DE0376F1),
     (64, 0xE18BEC70F61F7105),
     (64, 0x488CC0FEDE2CA837),
     (64, 0xE7B791BBDE292779),
     (64, 0xEF54FC0BBE876491)].map (fun x => decodeTableWord x.1 x.2) =
    [some (.reshard { s := false, guard := 4, d := 51, a := 63, i := true, x := 108 }
       { eq := 6, bsel := 2, gform := 1, smode := 7, typea := 3, typeb := 5, acc := 3, form := 11, rsv := 148 }),
     some (.rstat { s := false, guard := 4, d := 31, a := 40, i := false, x := 90 }
       { eq := 3, bsel := 2, gform := 3, smode := 2, typea := 5, typeb := 3, acc := 0, form := 2, rsv := 2 }),
     some (.pgreq { s := true, guard := 3, d := 13, a := 54, i := true, x := 113 }
       { eq := 0, bsel := 0, gform := 2, smode := 0, typea := 2, typeb := 13, acc := 1, form := 14, rsv := 231 }),
     some (.pgtier { s := true, guard := 6, d := 61, a := 49, i := false, x := 5 }
       { eq := 7, bsel := 0, gform := 0, smode := 6, typea := 2, typeb := 15, acc := 2, form := 12, rsv := 112 }),
     some (.shoot { s := true, guard := 3, d := 50, a := 40, i := false, x := 55 }
       { eq := 2, bsel := 1, gform := 0, smode := 2, typea := 3, typeb := 3, acc := 0, form := 0, rsv := 254 }),
     some (.shootAll { s := true, guard := 3, d := 36, a := 39, i := false, x := 121 }
       { eq := 7, bsel := 0, gform := 3, smode := 6, typea := 13, typeb := 14, acc := 1, form := 1, rsv := 187 }),
     some (.digest { s := false, guard := 7, d := 29, a := 36, i := true, x := 17 }
       { eq := 7, bsel := 1, gform := 3, smode := 5, typea := 5, typeb := 3, acc := 3, form := 12, rsv := 11 })] := by decide
end

section
/-! The channel maps at reset (01 R12, R13): what the registers of the channel-map block hold, and which bits a mask of
the default hash sets. -/

namespace Sys2Proof.Machine
open Sys2Proof

/-- At reset no entry of State lists a BAR0 register. -/
@[simp] theorem State.reg_reset (off : Nat) : State.reset.reg off = bar0Reset off := rfl

/-- The 16 registers of a map at reset: 14 masks, MAPCTL with VALID alone set, and one that the block leaves free. -/
theorem bar0Reset_chmap {m r : Nat} (hm : m < 8) (hr : r < 16) :
    bar0Reset (chmapBase + 0x80 * m + 8 * r) = if r < 14 then defaultMask r else if r = 14 then 1 else 0 := by
  have inBlock : chmapBase + 0x80 * m + 8 * r < chmapBase + 0x400 := by omega
  have index : (chmapBase + 0x80 * m + 8 * r) % 0x80 / 8 = r := by simp only [chmapBase]; omega
  have inMap : chmapBase ≤ chmapBase + 0x80 * m + 8 * r := by omega
  have pastMsix : ¬ chmapBase + 0x80 * m + 8 * r < 0x1400 := by simp only [chmapBase]; omega
  generalize chmapBase + 0x80 * m + 8 * r = off at *
  have notIdent : off ≠ 0 := by omega
  have notMboxbase : off ≠ 0x10 := by omega
  simp [bar0Reset, notIdent, notMboxbase, pastMsix, inMap, inBlock, index]

theorem State.mask_reset {m k : Nat} (hm : m < 8) (hk : k < 14) : State.reset.mask m k = defaultMask k := by
  have h := bar0Reset_chmap hm (show k < 16 by omega)
  simpa [State.mask, hk] using h

/-- MAPCTL at reset: VALID is set, LOCK and ERR are clear. -/
theorem State.mapctl_reset {m : Nat} (hm : m < 8) : State.reset.reg (chmapBase + 0x80 * m + 0x70) = 1 :=
  bar0Reset_chmap (r := 14) hm (by decide)

/-- The two powers of two do not meet, so their sum is their union. -/
theorem testBit_defaultMask (k b : Nat) : (defaultMask k).testBit b = (b == 6 + k || b == 24 + k) := by
  have apart : 2 ^ (6 + k) < 2 ^ (24 + k) := Nat.pow_lt_pow_right (by decide) (by omega)
  have union : defaultMask k = 2 ^ (24 + k) ||| 2 ^ (6 + k) := by
    simpa [defaultMask, Nat.add_comm] using Nat.two_pow_add_eq_or_of_lt apart 1
  simp [union, Nat.testBit_or, Nat.testBit_two_pow, Bool.or_comm, Bool.beq_eq_decide_eq, eq_comm (a := b)]

/-- Settles O60: each register of a map holds its reset value, and a mask's bits are those of the default hash. -/
theorem defaultHash : Obligations.DefaultHash := by
  unfold Obligations.DefaultHash
  intro m hm
  have ctl := State.mapctl_reset hm
  refine ⟨fun k hk b => ?masks, ?valid, ?unlocked⟩
  case masks => rw [State.mask_reset hm hk, testBit_defaultMask]
  case valid => rw [State.mapValid, ctl]; rfl
  case unlocked => rw [ctl]

end Sys2Proof.Machine
end

section
/-! Words and their bits: a word is the sum of its bits, and the bits of each piece of arithmetic from which the lane's
logic, shifts and bit fields are made. -/

namespace Sys2Proof.Machine
open Sys2Proof Sys2Proof.Claims

theorem sum_testBit_range (v n : Nat) :
    ((List.range n).map (fun j => (v.testBit j).toNat * 2 ^ j)).sum = v % 2 ^ n := by
  induction n with
  | zero => simp [Nat.mod_one]
  | succ n ih =>
    rw [List.range_succ, List.map_append, List.sum_append, ih, Nat.mod_pow_succ, ← Nat.toNat_testBit]
    simp [Nat.mul_comm]

/-- A word is `ofBits f` as soon as f gives each of its 32 bits. -/
theorem toNat_eq_ofBits {v : Word} {f : Nat → Bool} (h : ∀ j < 32, v.getLsbD j = f j) : v.toNat = ofBits f := by
  have bits : (List.range 32).map (fun j => (f j).toNat * 2 ^ j) =
      (List.range 32).map (fun j => (v.toNat.testBit j).toNat * 2 ^ j) :=
    List.map_congr_left fun j hj => by rw [← h j (List.mem_range.mp hj)]; rfl
  rw [ofBits, bits, sum_testBit_range, Nat.mod_eq_of_lt v.isLt]

theorem getLsbD_ofNat_word (n : Nat) {j : Nat} (hj : j < 32) : (BitVec.ofNat 32 n).getLsbD j = n.testBit j := by
  rw [BitVec.getLsbD_ofNat, decide_eq_true hj, Bool.true_and]

/-- The bits of `setBits`: those of x in the field, those of v outside it. -/
theorem testBit_setBits {v hi lo x : Nat} (h : lo ≤ hi) (j : Nat) :
    (setBits v hi lo x).testBit j = if lo ≤ j ∧ j ≤ hi then x.testBit (j - lo) else v.testBit j := by
  have low : v % 2 ^ lo < 2 ^ lo := Nat.mod_lt _ (Nat.two_pow_pos _)
  have mid : 2 ^ lo * (x % 2 ^ (hi + 1 - lo)) + v % 2 ^ lo < 2 ^ (hi + 1) := by
    have split : 2 ^ (hi + 1) = 2 ^ lo * 2 ^ (hi + 1 - lo) := by rw [← Nat.pow_add]; congr 1; omega
    have whole : 2 ^ lo * (x % 2 ^ (hi + 1 - lo) + 1) ≤ 2 ^ lo * 2 ^ (hi + 1 - lo) :=
      Nat.mul_le_mul_left _ (Nat.mod_lt _ (Nat.two_pow_pos _))
    rw [split]
    rw [Nat.mul_succ] at whole
    omega
  have shape : setBits v hi lo x =
      2 ^ (hi + 1) * (v / 2 ^ (hi + 1)) + (2 ^ lo * (x % 2 ^ (hi + 1 - lo)) + v % 2 ^ lo) := by
    rw [setBits, Nat.mul_comm (v / _), Nat.mul_comm (x % _), Nat.add_assoc]
  rw [shape, Nat.testBit_two_pow_mul_add _ mid, Nat.testBit_two_pow_mul_add _ low]
  rcases Nat.lt_or_ge j lo with below | from_lo
  · simp [below, show j < hi + 1 by omega, show ¬ lo ≤ j by omega, Nat.testBit_mod_two_pow]
  · rcases Nat.lt_or_ge j (hi + 1) with inside | above
    · simp [inside, from_lo, Nat.not_lt.mpr from_lo, show j ≤ hi by omega, Nat.testBit_mod_two_pow,
        show j - lo < hi + 1 - lo by omega]
    · simp [Nat.not_lt.mpr above, show ¬ j ≤ hi by omega, Nat.testBit_div_two_pow, Nat.sub_add_cancel above]

/-- The bits of a field of n bits extended by its own highest bit, as BFE.i32 forms it. -/
theorem getLsbD_extended {f n : Nat} (hn : n ≠ 0) (hn32 : n ≤ 32) (hf : f < 2 ^ n) {j : Nat} (hj : j < 32) :
    (if 2 ^ (n - 1) ≤ f then BitVec.ofNat 32 (f + 2 ^ 32 - 2 ^ n) else BitVec.ofNat 32 f).getLsbD j =
      if j < n then f.testBit j else f.testBit (n - 1) := by
  have pow_n : 2 ^ n = 2 ^ (n - 1) + 2 ^ (n - 1) := by rw [← Nat.two_mul, ← Nat.pow_succ']; congr 1; omega
  have top : f.testBit (n - 1) = decide (2 ^ (n - 1) ≤ f) := by
    rw [Nat.testBit_eq_decide_div_mod_eq]
    rcases Nat.lt_or_ge f (2 ^ (n - 1)) with small | big
    · simp [Nat.div_eq_of_lt small, Nat.not_le.mpr small]
    · have : f / 2 ^ (n - 1) = 1 := Nat.div_eq_of_lt_le (by omega) (by omega)
      simp [this, big]
  by_cases neg : 2 ^ (n - 1) ≤ f
  · have ones : f + 2 ^ 32 - 2 ^ n = 2 ^ n * (2 ^ (32 - n) - 1) + f := by
      have split : 2 ^ 32 = 2 ^ n * 2 ^ (32 - n) := by rw [← Nat.pow_add]; congr 1; omega
      have le : 2 ^ n ≤ 2 ^ n * 2 ^ (32 - n) := Nat.le_mul_of_pos_right _ (Nat.two_pow_pos _)
      rw [split, Nat.mul_sub, Nat.mul_one]; omega
    rw [if_pos neg, getLsbD_ofNat_word _ hj, ones, Nat.testBit_two_pow_mul_add _ hf, Nat.testBit_two_pow_sub_one, top]
    split
    · rfl
    · simp [neg]; omega
  · rw [if_neg neg, getLsbD_ofNat_word _ hj, top]
    split
    · rfl
    · next past =>
      simpa [neg] using Nat.testBit_lt_two_pow (Nat.lt_of_lt_of_le hf (Nat.pow_le_pow_right (by decide) (Nat.not_lt.mp past)))

/-- The fold of BREV has bit n − 1 − j of its argument at bit j. -/
theorem testBit_foldl_bits (p : Nat → Bool) (n j : Nat) :
    ((List.range n).foldl (fun r i => r * 2 + (p i).toNat) 0).testBit j = (decide (j < n) && p (n - 1 - j)) := by
  induction n generalizing j with
  | zero => simp
  | succ n ih =>
    rw [List.range_succ, List.foldl_append]
    cases j with
    | zero =>
      cases h : p n <;> simp [Nat.testBit_zero, h]
    | succ j =>
      have half (r : Nat) : (r * 2 + (p n).toNat) / 2 = r := by have := Bool.toNat_lt (p n); omega
      simp only [List.foldl_cons, List.foldl_nil, Nat.testBit_succ, half, ih]
      congr 2
      · simp
      · omega

end Sys2Proof.Machine
end

section
/-! Logic, shifts, counts, SEL, bit fields and PRMT (15 R272 to R275): each function of the lane against its value as
the chapter gives it. -/

namespace Sys2Proof.Machine
open Sys2Proof Sys2Proof.Claims

theorem Alu.toNat_shl (a b : Word) : (Alu.shl a b).toNat = a.toNat * 2 ^ b.toNat % 2 ^ 32 := by
  unfold Alu.shl
  split
  · rw [BitVec.toNat_shiftLeft, Nat.shiftLeft_eq]
  · next far =>
    have dvd : 2 ^ 32 ∣ a.toNat * 2 ^ b.toNat := 
      Nat.dvd_mul_left_of_dvd (Nat.pow_dvd_pow 2 (Nat.not_lt.mp far)) _
    exact (Nat.mod_eq_zero_of_dvd dvd).symm

theorem Alu.toNat_shr (a b : Word) : (Alu.shr a b).toNat = a.toNat / 2 ^ b.toNat := by
  unfold Alu.shr
  split
  · rw [BitVec.toNat_ushiftRight, Nat.shiftRight_eq_div_pow]
  · next far =>
    have small : a.toNat < 2 ^ b.toNat := 
      Nat.lt_of_lt_of_le a.isLt (Nat.pow_le_pow_right (by decide) (Nat.not_lt.mp far))
    exact (Nat.div_eq_of_lt small).symm

/-- Past 31 places a signed word shifts no further: its quotient is 0 or −1. -/
theorem toInt_div_two_pow_min (a : Word) (n : Nat) : a.toInt / 2 ^ min n 31 = a.toInt / 2 ^ n := by
  rcases Nat.le_total n 31 with near | far
  · rw [Nat.min_eq_left near]
  · have le : (2 : Int) ^ 31 ≤ 2 ^ n := by exact_mod_cast Nat.pow_le_pow_right (n := 2) (by decide) far
    have lower : -2147483648 ≤ a.toInt := BitVec.le_toInt a
    have upper : a.toInt < 2147483648 := BitVec.toInt_lt
    have quotient (k : Int) (hk : 2147483648 ≤ k) : a.toInt / k = if a.toInt < 0 then -1 else 0 := by
      split
      · exact (Int.ediv_eq_iff_of_pos (by omega)).mpr ⟨by omega, by omega⟩
      · exact Int.ediv_eq_zero_of_lt (by omega) (by omega)
    rw [Nat.min_eq_right far, quotient _ (by decide), quotient _ le]

theorem Alu.toNat_sar (a b : Word) : (Alu.sar a b).toNat = (a.toInt / 2 ^ b.toNat % 2 ^ 32).toNat := by
  rw [Alu.sar, BitVec.sshiftRight_eq, BitVec.toNat_ofInt, Int.shiftRight_eq_div_pow, ← toInt_div_two_pow_min]
  simp

theorem Alu.toNat_rotl (a b : Word) :
    (Alu.rotl a b).toNat = ofBits (fun j => a.getLsbD ((j + 32 - b.toNat % 32) % 32)) := by
  refine toNat_eq_ofBits fun j hj => ?_
  have amount : b.toNat % 32 < 32 := Nat.mod_lt _ (by decide)
  rw [Alu.rotl, BitVec.getLsbD_rotateLeft, Nat.mod_eq_of_lt amount]
  generalize b.toNat % 32 = n at amount
  rcases Nat.lt_or_ge j n with wraps | moves
  · rw [decide_eq_true wraps, cond_true, Nat.mod_eq_of_lt (by omega)]
    congr 1; omega
  · rw [decide_eq_false (Nat.not_lt.mpr moves), cond_false, decide_eq_true hj, Bool.true_and,
      show j + 32 - n = j - n + 32 by omega, Nat.add_mod_right, Nat.mod_eq_of_lt (by omega)]

theorem Alu.toNat_popc (a : Word) : (Alu.popc a).toNat = ((List.range 32).filter a.getLsbD).length := by
  have le : ((List.range 32).filter a.getLsbD).length ≤ 32 := 
    Nat.le_trans (List.length_filter_le _ _) (Nat.le_of_eq List.length_range)
  exact Nat.mod_eq_of_lt (by omega)

/-- The number of leading zeros is the place, from the top, of the first bit that is 1. -/
theorem Alu.toNat_clz (a : Word) :
    (Alu.clz a).toNat = ((List.range 33).find? (fun n => n == 32 || a.getLsbD (31 - n))).getD 0 := by
  by_cases zero : a = 0
  · subst zero; decide
  · have ne : a.toNat ≠ 0 := fun e => zero (BitVec.eq_of_toNat_eq (by simpa using e))
    have top : a.toNat.log2 < 32 := (Nat.log2_lt ne).mpr a.isLt
    have found : (List.range 33).find? (fun n => n == 32 || a.getLsbD (31 - n)) = some (31 - a.toNat.log2) := by
      refine List.find?_range_eq_some.mpr ⟨?_, List.mem_range.mpr (by omega), fun j hj => ?_⟩
      · have back : 31 - (31 - a.toNat.log2) = a.toNat.log2 := by omega
        simp [back, BitVec.getLsbD, Nat.testBit_log2 ne]
      · have clear : a.toNat.testBit (31 - j) = false :=
          Nat.testBit_lt_two_pow (Nat.lt_of_lt_of_le Nat.lt_log2_self (Nat.pow_le_pow_right (by decide) (by omega)))
        simp [BitVec.getLsbD, clear]; omega
    rw [found, Alu.clz, if_neg zero]
    exact Nat.mod_eq_of_lt (by omega)

theorem Alu.toNat_brev (a : Word) : (Alu.brev a).toNat = ofBits (fun j => a.getLsbD (31 - j)) := by
  refine toNat_eq_ofBits fun j hj => ?_
  rw [Alu.brev, getLsbD_ofNat_word _ hj, testBit_foldl_bits]
  simp [hj]

/-- The field of BFE under .n32 has zeros past bit 31. -/
theorem testBit_field_n32 {x : LXA} (unsigned : x.ty ≠ 1) (a k : Word) (j : Nat) :
    (a.toNat / 2 ^ pos k).testBit j = fieldBit x a k j := by
  rw [Nat.testBit_div_two_pow, Nat.add_comm, fieldBit]
  split
  · rfl
  · next past =>
    have zero : a.toNat.testBit (pos k + j) = false := BitVec.getLsbD_of_ge a _ (Nat.not_lt.mp past)
    rw [zero, beq_false_of_ne unsigned, Bool.false_and]

/-- The field of BFE under .i32 has copies of bit 31 past it. -/
theorem testBit_field_i32 {x : LXA} (signed : x.ty = 1) (a k : Word) {j : Nat} (hj : j < 32) :
    (a.sshiftRight (pos k)).toNat.testBit j = fieldBit x a k j := by
  show (a.sshiftRight (pos k)).getLsbD j = _
  rw [BitVec.getLsbD_sshiftRight, BitVec.msb_eq_getLsbD_last, fieldBit]
  simp [hj, signed]

theorem Alu.toNat_bfe (x : LXA) (a k : Word) : (Alu.bfe x.ty a k).toNat = Claims.bfe x a k := by
  have most : len k ≤ 32 := Nat.min_le_right _ _
  have field : Alu.field k = (pos k, len k) := rfl
  simp only [Alu.bfe, Claims.bfe, field]
  by_cases empty : len k = 0
  · simp [empty]
  rw [if_neg empty, if_neg empty]
  refine toNat_eq_ofBits fun j hj => ?_
  by_cases signed : x.ty = 1
  · have bit {i : Nat} (hi : i < len k) :
        ((a.sshiftRight (pos k)).toNat % 2 ^ len k).testBit i = fieldBit x a k i := by
      rw [Nat.testBit_mod_two_pow, testBit_field_i32 signed a k (by omega)]; simp [hi]
    rw [if_pos (by simp [signed]), getLsbD_extended empty most (Nat.mod_lt _ (Nat.two_pow_pos _)) hj,
      bit (i := len k - 1) (by omega)]
    split
    · next inside => exact bit inside
    · simp [signed]
  · rw [if_neg (by simpa using signed), getLsbD_ofNat_word _ hj, Nat.testBit_mod_two_pow, testBit_field_n32 signed,
      beq_false_of_ne signed, Bool.false_and]
    by_cases inside : j < len k <;> simp [inside]

theorem Alu.toNat_bfi (a k c : Word) : (Alu.bfi a k c).toNat = Claims.bfi a k c := by
  have field : Alu.field k = (pos k, len k) := rfl
  have start : pos k < 32 := Nat.mod_lt _ (by decide)
  refine toNat_eq_ofBits fun j hj => ?_
  simp only [Alu.bfi, field]
  split
  · next empty => rw [if_neg (by omega)]
  · next some_bits =>
    rw [getLsbD_ofNat_word _ hj, testBit_setBits (by omega)]
    exact ite_congr (propext (by omega)) (fun _ => rfl) (fun _ => rfl)

theorem prmtByte_lt (a b c : Word) (i : Nat) : prmtByte a b c i < 256 := by
  have byte (n : Nat) : byteOf a b n < 256 := Nat.mod_lt _ (by decide)
  simp only [prmtByte]
  split
  · split <;> decide
  · exact byte _

/-- Bit 3 of a selector nibble tells that it is 8 or more. -/
theorem Alu.prmt_eq (a b c : Word) : Alu.prmt a b c = BitVec.ofNat 32
    (prmtByte a b c 0 + prmtByte a b c 1 * 2 ^ 8 + prmtByte a b c 2 * 2 ^ 16 + prmtByte a b c 3 * 2 ^ 24) := by
  have byte (i : Nat) : (if c.toNat / 16 ^ i % 16 / 8 == 1 then
      (if 128 ≤ byteOf a b (c.toNat / 16 ^ i % 16 % 8) then 255 else 0)
      else byteOf a b (c.toNat / 16 ^ i % 16 % 8)) = prmtByte a b c i :=
    ite_congr (propext (by rw [beq_iff_eq]; omega)) (fun _ => rfl) (fun _ => rfl)
  rw [← byte 0, ← byte 1, ← byte 2, ← byte 3]
  rfl

theorem Alu.toNat_prmt (a b c : Word) : (Alu.prmt a b c).toNat =
    prmtByte a b c 0 + prmtByte a b c 1 * 2 ^ 8 + prmtByte a b c 2 * 2 ^ 16 + prmtByte a b c 3 * 2 ^ 24 := by
  have lt := prmtByte_lt a b c
  have := lt 0; have := lt 1; have := lt 2; have := lt 3
  rw [Alu.prmt_eq, BitVec.toNat_ofNat]
  exact Nat.mod_eq_of_lt (by omega)

end Sys2Proof.Machine
end

section
/-! What the check of a word leaves of an arithmetic opcode that takes no modifier (13 R240, 15 R263). -/

namespace Sys2Proof
open Sys2Proof.Claims

theorem verdict_eq_zero {zero value : List Bool} :
    verdict zero value = 0 ↔ (∀ b ∈ zero, b = true) ∧ ∀ b ∈ value, b = true := by
  unfold verdict
  split <;> simp_all

/-- The opcode takes no modifier and no second type. -/
def ArithSpec.bare (p : ArithSpec) : Bool := !p.neg && !p.abs && !p.sat && !p.rnd && p.second.isNone

/-- A bare opcode accepts only a plain word of one of its types. -/
theorem ArithSpec.plain_of_code {p : ArithSpec} {w : LA} {x : LXA} {zero value : List Bool} (bare : p.bare = true)
    (legal : p.code w x zero value = 0) : x.ty.toNat ∈ p.types ∧ plain x ∧ ∀ b ∈ zero, b = true := by
  obtain ⟨zeros, values⟩ := verdict_eq_zero.mp legal
  simp only [ArithSpec.bare, Bool.and_eq_true, Bool.not_eq_true', Option.isNone_iff_eq_none] at bare
  obtain ⟨⟨⟨⟨neg, abs⟩, sat⟩, rnd⟩, second⟩ := bare
  simp only [neg, abs, sat, rnd, second, List.forall_mem_append, List.forall_mem_cons] at zeros values
  obtain ⟨extra, na, nb, nc, abs0, rnd0, -, -, -, sat0, -⟩ := zeros
  obtain ⟨-, type, -⟩ := values
  exact ⟨by simpa using type, by simp_all [plain], extra⟩

/-- A bare .b32 opcode. -/
theorem ArithSpec.b32_of_code {p : ArithSpec} {w : LA} {x : LXA} {zero value : List Bool} (bare : p.bare = true)
    (types : p.types = [0]) (legal : p.code w x zero value = 0) : x.ty = 0 ∧ plain x := by
  obtain ⟨type, noMods, -⟩ := ArithSpec.plain_of_code bare legal
  exact ⟨BitVec.eq_of_toNat_eq (by simpa [types] using type), noMods⟩

end Sys2Proof
end

section
/-! What the logic, shift and bit-field instructions do and what they accept (15 R272 to R275). -/

namespace Sys2Proof.Machine
open Sys2Proof Sys2Proof.Claims

/-! ## Results -/

section Issues
variable {i : Instr} {w : LA}

/-- An instruction that the shared issue runs writes what its function of the group gives. -/
theorem laneWrites_of_aluIssue {f : Foot} {n : Nat} (val : Group → Mask → Nat → Nat × Nat)
    (runs : ∀ s, exec i s = aluIssue i w f n false val s := by intro s; rfl)
    (frame : ∀ g a b, val { g with lastDelivery := a, bad := b } = val g := by intros; rfl) :
    LaneWrites i w f n val := by
  intro s h
  rw [runs]
  exact aluIssue_runs h (frame s.g)

/-- The same for one word and no flag; `spec` is the word's value. -/
theorem laneWord_of_aluIssue {reads : List Nat} {spec : Group → Nat → Nat} (word : Group → Nat → Word)
    (value : ∀ g l, (word g l).toNat = spec g l)
    (runs : ∀ s, exec i s = aluIssue i w { vr := reads } 1 false (fun g _ l => ((word g l).toNat, 0)) s := by
      intro s; rfl)
    (frame : ∀ g a b, word { g with lastDelivery := a, bad := b } = word g := by intros; rfl) :
    LaneWord i w reads spec := by
  have e := laneWrites_of_aluIssue _ runs fun g a b => by rw [frame]
  simpa only [LaneWord, value] using e

end Issues

theorem laneLogicResult : Claims.LaneLogicResult := by
  intro w x
  refine ⟨?and, ?or, ?xor, ?andn, ?not, ?shl, ?shr, ?sar, ?rotl, ?popc, ?clz, ?brev, ?sel⟩
  case and => exact laneWord_of_aluIssue (fun g l => A g w l &&& B g w x l) fun _ _ => rfl
  case or => exact laneWord_of_aluIssue (fun g l => A g w l ||| B g w x l) fun _ _ => rfl
  case xor => exact laneWord_of_aluIssue (fun g l => A g w l ^^^ B g w x l) fun _ _ => rfl
  case andn => exact laneWord_of_aluIssue (fun g l => A g w l &&& ~~~ B g w x l) fun _ _ => rfl
  case not => exact laneWord_of_aluIssue (fun g l => ~~~ A g w l) fun _ _ => BitVec.toNat_not
  case shl => exact laneWord_of_aluIssue (fun g l => Alu.shl (A g w l) (B g w x l)) fun _ _ => Alu.toNat_shl ..
  case shr => exact laneWord_of_aluIssue (fun g l => Alu.shr (A g w l) (B g w x l)) fun _ _ => Alu.toNat_shr ..
  case sar => exact laneWord_of_aluIssue (fun g l => Alu.sar (A g w l) (B g w x l)) fun _ _ => Alu.toNat_sar ..
  case rotl => exact laneWord_of_aluIssue (fun g l => Alu.rotl (A g w l) (B g w x l)) fun _ _ => Alu.toNat_rotl ..
  case popc => exact laneWord_of_aluIssue (fun g l => Alu.popc (A g w l)) fun _ _ => Alu.toNat_popc ..
  case clz => exact laneWord_of_aluIssue (fun g l => Alu.clz (A g w l)) fun _ _ => Alu.toNat_clz ..
  case brev => exact laneWord_of_aluIssue (fun g l => Alu.brev (A g w l)) fun _ _ => Alu.toNat_brev ..
  case sel => exact laneWrites_of_aluIssue _

theorem laneFieldResult : Claims.LaneFieldResult := by
  intro w x
  refine ⟨?bfe, ?bfi, ?prmt⟩
  case bfe => exact laneWord_of_aluIssue (fun g l => Alu.bfe x.ty (A g w l) (B g w x l)) fun _ _ => Alu.toNat_bfe ..
  case bfi => exact laneWord_of_aluIssue (fun g l => Alu.bfi (A g w l) (B3 g w l) (C g x l)) fun _ _ => Alu.toNat_bfi ..
  case prmt =>
    exact laneWord_of_aluIssue (fun g l => Alu.prmt (A g w l) (B3 g w l) (C g x l)) fun _ _ => Alu.toNat_prmt ..

/-! ## Accepted forms -/

theorem laneBitsForms : Claims.LaneBitsForms := by
  intro w x i wellFormed
  have legal : i.wfCode = 0 := by simpa [Instr.WellFormed] using wellFormed
  refine ⟨fun listed => ?b32, ?sel, ?bfe⟩
  case b32 =>
    simp only [List.mem_cons, List.not_mem_nil, or_false] at listed
    have code : Spec.bits2.code w x = 0 ∨ Spec.bits1.code w x = 0 ∨ Spec.bits3.code w x = 0 := by
      rcases listed with rfl | rfl | rfl | rfl | rfl | rfl | rfl | rfl | rfl | rfl | rfl | rfl | rfl | rfl <;>
        simp only [Instr.wfCode] at legal <;> simp only [legal, true_or, or_true]
    rcases code with binary | unary | ternary
    · exact ArithSpec.b32_of_code rfl rfl binary
    · exact ArithSpec.b32_of_code rfl rfl unary
    · exact ArithSpec.b32_of_code rfl rfl ternary
  case sel =>
    rintro rfl
    obtain ⟨-, -, extra⟩ := ArithSpec.plain_of_code rfl legal
    obtain ⟨type, noMods⟩ := ArithSpec.b32_of_code rfl rfl legal
    have mode : x.pd = 7 ∨ x.c = 0 := by simpa using extra
    exact ⟨type, noMods, mode.resolve_left⟩
  case bfe =>
    rintro rfl
    obtain ⟨type, noMods, -⟩ := ArithSpec.plain_of_code rfl legal
    exact ⟨by simpa [Spec.int2ns, ← BitVec.toNat_inj] using type, noMods⟩

/-- Settles O33: the shared issue of the lane arithmetic writes each result, which is the word that the chapter gives,
and the checks of a word leave only plain forms. -/
theorem laneBitsResult : Obligations.LaneBitsResult := ⟨laneLogicResult, laneFieldResult, laneBitsForms⟩

end Sys2Proof.Machine
end
